-- ==== Sys2Proof/Word.lean ====
section
/-!
DEFINITION. Words and the sparse tables that hold them.
Rules: R4 (bits are numbered from 0), R5 (little-endian), R59 (32-bit lane words).
-/

namespace Sys2Proof

/-- A 32-bit lane word (R59). -/
abbrev Word := BitVec 32

/-- A byte (R5). -/
abbrev Byte := BitVec 8

/-- A 7-bit operand field (R31). -/
abbrev Field := BitVec 7

/-- Sparse contents: pairs of a key and a value, keys strictly rising, no pair equal to what an unlisted
key reads as (Machine/Table.lean says so and gives the operations). -/
abbrev Table (w : Nat) := List (Nat × BitVec w)

/-- A word with one value at every bit. -/
def Word.ones : Word := 0xFFFFFFFF#32

/-- 1 or 0 as a word: the predicate words of R105, R130. -/
def Word.ofBool (b : Bool) : Word := if b then 1#32 else 0#32

end Sys2Proof
end

