-- ==== Sys2Proof/Syntax.lean ====
section
/-!
DEFINITION. The instruction set: one constructor per row of spec/opcode_table.json.
The first part are the encodings of R53 (operand fields as R26, R31 give them; a field an entry marks
as ignored, R30, is no operand). The second part are the rows without an encoding: steps of the engines,
of the fabric and of the outside world, with the data each needs as operands.
-/

namespace Sys2Proof

/-- Conditions of b (R54). -/
inductive Cond
  | al | eq | ne | hs | lo | mi | pl | vs | vc | hi | ls | ge | lt | gt | le
  deriving DecidableEq, Repr

/-- Conditions of bm (R54). -/
inductive MCond
  | mz | nmz | ma | nma
  deriving DecidableEq, Repr

/-- The readings of cmpu (R104). -/
inductive CmpT
  | i32 | n32 | f32
  deriving DecidableEq, Repr

/-- Signed or natural reading of a 32-bit word (R59). -/
inductive Sgn
  | i32 | n32
  deriving DecidableEq, Repr

/-- Forms of idr (R111). -/
inductive IdrForm
  | core | die | cluster | teams | groups | launch | arch
  deriving DecidableEq, Repr

/-- Conditions of setc (R130). -/
inductive SetCond
  | eq | ne | ltI | leI | gtI | geI | ltN | leN | gtN | geN
  deriving DecidableEq, Repr

/-- Forms of shfl (R136). -/
inductive ShflForm
  | idx | bcast | xor | up | down
  deriving DecidableEq, Repr

/-- Forms of vote (R137). -/
inductive VoteForm
  | any | all | ballot | uni
  deriving DecidableEq, Repr

/-- Operators of red (R138). -/
inductive RedOp
  | addI32 | minI32 | maxI32 | minN32 | maxN32 | and | or | xor
  deriving DecidableEq, Repr

/-- Operators of scan (R138). -/
inductive ScanOp
  | addIncl | addExcl | maxI32Incl | minI32Incl | orIncl
  deriving DecidableEq, Repr

/-- Relations of fcmp (R147). -/
inductive FCond
  | eq | ne | lt | le | gt | ge | un | ord
  deriving DecidableEq, Repr

/-- The narrow element, or whole word, of a conversion (R151, R152): functions 0–13 of majors 0x2F, 0x30. -/
inductive CvtSel
  | f16lo | f16hi | bf16lo | bf16hi
  | e4m3b0 | e4m3b1 | e4m3b2 | e4m3b3
  | e5m2b0 | e5m2b1 | e5m2b2 | e5m2b3
  | i32 | n32
  deriving DecidableEq, Repr

/-- Element types of qpack and qunpack (R153, R154). -/
inductive QType
  | i8 | n8 | i4 | n4
  deriving DecidableEq, Repr

/-- Load widths (R165). -/
inductive LdW
  | n8 | i8 | n16 | i16 | n32 | w64 | w128
  deriving DecidableEq, Repr

/-- Store widths (R165). -/
inductive StW
  | w8 | w16 | w32 | w64 | w128
  deriving DecidableEq, Repr

/-- Operators of atom (R181). -/
inductive AtomOp
  | addI32 | minI32 | maxI32 | minN32 | maxN32 | and | or | xor | xchg | cas | addF32
  deriving DecidableEq, Repr

/-- Scopes of dusk and dawn (R173). -/
inductive Scope
  | core | die | pkg | sys
  deriving DecidableEq, Repr

/-- Operators of scatred (R317). -/
inductive ScatOp
  | addI32 | addF32 | minI32 | maxI32 | minF32 | maxF32
  deriving DecidableEq, Repr

/-- Who asks for a queue operation (R369): an IPv6 address and a job identifier. -/
structure Requester where
  address : BitVec 128
  job     : BitVec 24
  deriving DecidableEq, Repr

/-- A queue operation's queue, and who asks for it (R369). (DESIGN CHOICE, log 25.) -/
structure Asked where
  queue : Nat
  who   : Requester
  deriving DecidableEq, Repr

/-- The key that a load carries (R369): the ML-KEM ciphertext, and the key pair wrapped under the secret that it shares. (DEDUCED, log 39.) -/
structure KeyLoad where
  ciphertext : List Byte
  wrapped    : List Byte
  deriving DecidableEq, Repr

/-- What the tests of bring-up find failing (R373): physical cores (step 2), node engines (step 3), links (step 4), ports (step 5). -/
structure Found where
  cores   : List Nat := []
  engines : List Nat := []
  links   : List Nat := []
  ports   : List Nat := []
  deriving DecidableEq, Repr

/-- A queue's configuration (R338, R359, R369). (DESIGN CHOICE, log 25.) -/
structure QueueCfg where
  priority  : Nat
  stackBase : BitVec 52
  /-- Where the peer table lies, and how many entries it has. -/
  peerTable : BitVec 52
  peers     : Nat
  spillRing : BitVec 52
  eventDest : BitVec 128
  tolerance : Nat
  root      : BitVec 48
  /-- Who alone may ask for operations on the queue. -/
  requester : Requester
  deriving DecidableEq, Repr

/-- The signature and sequence number a configuration operation carries (R369): who signed, as the digest
of the key that the XMSS signature verifies under, and whether it verifies. (DEDUCED, log 39.) -/
structure Signed where
  seqNo    : Nat
  keyDigest : BitVec 256
  valid    : Bool
  deriving DecidableEq, Repr

/-- A firmware image as an update delivers it (R367). (DEDUCED, log 39.) -/
structure FwImage where
  /-- The digest of the key that its signature verifies under, and whether it verifies. -/
  keyDigest     : BitVec 256
  signatureGood : Bool
  secVersion    : Nat
  digest        : BitVec 256
  deriving DecidableEq, Repr

/-- Where an arriving message comes from: a packet of this module, or a peer that sends to a queue (R329, R338). -/
inductive MsgSource
  | packet (id : Nat)
  | peer (queue : Nat) (target : Word) (payload : List Word)
  deriving DecidableEq, Repr

/-- An instruction of the machine: one constructor per row of spec/opcode_table.json. -/
inductive Instr
  -- clause header (R40)
  | clauseStart (wait : BitVec 12) (setA setB len : BitVec 4) (lits : BitVec 2) (region : Bool)
  -- team flow (R101 to R114)
  | nop
  | halt
  | bCond (c : Cond) (off : BitVec 21)
  | bMask (c : MCond) (off : BitVec 21)
  | call (off : BitVec 21)
  | ret (a : Field)
  | callr (d a : Field)
  | br (a : Field)
  | cmpu (t : CmpT) (a b : Field)
  | mpush (d p : Field)
  | melse (s p : Field)
  | mpop (s : Field)
  | yield
  | yieldF (a b : Field)
  | yieldC (d a b : Field)
  | yieldParkResume (team : Nat)
  | winbase (base : BitVec 4)
  | stgpost (a q : Field)
  | stgtake (d q : Field)
  | stageRingResume (team : Nat)
  | idr (f : IdrForm) (d : Field)
  | cycles (hi : Bool) (d : Field)
  | retired (hi : Bool) (d : Field)
  | regionPc (d : Field)
  | regionCount (d : Field)
  -- integer (R121 to R138)
  | add (d a b : Field)
  | sub (d a b : Field)
  | addc (d a b : Field)
  | subc (d a b : Field)
  | adds (t : Sgn) (d a b : Field)
  | subs (t : Sgn) (d a b : Field)
  | mul (d a b : Field)
  | mulhI32 (d a b : Field)
  | mulhN32 (d a b : Field)
  | mulwI32 (d a b : Field)
  | mulwN32 (d a b : Field)
  | mad (d a b : Field)
  | madhI32 (d a b : Field)
  | madhN32 (d a b : Field)
  | divstepN32 (d a : Field)
  | divstepI32 (d a b : Field)
  | and (d a b : Field)
  | or (d a b : Field)
  | xor (d a b : Field)
  | andn (d a b : Field)
  | orn (d a b : Field)
  | xnor (d a b : Field)
  | not (d a : Field)
  | shl (d a b : Field)
  | shrN32 (d a b : Field)
  | shrI32 (d a b : Field)
  | rotl (d a b : Field)
  | rotr (d a b : Field)
  | minI32 (d a b : Field)
  | maxI32 (d a b : Field)
  | minN32 (d a b : Field)
  | maxN32 (d a b : Field)
  | absI32 (d a : Field)
  | setc (c : SetCond) (d a b : Field)
  | sel (d a b : Field)
  | popc (d a : Field)
  | clz (d a : Field)
  | ctz (d a : Field)
  | brev (d a : Field)
  | bfxN32 (d a b : Field)
  | bfxI32 (d a b : Field)
  | bfi (d a b : Field)
  | prm (d a b : Field)
  | lea (s : Fin 5) (d a b : Field)
  | mov (d a : Field)
  | movi (d : Field) (imm : BitVec 14)
  | movhi (d : Field) (imm : BitVec 14)
  | shfl (f : ShflForm) (d a b : Field)
  | vote (f : VoteForm) (d a : Field)
  | red (o : RedOp) (d a : Field)
  | scan (o : ScanOp) (d a : Field)
  -- float (R143 to R157)
  | fadd (d a b : Field)
  | fsub (d a b : Field)
  | fmul (d a b : Field)
  | ffma (d a b : Field)
  | ffms (d a b : Field)
  | ffnma (d a b : Field)
  | ffnms (d a b : Field)
  | fmin (d a b : Field)
  | fmax (d a b : Field)
  | fminm (d a b : Field)
  | fmaxm (d a b : Field)
  | fabs (d a : Field)
  | fneg (d a : Field)
  | fcmp (c : FCond) (d a b : Field)
  | frcp (d a : Field)
  | frsq (d a : Field)
  | fsqrt (d a : Field)
  | fexp2 (d a : Field)
  | flog2 (d a : Field)
  | ftanh (d a : Field)
  | hadd2F16 (d a b : Field)
  | hmul2F16 (d a b : Field)
  | hfma2F16 (d a b : Field)
  | hadd2Bf16 (d a b : Field)
  | hmul2Bf16 (d a b : Field)
  | hfma2Bf16 (d a b : Field)
  | hmin2F16 (d a b : Field)
  | hmax2F16 (d a b : Field)
  | hmin2Bf16 (d a b : Field)
  | hmax2Bf16 (d a b : Field)
  | cvtToF32 (s : CvtSel) (d a : Field)
  | cvtFromF32 (s : CvtSel) (d a : Field)
  | qpack (t : QType) (d a b : Field)
  | qunpack (t : QType) (d a b : Field)
  | fmtset (d a : Field)
  | fmode (d a : Field)
  -- local memory (R165 to R186)
  | ldSh (w : LdW) (d a : Field) (off : BitVec 7)
  | stSh (w : StW) (d a : Field) (off : BitVec 7)
  | ldSp (w : LdW) (d a : Field) (off : BitVec 7)
  | stSp (w : StW) (d a : Field) (off : BitVec 7)
  | ldSt (w : LdW) (d a : Field) (off : BitVec 7)
  | stSt (w : StW) (d a : Field) (off : BitVec 7)
  | ldlk (d a : Field) (off : BitVec 7)
  | stul (d a : Field) (off : BitVec 7)
  | atomSh (o : AtomOp) (d a : Field) (off : BitVec 7)
  | atomSp (o : AtomOp) (d a : Field) (off : BitVec 7)
  | atomLockWaitResume (team : Nat)
  | dusk (s : Scope)
  | dawn (s : Scope)
  | duskStallRelease (team : Nat)
  | idleRefresh (core : Nat)
  | loadCompletion (team : Nat)
  | stackFillComplete (team : Nat)
  | landingLoadResume (team : Nat)
  | landingStoreResume (team : Nat)
  -- copy (R188 to R216)
  | cstage (d a : Field)
  | cstageArg (d a b : Field)
  | copyRelease (team : Nat)
  | copyLanding (range : Nat)
  | copyOverlapRelease (range : Nat)
  | copyCompletion (core slot : Nat)
  | copyDeregistration (range : Nat)
  | copyDeadline (core slot : Nat)
  | cwait (a b : Field)
  | counterPoll (team : Nat)
  | cread (d a : Field)
  | wmread (d a : Field)
  | cstat (d a : Field)
  | balloc (d a b : Field)
  | bref (a : Field)
  | bfree (a : Field)
  | barrive (d a : Field)
  | bexpect (a b : Field)
  | bwait (d a b : Field)
  | barrierTimeout (die index : Nat)
  | barrierToken (handle : Word) (presence : Bool)
  -- matrix (R217 to R242)
  | mmq (b a v : Field)
  | mmqs (j : BitVec 4) (b a v : Field)
  | mmc (b a v : Field)
  | mxfence
  | mxzero (b e : Field)
  | mxread (d b v : Field)
  | mxwrite (b a v : Field)
  | mxsmax (d b v : Field)
  | mxrescale (b v : Field)
  | mxsum (d b : Field)
  | arrayPass (core : Nat)
  | spcmp (d a v : Field)
  | mdload (k a : Field)
  | mdread (d k : Field)
  -- streams (R244 to R261)
  | sopen (s a b : Field)
  | snext (s : Field)
  | sskip (s b : Field)
  | sisect (d a b : Field)
  | sunion (d a b : Field)
  | scrd (d s : Field)
  | spos (d s : Field)
  | partn (d a b : Field)
  | streamSegmentFill (team : Nat)
  -- waves (R265 to R295)
  | gbind (d a : Field)
  | gunbind (a : Field)
  | mark (d a : Field)
  | clear (d a : Field)
  | prop (d a : Field)
  | propf (d a : Field)
  | waveq (d a : Field)
  | collect (d a : Field)
  | collectg (d a : Field)
  | ncount (d a : Field)
  | waveAcceptance (team : Nat)
  | waveStart (place : Nat)
  | waveHopCommit (place : Nat)
  | propfDelivery (place : Nat)
  | waveEnd (place : Nat)
  | engineResidueMismatch (engine : Nat) (second : Bool)
  | sequencerTakeover
  -- walks (R297 to R319)
  | embed (d a : Field)
  | descend (d a : Field)
  | sideapp (d a b : Field)
  | sidepub (a : Field)
  | walkEnd (core slot : Nat)
  | scatred (o : ScatOp) (a b : Field)
  | reductionAtOwner (packet : Nat)
  -- fabric (R321 to R340)
  | amsend (a b : Field)
  | saread (d a : Field)
  | satest (a : Field)
  | spawn (a b : Field)
  | spawnTimeout (core : Nat)
  | childTeamStart (core : Nat)
  | activeMessageArrival (src : MsgSource)
  | handlerTeamStart (core : Nat)
  | allowanceCredit (core entry : Nat) (window : Option Nat)
  | flushMarkerAck (team : Nat)
  | linkReplayRequest (link : Nat)
  | linkOutOfService (link : Nat)
  | auditFlit (link : Nat)
  | auditReply (link : Nat)
  | launchMessage (queue : Nat) (payload : List Byte)
  | launchCheck (queue : Nat)
  | clusterAdmission (launch : Nat)
  | teamEnd (team : Nat)
  | peerUnavailable (queue peer : Nat)
  | remoteWrite (queue : Nat) (addr : BitVec 64) (bytes : List Byte)
  | remoteRead (queue : Nat) (addr : BitVec 64) (len : Nat)
  -- system (R343 to R373)
  | trap (a : Field)
  | tret (m : Field)
  | trapVectorFetchResume (team : Nat)
  | ckpt
  | checkpointPlaneWrite (team : Nat)
  | event (a b : Field)
  | tlbinv (a b : Field)
  | sysrd (d n : Field)
  | syswr (a n : Field)
  | clauseFetchResume (team : Nat)
  | answerFault (queue : Asked) (addr : BitVec 64) (repaired : Bool)
  | preempt (queue : Asked) (seq : Nat) (save : BitVec 64)
  | restore (queue : Asked) (seq : Nat) (moves : List (Nat × Nat × Nat × Nat))
  | invalidateRange (queue : Asked) (addr : BitVec 64) (pages : Nat)
  | enrolOwner (sig : Signed) (newKey : BitVec 256)
  | updateFirmware (sig : Signed) (image : FwImage)
  | configureQueue (sig : Signed) (queue : Nat) (cfg : QueueCfg)
  | loadKey (sig : Signed) (slot : Nat) (key : KeyLoad)
  | unloadKey (sig : Signed) (slot : Nat)
  | attest (nonce : BitVec 256)
  | reset (sig : Signed)
  | powerOn
  | coreFailure (core : Nat) (spare : Option Nat)
  | islandSleep (island : Nat)
  | islandWake (island : Nat)
  | clockThrottle (island mhz : Nat)
  | peerIngressFlush (flush : Nat)
  | crossModuleBarrierAccess (handle : Word) (op : BitVec 3) (value : Word)
  | otherDeliveryModePacket (port : Nat)
  deriving DecidableEq, Repr

end Sys2Proof
end

