-- ==== Sys2Proof/WellFormed.lean ====
section
/-!
DEFINITION. Which operand fields each instruction has, what it does with them, and which values are legal
in their positions: the static part of the checks of R51 (subcode 2), with the facts the other decode-time
checks need (which fields take literals, R48; which read latches, R36; which name window registers, R38).
Rules: R31, R32, R39, R115 to R117, R165, R181, R222, R252, R348.
-/

namespace Sys2Proof

/-- One operand field of an instruction, in the order of R48 (highest bit position first). -/
structure Opnd where
  f    : Field
  /-- The field's register is read at decode or in the pass. -/
  rd   : Bool
  /-- The field's register is written. -/
  wr   : Bool
  /-- How many consecutive registers it names; 0 for a field that carries a number (R32). -/
  span : Nat
  /-- Its value is legal in its position. -/
  ok   : Bool
  deriving DecidableEq, Repr

namespace Opnd

/-- May stand as a destination (R31): not a latch, ln, tm or 127. -/
def dstOk (f : Field) : Bool := f.toNat < 120 || f.toNat == 124

/-- May name a pair (R117): an even v register up to v110, or o0, o2, o4, o6. -/
def pairOk (f : Field) : Bool := f.toNat < 119 && f.toNat % 2 == 0

/-- May stand as 64-bit data (R165). -/
def data64Ok (f : Field) : Bool := pairOk f || f.toNat == 124

/-- May stand as 128-bit data (R165): v registers in fours up to v108, o0, o4. -/
def quadOk (f : Field) : Bool := f.toNat < 117 && f.toNat % 4 == 0

/-- 128-bit data with zr allowed (R165). -/
def data128Ok (f : Field) : Bool := quadOk f || f.toNat == 124

/-- A source of one word. -/
def src (f : Field) : Opnd := ⟨f, true, false, 1, true⟩

/-- A destination of one word. -/
def dst (f : Field) : Opnd := ⟨f, false, true, 1, dstOk f⟩

/-- A destination that is also read as c (R116). -/
def acc (f : Field) : Opnd := ⟨f, true, true, 1, dstOk f⟩

/-- A pair written (R117). -/
def pairDst (f : Field) : Opnd := ⟨f, false, true, 2, pairOk f⟩

/-- A pair read (R117). -/
def pairSrc (f : Field) : Opnd := ⟨f, true, false, 2, pairOk f⟩

/-- A pair read and written (R117). -/
def pairAcc (f : Field) : Opnd := ⟨f, true, true, 2, pairOk f⟩

/-- A field that carries a number below a bound (R32). -/
def num (f : Field) (bound : Nat) : Opnd := ⟨f, false, false, 0, decide (f.toNat < bound)⟩

/-- The data field of a load of a width (R165). -/
def ldData (w : LdW) (f : Field) : Opnd :=
  match w with
  | .w64 => ⟨f, false, true, 2, data64Ok f⟩
  | .w128 => ⟨f, false, true, 4, data128Ok f⟩
  | .n8 => dst f
  | .i8 => dst f
  | .n16 => dst f
  | .i16 => dst f
  | .n32 => dst f

/-- The data field of a store of a width (R165). -/
def stData (w : StW) (f : Field) : Opnd :=
  match w with
  | .w64 => ⟨f, true, false, 2, data64Ok f⟩
  | .w128 => ⟨f, true, false, 4, data128Ok f⟩
  | .w8 => src f
  | .w16 => src f
  | .w32 => src f

/-- The data field of an atomic (R181). -/
def atomData (o : AtomOp) (f : Field) : Opnd :=
  match o with
  | .cas => pairAcc f
  | .addI32 => acc f
  | .minI32 => acc f
  | .maxI32 => acc f
  | .minN32 => acc f
  | .maxN32 => acc f
  | .and => acc f
  | .or => acc f
  | .xor => acc f
  | .xchg => acc f
  | .addF32 => acc f

/-- The counter field of yield.c (R107): read, and 124 to 127 are illegal. -/
def yieldCounter (f : Field) : Opnd := ⟨f, true, false, 1, decide (f.toNat < 124)⟩

/-- A destination that names a v or o register only (MXSMAX). -/
def voDst (f : Field) : Opnd := ⟨f, false, true, 1, decide (f.toNat < 120)⟩

/-- Four registers, zr not allowed (R235, R236). -/
def quadDst (f : Field) : Opnd := ⟨f, false, true, 4, quadOk f⟩

/-- Four registers read, zr not allowed. -/
def quadSrc (f : Field) : Opnd := ⟨f, true, false, 4, quadOk f⟩

/-- Four registers read, zr giving zeros (SPAWN, R332). -/
def data128Src (f : Field) : Opnd := ⟨f, true, false, 4, data128Ok f⟩

/-- The 16 data registers of an A span (R222): a v register n with n + 15 at most 111. -/
def aSpan (f : Field) : Opnd := ⟨f, true, false, 16, decide (f.toNat + 15 ≤ 111)⟩

/-- The first register of a SPCMP span (R239): a v register. -/
def vSrc (f : Field) : Opnd := ⟨f, true, false, 1, decide (f.toNat < 112)⟩

/-- The first destination of SPCMP (R239): a v register. -/
def vDst (f : Field) : Opnd := ⟨f, false, true, 1, decide (f.toNat < 112)⟩

end Opnd

open Opnd in
/-- The decoded operand fields of each instruction, highest bit position first (R48). -/
def Instr.operands : Instr → List Opnd
  | .clauseStart _ _ _ _ _ _ => []
  | .nop => []
  | .halt => []
  | .bCond _ _ => []
  | .bMask _ _ => []
  | .call _ => []
  | .ret a => [src a]
  | .callr d a => [dst d, src a]
  | .br a => [src a]
  | .cmpu _ a b => [src a, src b]
  | .mpush d p => [dst d, src p]
  | .melse s p => [src s, src p]
  | .mpop s => [src s]
  | .yield => []
  | .yieldF a b => [src a, src b]
  | .yieldC d a b => [yieldCounter d, src a, pairSrc b]
  | .yieldParkResume _ => []
  | .winbase _ => []
  | .stgpost a q => [src a, num q 16]
  | .stgtake d q => [dst d, num q 16]
  | .stageRingResume _ => []
  | .idr _ d => [dst d]
  | .cycles _ d => [dst d]
  | .retired _ d => [dst d]
  | .regionPc d => [dst d]
  | .regionCount d => [dst d]
  | .add d a b => [dst d, src a, src b]
  | .sub d a b => [dst d, src a, src b]
  | .addc d a b => [acc d, src a, src b]
  | .subc d a b => [acc d, src a, src b]
  | .adds _ d a b => [dst d, src a, src b]
  | .subs _ d a b => [dst d, src a, src b]
  | .mul d a b => [dst d, src a, src b]
  | .mulhI32 d a b => [dst d, src a, src b]
  | .mulhN32 d a b => [dst d, src a, src b]
  | .mulwI32 d a b => [pairDst d, src a, src b]
  | .mulwN32 d a b => [pairDst d, src a, src b]
  | .mad d a b => [acc d, src a, src b]
  | .madhI32 d a b => [acc d, src a, src b]
  | .madhN32 d a b => [acc d, src a, src b]
  | .divstepN32 d a => [pairAcc d, src a]
  | .divstepI32 d a b => [pairAcc d, src a, src b]
  | .and d a b => [dst d, src a, src b]
  | .or d a b => [dst d, src a, src b]
  | .xor d a b => [dst d, src a, src b]
  | .andn d a b => [dst d, src a, src b]
  | .orn d a b => [dst d, src a, src b]
  | .xnor d a b => [dst d, src a, src b]
  | .not d a => [dst d, src a]
  | .shl d a b => [dst d, src a, src b]
  | .shrN32 d a b => [dst d, src a, src b]
  | .shrI32 d a b => [dst d, src a, src b]
  | .rotl d a b => [dst d, src a, src b]
  | .rotr d a b => [dst d, src a, src b]
  | .minI32 d a b => [dst d, src a, src b]
  | .maxI32 d a b => [dst d, src a, src b]
  | .minN32 d a b => [dst d, src a, src b]
  | .maxN32 d a b => [dst d, src a, src b]
  | .absI32 d a => [dst d, src a]
  | .setc _ d a b => [dst d, src a, src b]
  | .sel d a b => [acc d, src a, src b]
  | .popc d a => [dst d, src a]
  | .clz d a => [dst d, src a]
  | .ctz d a => [dst d, src a]
  | .brev d a => [dst d, src a]
  | .bfxN32 d a b => [dst d, src a, src b]
  | .bfxI32 d a b => [dst d, src a, src b]
  | .bfi d a b => [acc d, src a, src b]
  | .prm d a b => [acc d, src a, src b]
  | .lea _ d a b => [dst d, src a, src b]
  | .mov d a => [dst d, src a]
  | .movi d _ => [dst d]
  | .movhi d _ => [acc d]
  | .shfl _ d a b => [dst d, src a, src b]
  | .vote _ d a => [dst d, src a]
  | .red _ d a => [dst d, src a]
  | .scan _ d a => [dst d, src a]
  | .fadd d a b => [dst d, src a, src b]
  | .fsub d a b => [dst d, src a, src b]
  | .fmul d a b => [dst d, src a, src b]
  | .ffma d a b => [acc d, src a, src b]
  | .ffms d a b => [acc d, src a, src b]
  | .ffnma d a b => [acc d, src a, src b]
  | .ffnms d a b => [acc d, src a, src b]
  | .fmin d a b => [dst d, src a, src b]
  | .fmax d a b => [dst d, src a, src b]
  | .fminm d a b => [dst d, src a, src b]
  | .fmaxm d a b => [dst d, src a, src b]
  | .fabs d a => [dst d, src a]
  | .fneg d a => [dst d, src a]
  | .fcmp _ d a b => [dst d, src a, src b]
  | .frcp d a => [dst d, src a]
  | .frsq d a => [dst d, src a]
  | .fsqrt d a => [dst d, src a]
  | .fexp2 d a => [dst d, src a]
  | .flog2 d a => [dst d, src a]
  | .ftanh d a => [dst d, src a]
  | .hadd2F16 d a b => [dst d, src a, src b]
  | .hmul2F16 d a b => [dst d, src a, src b]
  | .hfma2F16 d a b => [acc d, src a, src b]
  | .hadd2Bf16 d a b => [dst d, src a, src b]
  | .hmul2Bf16 d a b => [dst d, src a, src b]
  | .hfma2Bf16 d a b => [acc d, src a, src b]
  | .hmin2F16 d a b => [dst d, src a, src b]
  | .hmax2F16 d a b => [dst d, src a, src b]
  | .hmin2Bf16 d a b => [dst d, src a, src b]
  | .hmax2Bf16 d a b => [dst d, src a, src b]
  | .cvtToF32 _ d a => [dst d, src a]
  | .cvtFromF32 s d a =>
    match s with
    | .i32 => [dst d, src a]
    | .n32 => [dst d, src a]
    | .f16lo => [acc d, src a]
    | .f16hi => [acc d, src a]
    | .bf16lo => [acc d, src a]
    | .bf16hi => [acc d, src a]
    | .e4m3b0 => [acc d, src a]
    | .e4m3b1 => [acc d, src a]
    | .e4m3b2 => [acc d, src a]
    | .e4m3b3 => [acc d, src a]
    | .e5m2b0 => [acc d, src a]
    | .e5m2b1 => [acc d, src a]
    | .e5m2b2 => [acc d, src a]
    | .e5m2b3 => [acc d, src a]
  | .qpack _ d a b => [acc d, src a, src b]
  | .qunpack _ d a b => [dst d, src a, src b]
  | .fmtset d a => [dst d, src a]
  | .fmode d a => [dst d, src a]
  | .ldSh w d a _ => [ldData w d, src a]
  | .stSh w d a _ => [stData w d, src a]
  | .ldSp w d a _ => [ldData w d, src a]
  | .stSp w d a _ => [stData w d, src a]
  | .ldSt w d a _ => [ldData w d, src a]
  | .stSt w d a _ => [stData w d, src a]
  | .ldlk d a _ => [dst d, src a]
  | .stul d a _ => [src d, src a]
  | .atomSh o d a _ => [atomData o d, src a]
  | .atomSp o d a _ => [atomData o d, src a]
  | .atomLockWaitResume _ => []
  | .dusk _ => []
  | .dawn _ => []
  | .duskStallRelease _ => []
  | .idleRefresh _ => []
  | .loadCompletion _ => []
  | .stackFillComplete _ => []
  | .landingLoadResume _ => []
  | .landingStoreResume _ => []
  | .cstage d a => [dst d, src a]
  | .cstageArg d a b => [dst d, src a, src b]
  | .copyRelease _ => []
  | .copyLanding _ => []
  | .copyOverlapRelease _ => []
  | .copyCompletion _ _ => []
  | .copyDeregistration _ => []
  | .copyDeadline _ _ => []
  | .cwait a b => [src a, pairSrc b]
  | .counterPoll _ => []
  | .cread d a => [pairDst d, src a]
  | .wmread d a => [dst d, src a]
  | .cstat d a => [dst d, src a]
  | .balloc d a b => [dst d, src a, src b]
  | .bref a => [src a]
  | .bfree a => [src a]
  | .barrive d a => [dst d, src a]
  | .bexpect a b => [src a, src b]
  | .bwait d a b => [dst d, src a, src b]
  | .barrierTimeout _ _ => []
  | .barrierToken _ _ => []
  | .mmq b a v => [num b 16, aSpan a, pairSrc v]
  | .mmqs _ b a v => [num b 16, aSpan a, pairSrc v]
  | .mmc b a v => [num b 16, pairSrc a, pairSrc v]
  | .mxfence => []
  | .mxzero b e => [num b 16, num e 16]
  | .mxread d b v => [quadDst d, num b 16, pairSrc v]
  | .mxwrite b a v => [num b 16, quadSrc a, pairSrc v]
  | .mxsmax d b v => [voDst d, num b 16, pairSrc v]
  | .mxrescale b v => [num b 16, src v]
  | .mxsum d b => [pairDst d, num b 16]
  | .arrayPass _ => []
  | .spcmp d a v => [vDst d, vSrc a, src v]
  | .mdload k a => [num k 16, src a]
  | .mdread d k => [dst d, num k 16]
  | .sopen s a b => [num s 8, src a, src b]
  | .snext s => [num s 8]
  | .sskip s b => [num s 8, src b]
  | .sisect d a b => [acc d, num a 8, num b 8]
  | .sunion d a b => [acc d, num a 8, num b 8]
  | .scrd d s => [dst d, num s 8]
  | .spos d s => [dst d, num s 8]
  | .partn d a b => [dst d, src a, pairSrc b]
  | .streamSegmentFill _ => []
  | .gbind d a => [dst d, pairSrc a]
  | .gunbind a => [src a]
  | .mark d a => [dst d, src a]
  | .clear d a => [dst d, src a]
  | .prop d a => [dst d, src a]
  | .propf d a => [dst d, src a]
  | .waveq d a => [dst d, src a]
  | .collect d a => [dst d, src a]
  | .collectg d a => [dst d, src a]
  | .ncount d a => [dst d, src a]
  | .waveAcceptance _ => []
  | .waveStart _ => []
  | .waveHopCommit _ => []
  | .propfDelivery _ => []
  | .waveEnd _ => []
  | .engineResidueMismatch _ _ => []
  | .sequencerTakeover => []
  | .embed d a => [dst d, src a]
  | .descend d a => [dst d, src a]
  | .sideapp d a b => [dst d, pairSrc a, src b]
  | .sidepub a => [pairSrc a]
  | .walkEnd _ _ => []
  | .scatred _ a b => [pairSrc a, src b]
  | .reductionAtOwner _ => []
  | .amsend a b => [pairSrc a, pairSrc b]
  | .saread d a => [dst d, src a]
  | .satest a => [src a]
  | .spawn a b => [src a, data128Src b]
  | .spawnTimeout _ => []
  | .childTeamStart _ => []
  | .activeMessageArrival _ => []
  | .handlerTeamStart _ => []
  | .allowanceCredit _ _ _ => []
  | .flushMarkerAck _ => []
  | .linkReplayRequest _ => []
  | .linkOutOfService _ => []
  | .auditFlit _ => []
  | .auditReply _ => []
  | .launchMessage _ _ => []
  | .launchCheck _ => []
  | .clusterAdmission _ => []
  | .teamEnd _ => []
  | .peerUnavailable _ _ => []
  | .remoteWrite _ _ _ => []
  | .remoteRead _ _ _ => []
  | .trap a => [src a]
  | .tret m => [num m 3]
  | .trapVectorFetchResume _ => []
  | .ckpt => []
  | .checkpointPlaneWrite _ => []
  | .event a b => [src a, pairSrc b]
  | .tlbinv a b => [pairSrc a, src b]
  | .sysrd d n => [dst d, num n 128]
  | .syswr a n => [src a, num n 128]
  | .clauseFetchResume _ => []
  | .answerFault _ _ _ => []
  | .preempt _ _ _ => []
  | .restore _ _ _ => []
  | .invalidateRange _ _ _ => []
  | .enrolOwner _ _ => []
  | .updateFirmware _ _ => []
  | .configureQueue _ _ _ => []
  | .loadKey _ _ _ => []
  | .unloadKey _ _ => []
  | .attest _ => []
  | .reset _ => []
  | .powerOn => []
  | .coreFailure _ _ => []
  | .islandSleep _ => []
  | .islandWake _ => []
  | .clockThrottle _ _ => []
  | .peerIngressFlush _ => []
  | .crossModuleBarrierAccess _ _ _ => []
  | .otherDeliveryModePacket _ => []

/-- Instructions that can transfer control and must stand last in their clause (R46). -/
def Instr.isTransfer : Instr → Bool
  | .halt => true
  | .bCond _ _ => true
  | .bMask _ _ => true
  | .call _ => true
  | .ret _ => true
  | .callr _ _ => true
  | .br _ => true
  | .yield => true
  | .yieldF _ _ => true
  | .yieldC _ _ _ => true
  | .trap _ => true
  | .tret _ => true
  | _ => false

/-- The two streams of SISECT and SUNION must differ (R259). -/
def Instr.streamsDiffer : Instr → Bool
  | .sisect _ a b => a != b
  | .sunion _ a b => a != b
  | _ => true

/-- Every operand value is legal in its position: no check of subcode 2 fails (R51). The clause header is
legal when R41 finds nothing wrong with it; an event whose data has a fixed size has that size. -/
def Instr.legal (i : Instr) : Bool :=
  i.operands.all (·.ok) && i.streamsDiffer

/-- R41: what a header may not hold. -/
def headerFlagsOk (setA setB : BitVec 4) : Bool :=
  setA.toNat < 13 && setB.toNat < 13 && !(setA == 0#4 && setB != 0#4)

/-- R41: the length exceeds the literal count (the Length field is the word count less 1). -/
def headerLenOk (len : BitVec 4) (lits : BitVec 2) : Bool :=
  lits.toNat < len.toNat + 1

/-- Well-formed terms: the operand checks of subcode 2, the header checks of R41, and the sizes the spec
fixes for the data of an event (R339: a launch message has 144 bytes; R362: key slots 1 to 8191). -/
def Instr.wf : Instr → Bool
  | .clauseStart _ setA setB len lits _ => headerFlagsOk setA setB && headerLenOk len lits
  | .launchMessage q p => decide (q < 64) && p.length == 144
  | .configureQueue _ q c => decide (q < 64) && decide (c.peers ≤ 256) && decide (c.priority < 8)
  | .loadKey _ slot _ => decide (1 ≤ slot) && decide (slot < 8192)
  | .unloadKey _ slot => decide (1 ≤ slot) && decide (slot < 8192)
  | i => i.legal

end Sys2Proof
end

