-- ==== Sys2Proof/Decode.lean ====
section
/-!
DEFINITION. Decoding of instruction words (R26, R40, R53), total, rejecting by the subcode of R51; and the
encoder. A word in an instruction position and a word in a header position are decoded by two functions
(R45 says where each may stand). Fields that an entry marks as ignored are not looked at (R30) and are
encoded as 0. Operand values are checked by Instr.legal, not here.
-/

namespace Sys2Proof

/-- Why a word in an instruction position decodes to nothing (R51, subcodes 0, 1, 8, 10). -/
inductive Illegal
  /-- Major opcode not assigned. -/
  | major
  /-- Function, width or condition value not assigned under an assigned major. -/
  | function
  /-- A header word in an instruction position (R45). -/
  | header
  /-- Immediate bits that must be 0 are nonzero (R29). -/
  | immediate
  deriving DecidableEq, Repr

/-- The subcode R51 gives each. -/
def Illegal.subcode : Illegal → BitVec 4
  | .major => 0#4
  | .function => 1#4
  | .header => 8#4
  | .immediate => 10#4

/-- The major opcode, bits 31:25 (R26). -/
def wMajor (w : Word) : BitVec 7 := w.extractLsb' 25 7
/-- The function field, bits 24:21 (R26). -/
def wFn (w : Word) : BitVec 4 := w.extractLsb' 21 4
/-- The destination field, bits 20:14 (R26). -/
def wD (w : Word) : Field := w.extractLsb' 14 7
/-- The source A field, bits 13:7 (R26). -/
def wA (w : Word) : Field := w.extractLsb' 7 7
/-- The source B field, bits 6:0 (R26). -/
def wB (w : Word) : Field := w.extractLsb' 0 7
/-- The 14-bit immediate (R26). -/
def wImm (w : Word) : BitVec 14 := w.extractLsb' 0 14
/-- The branch offset, bits 20:0 (R26). -/
def wOff (w : Word) : BitVec 21 := w.extractLsb' 0 21

/-- A word of the register or memory format (R26). -/
def mkR (mj : BitVec 7) (fn : BitVec 4) (d a b : Field) : Word := mj ++ fn ++ d ++ a ++ b
/-- A word of the immediate format (R26). -/
def mkI (mj : BitVec 7) (fn : BitVec 4) (d : Field) (imm : BitVec 14) : Word := mj ++ fn ++ d ++ imm
/-- A word of the branch format (R26). -/
def mkB (mj : BitVec 7) (fn : BitVec 4) (off : BitVec 21) : Word := mj ++ fn ++ off

/-- The function value of a Cond (R54). -/
def Cond.code : Cond → BitVec 4
  | .al => 0#4
  | .eq => 1#4
  | .ne => 2#4
  | .hs => 3#4
  | .lo => 4#4
  | .mi => 5#4
  | .pl => 6#4
  | .vs => 7#4
  | .vc => 8#4
  | .hi => 9#4
  | .ls => 10#4
  | .ge => 11#4
  | .lt => 12#4
  | .gt => 13#4
  | .le => 14#4

/-- The Cond a function value stands for (R54). -/
def Cond.ofCode (c : BitVec 4) : Option Cond :=
  match c.toNat with
  | 0 => some .al
  | 1 => some .eq
  | 2 => some .ne
  | 3 => some .hs
  | 4 => some .lo
  | 5 => some .mi
  | 6 => some .pl
  | 7 => some .vs
  | 8 => some .vc
  | 9 => some .hi
  | 10 => some .ls
  | 11 => some .ge
  | 12 => some .lt
  | 13 => some .gt
  | 14 => some .le
  | _ => none

/-- The function value of a MCond (R54). -/
def MCond.code : MCond → BitVec 4
  | .mz => 0#4
  | .nmz => 1#4
  | .ma => 2#4
  | .nma => 3#4

/-- The MCond a function value stands for (R54). -/
def MCond.ofCode (c : BitVec 4) : Option MCond :=
  match c.toNat with
  | 0 => some .mz
  | 1 => some .nmz
  | 2 => some .ma
  | 3 => some .nma
  | _ => none

/-- The function value of a CmpT (R104). -/
def CmpT.code : CmpT → BitVec 4
  | .i32 => 0#4
  | .n32 => 1#4
  | .f32 => 2#4

/-- The CmpT a function value stands for (R104). -/
def CmpT.ofCode (c : BitVec 4) : Option CmpT :=
  match c.toNat with
  | 0 => some .i32
  | 1 => some .n32
  | 2 => some .f32
  | _ => none

/-- The function value of a IdrForm (R111). -/
def IdrForm.code : IdrForm → BitVec 4
  | .core => 0#4
  | .die => 1#4
  | .cluster => 2#4
  | .teams => 3#4
  | .groups => 4#4
  | .launch => 5#4
  | .arch => 6#4

/-- The IdrForm a function value stands for (R111). -/
def IdrForm.ofCode (c : BitVec 4) : Option IdrForm :=
  match c.toNat with
  | 0 => some .core
  | 1 => some .die
  | 2 => some .cluster
  | 3 => some .teams
  | 4 => some .groups
  | 5 => some .launch
  | 6 => some .arch
  | _ => none

/-- The function value of a SetCond (R130). -/
def SetCond.code : SetCond → BitVec 4
  | .eq => 0#4
  | .ne => 1#4
  | .ltI => 2#4
  | .leI => 3#4
  | .gtI => 4#4
  | .geI => 5#4
  | .ltN => 6#4
  | .leN => 7#4
  | .gtN => 8#4
  | .geN => 9#4

/-- The SetCond a function value stands for (R130). -/
def SetCond.ofCode (c : BitVec 4) : Option SetCond :=
  match c.toNat with
  | 0 => some .eq
  | 1 => some .ne
  | 2 => some .ltI
  | 3 => some .leI
  | 4 => some .gtI
  | 5 => some .geI
  | 6 => some .ltN
  | 7 => some .leN
  | 8 => some .gtN
  | 9 => some .geN
  | _ => none

/-- The function value of a ShflForm (R136). -/
def ShflForm.code : ShflForm → BitVec 4
  | .idx => 0#4
  | .bcast => 1#4
  | .xor => 2#4
  | .up => 3#4
  | .down => 4#4

/-- The ShflForm a function value stands for (R136). -/
def ShflForm.ofCode (c : BitVec 4) : Option ShflForm :=
  match c.toNat with
  | 0 => some .idx
  | 1 => some .bcast
  | 2 => some .xor
  | 3 => some .up
  | 4 => some .down
  | _ => none

/-- The function value of a VoteForm (R137). -/
def VoteForm.code : VoteForm → BitVec 4
  | .any => 0#4
  | .all => 1#4
  | .ballot => 2#4
  | .uni => 3#4

/-- The VoteForm a function value stands for (R137). -/
def VoteForm.ofCode (c : BitVec 4) : Option VoteForm :=
  match c.toNat with
  | 0 => some .any
  | 1 => some .all
  | 2 => some .ballot
  | 3 => some .uni
  | _ => none

/-- The function value of a RedOp (R53). -/
def RedOp.code : RedOp → BitVec 4
  | .addI32 => 0#4
  | .minI32 => 1#4
  | .maxI32 => 2#4
  | .minN32 => 3#4
  | .maxN32 => 4#4
  | .and => 5#4
  | .or => 6#4
  | .xor => 7#4

/-- The RedOp a function value stands for (R53). -/
def RedOp.ofCode (c : BitVec 4) : Option RedOp :=
  match c.toNat with
  | 0 => some .addI32
  | 1 => some .minI32
  | 2 => some .maxI32
  | 3 => some .minN32
  | 4 => some .maxN32
  | 5 => some .and
  | 6 => some .or
  | 7 => some .xor
  | _ => none

/-- The function value of a ScanOp (R53). -/
def ScanOp.code : ScanOp → BitVec 4
  | .addIncl => 0#4
  | .addExcl => 1#4
  | .maxI32Incl => 2#4
  | .minI32Incl => 3#4
  | .orIncl => 4#4

/-- The ScanOp a function value stands for (R53). -/
def ScanOp.ofCode (c : BitVec 4) : Option ScanOp :=
  match c.toNat with
  | 0 => some .addIncl
  | 1 => some .addExcl
  | 2 => some .maxI32Incl
  | 3 => some .minI32Incl
  | 4 => some .orIncl
  | _ => none

/-- The function value of a FCond (R147). -/
def FCond.code : FCond → BitVec 4
  | .eq => 0#4
  | .ne => 1#4
  | .lt => 2#4
  | .le => 3#4
  | .gt => 4#4
  | .ge => 5#4
  | .un => 6#4
  | .ord => 7#4

/-- The FCond a function value stands for (R147). -/
def FCond.ofCode (c : BitVec 4) : Option FCond :=
  match c.toNat with
  | 0 => some .eq
  | 1 => some .ne
  | 2 => some .lt
  | 3 => some .le
  | 4 => some .gt
  | 5 => some .ge
  | 6 => some .un
  | 7 => some .ord
  | _ => none

/-- The function value of a CvtSel (R53). -/
def CvtSel.code : CvtSel → BitVec 4
  | .f16lo => 0#4
  | .f16hi => 1#4
  | .bf16lo => 2#4
  | .bf16hi => 3#4
  | .e4m3b0 => 4#4
  | .e4m3b1 => 5#4
  | .e4m3b2 => 6#4
  | .e4m3b3 => 7#4
  | .e5m2b0 => 8#4
  | .e5m2b1 => 9#4
  | .e5m2b2 => 10#4
  | .e5m2b3 => 11#4
  | .i32 => 12#4
  | .n32 => 13#4

/-- The CvtSel a function value stands for (R53). -/
def CvtSel.ofCode (c : BitVec 4) : Option CvtSel :=
  match c.toNat with
  | 0 => some .f16lo
  | 1 => some .f16hi
  | 2 => some .bf16lo
  | 3 => some .bf16hi
  | 4 => some .e4m3b0
  | 5 => some .e4m3b1
  | 6 => some .e4m3b2
  | 7 => some .e4m3b3
  | 8 => some .e5m2b0
  | 9 => some .e5m2b1
  | 10 => some .e5m2b2
  | 11 => some .e5m2b3
  | 12 => some .i32
  | 13 => some .n32
  | _ => none

/-- The function value of a QType (R153). -/
def QType.code : QType → BitVec 4
  | .i8 => 0#4
  | .n8 => 1#4
  | .i4 => 2#4
  | .n4 => 3#4

/-- The QType a function value stands for (R153). -/
def QType.ofCode (c : BitVec 4) : Option QType :=
  match c.toNat with
  | 0 => some .i8
  | 1 => some .n8
  | 2 => some .i4
  | 3 => some .n4
  | _ => none

/-- The function value of a LdW (R165). -/
def LdW.code : LdW → BitVec 4
  | .n8 => 0#4
  | .i8 => 1#4
  | .n16 => 2#4
  | .i16 => 3#4
  | .n32 => 4#4
  | .w64 => 5#4
  | .w128 => 6#4

/-- The LdW a function value stands for (R165). -/
def LdW.ofCode (c : BitVec 4) : Option LdW :=
  match c.toNat with
  | 0 => some .n8
  | 1 => some .i8
  | 2 => some .n16
  | 3 => some .i16
  | 4 => some .n32
  | 5 => some .w64
  | 6 => some .w128
  | _ => none

/-- The function value of a StW (R165). -/
def StW.code : StW → BitVec 4
  | .w8 => 0#4
  | .w16 => 1#4
  | .w32 => 2#4
  | .w64 => 3#4
  | .w128 => 4#4

/-- The StW a function value stands for (R165). -/
def StW.ofCode (c : BitVec 4) : Option StW :=
  match c.toNat with
  | 0 => some .w8
  | 1 => some .w16
  | 2 => some .w32
  | 3 => some .w64
  | 4 => some .w128
  | _ => none

/-- The function value of a AtomOp (R181). -/
def AtomOp.code : AtomOp → BitVec 4
  | .addI32 => 0#4
  | .minI32 => 1#4
  | .maxI32 => 2#4
  | .minN32 => 3#4
  | .maxN32 => 4#4
  | .and => 5#4
  | .or => 6#4
  | .xor => 7#4
  | .xchg => 8#4
  | .cas => 9#4
  | .addF32 => 10#4

/-- The AtomOp a function value stands for (R181). -/
def AtomOp.ofCode (c : BitVec 4) : Option AtomOp :=
  match c.toNat with
  | 0 => some .addI32
  | 1 => some .minI32
  | 2 => some .maxI32
  | 3 => some .minN32
  | 4 => some .maxN32
  | 5 => some .and
  | 6 => some .or
  | 7 => some .xor
  | 8 => some .xchg
  | 9 => some .cas
  | 10 => some .addF32
  | _ => none

/-- The function value of a Scope (R173). -/
def Scope.code : Scope → BitVec 4
  | .core => 0#4
  | .die => 1#4
  | .pkg => 2#4
  | .sys => 3#4

/-- The Scope a function value stands for (R173). -/
def Scope.ofCode (c : BitVec 4) : Option Scope :=
  match c.toNat with
  | 0 => some .core
  | 1 => some .die
  | 2 => some .pkg
  | 3 => some .sys
  | _ => none

/-- The function value of a ScatOp (R317). -/
def ScatOp.code : ScatOp → BitVec 4
  | .addI32 => 0#4
  | .addF32 => 1#4
  | .minI32 => 2#4
  | .maxI32 => 3#4
  | .minF32 => 4#4
  | .maxF32 => 5#4

/-- The ScatOp a function value stands for (R317). -/
def ScatOp.ofCode (c : BitVec 4) : Option ScatOp :=
  match c.toNat with
  | 0 => some .addI32
  | 1 => some .addF32
  | 2 => some .minI32
  | 3 => some .maxI32
  | 4 => some .minF32
  | 5 => some .maxF32
  | _ => none

/-- A decoded function value, or subcode 1 when it is not assigned. -/
def orFunction (o : Option Instr) : Except Illegal Instr :=
  match o with
  | some i => .ok i
  | none => .error .function

/-- Words of the team flow majors (R53). -/
def decodeFlow (w : Word) : Except Illegal Instr :=
  match (wMajor w).toNat with
  | 0x00 =>
    match (wFn w).toNat with
    | 0 => .ok (.nop)
    | 1 => .ok (.halt)
    | _ => .error .function
  | 0x01 => orFunction ((Cond.ofCode (wFn w)).map fun x => .bCond x (wOff w))
  | 0x02 => orFunction ((MCond.ofCode (wFn w)).map fun x => .bMask x (wOff w))
  | 0x03 =>
    match (wFn w).toNat with
    | 0 => .ok (.call (wOff w))
    | _ => .error .function
  | 0x04 =>
    match (wFn w).toNat with
    | 0 => .ok (.ret (wA w))
    | 1 => .ok (.callr (wD w) (wA w))
    | 2 => .ok (.br (wA w))
    | _ => .error .function
  | 0x05 => orFunction ((CmpT.ofCode (wFn w)).map fun x => .cmpu x (wA w) (wB w))
  | 0x06 =>
    match (wFn w).toNat with
    | 0 => .ok (.mpush (wD w) (wA w))
    | 1 => .ok (.melse (wA w) (wB w))
    | 2 => .ok (.mpop (wA w))
    | _ => .error .function
  | 0x07 =>
    match (wFn w).toNat with
    | 0 => .ok (.yield)
    | 1 => .ok (.yieldF (wA w) (wB w))
    | 2 => .ok (.yieldC (wD w) (wA w) (wB w))
    | _ => .error .function
  | 0x08 =>
    match (wFn w).toNat with
    | 0 => if w.extractLsb' 4 10 = 0#10 then .ok (.winbase (w.extractLsb' 0 4)) else .error .immediate
    | _ => .error .function
  | 0x09 =>
    match (wFn w).toNat with
    | 0 => .ok (.stgpost (wA w) (wB w))
    | 1 => .ok (.stgtake (wD w) (wB w))
    | _ => .error .function
  | 0x0A => orFunction ((IdrForm.ofCode (wFn w)).map fun x => .idr x (wD w))
  | 0x0B =>
    match (wFn w).toNat with
    | 0 => .ok (.cycles false (wD w))
    | 1 => .ok (.cycles true (wD w))
    | 2 => .ok (.retired false (wD w))
    | 3 => .ok (.retired true (wD w))
    | _ => .error .function
  | 0x0C =>
    match (wFn w).toNat with
    | 0 => .ok (.regionPc (wD w))
    | 1 => .ok (.regionCount (wD w))
    | _ => .error .function
  | _ => .error .major

/-- Words of the integer majors (R53). -/
def decodeInteger (w : Word) : Except Illegal Instr :=
  match (wMajor w).toNat with
  | 0x10 =>
    match (wFn w).toNat with
    | 0 => .ok (.add (wD w) (wA w) (wB w))
    | 1 => .ok (.sub (wD w) (wA w) (wB w))
    | 2 => .ok (.addc (wD w) (wA w) (wB w))
    | 3 => .ok (.subc (wD w) (wA w) (wB w))
    | 4 => .ok (.adds .i32 (wD w) (wA w) (wB w))
    | 5 => .ok (.subs .i32 (wD w) (wA w) (wB w))
    | 6 => .ok (.adds .n32 (wD w) (wA w) (wB w))
    | 7 => .ok (.subs .n32 (wD w) (wA w) (wB w))
    | _ => .error .function
  | 0x11 =>
    match (wFn w).toNat with
    | 0 => .ok (.mul (wD w) (wA w) (wB w))
    | 1 => .ok (.mulhI32 (wD w) (wA w) (wB w))
    | 2 => .ok (.mulhN32 (wD w) (wA w) (wB w))
    | 3 => .ok (.mulwI32 (wD w) (wA w) (wB w))
    | 4 => .ok (.mulwN32 (wD w) (wA w) (wB w))
    | _ => .error .function
  | 0x12 =>
    match (wFn w).toNat with
    | 0 => .ok (.mad (wD w) (wA w) (wB w))
    | 1 => .ok (.madhI32 (wD w) (wA w) (wB w))
    | 2 => .ok (.madhN32 (wD w) (wA w) (wB w))
    | _ => .error .function
  | 0x13 =>
    match (wFn w).toNat with
    | 0 => .ok (.divstepN32 (wD w) (wA w))
    | 1 => .ok (.divstepI32 (wD w) (wA w) (wB w))
    | _ => .error .function
  | 0x14 =>
    match (wFn w).toNat with
    | 0 => .ok (.and (wD w) (wA w) (wB w))
    | 1 => .ok (.or (wD w) (wA w) (wB w))
    | 2 => .ok (.xor (wD w) (wA w) (wB w))
    | 3 => .ok (.andn (wD w) (wA w) (wB w))
    | 4 => .ok (.orn (wD w) (wA w) (wB w))
    | 5 => .ok (.xnor (wD w) (wA w) (wB w))
    | 6 => .ok (.not (wD w) (wA w))
    | _ => .error .function
  | 0x15 =>
    match (wFn w).toNat with
    | 0 => .ok (.shl (wD w) (wA w) (wB w))
    | 1 => .ok (.shrN32 (wD w) (wA w) (wB w))
    | 2 => .ok (.shrI32 (wD w) (wA w) (wB w))
    | 3 => .ok (.rotl (wD w) (wA w) (wB w))
    | 4 => .ok (.rotr (wD w) (wA w) (wB w))
    | _ => .error .function
  | 0x16 =>
    match (wFn w).toNat with
    | 0 => .ok (.minI32 (wD w) (wA w) (wB w))
    | 1 => .ok (.maxI32 (wD w) (wA w) (wB w))
    | 2 => .ok (.minN32 (wD w) (wA w) (wB w))
    | 3 => .ok (.maxN32 (wD w) (wA w) (wB w))
    | 4 => .ok (.absI32 (wD w) (wA w))
    | _ => .error .function
  | 0x17 => orFunction ((SetCond.ofCode (wFn w)).map fun x => .setc x (wD w) (wA w) (wB w))
  | 0x18 =>
    match (wFn w).toNat with
    | 0 => .ok (.sel (wD w) (wA w) (wB w))
    | _ => .error .function
  | 0x19 =>
    match (wFn w).toNat with
    | 0 => .ok (.popc (wD w) (wA w))
    | 1 => .ok (.clz (wD w) (wA w))
    | 2 => .ok (.ctz (wD w) (wA w))
    | 3 => .ok (.brev (wD w) (wA w))
    | 4 => .ok (.bfxN32 (wD w) (wA w) (wB w))
    | 5 => .ok (.bfxI32 (wD w) (wA w) (wB w))
    | 6 => .ok (.bfi (wD w) (wA w) (wB w))
    | _ => .error .function
  | 0x1A =>
    match (wFn w).toNat with
    | 0 => .ok (.prm (wD w) (wA w) (wB w))
    | _ => .error .function
  | 0x1B =>
    match (wFn w).toNat with
    | 0 => .ok (.lea 0 (wD w) (wA w) (wB w))
    | 1 => .ok (.lea 1 (wD w) (wA w) (wB w))
    | 2 => .ok (.lea 2 (wD w) (wA w) (wB w))
    | 3 => .ok (.lea 3 (wD w) (wA w) (wB w))
    | 4 => .ok (.lea 4 (wD w) (wA w) (wB w))
    | _ => .error .function
  | 0x1C =>
    match (wFn w).toNat with
    | 0 => .ok (.mov (wD w) (wA w))
    | _ => .error .function
  | 0x1D =>
    match (wFn w).toNat with
    | 0 => .ok (.movi (wD w) (wImm w))
    | 1 => .ok (.movhi (wD w) (wImm w))
    | _ => .error .function
  | 0x1E => orFunction ((ShflForm.ofCode (wFn w)).map fun x => .shfl x (wD w) (wA w) (wB w))
  | 0x1F => orFunction ((VoteForm.ofCode (wFn w)).map fun x => .vote x (wD w) (wA w))
  | 0x20 => orFunction ((RedOp.ofCode (wFn w)).map fun x => .red x (wD w) (wA w))
  | 0x21 => orFunction ((ScanOp.ofCode (wFn w)).map fun x => .scan x (wD w) (wA w))
  | _ => .error .major

/-- Words of the float majors (R53). -/
def decodeFloat (w : Word) : Except Illegal Instr :=
  match (wMajor w).toNat with
  | 0x28 =>
    match (wFn w).toNat with
    | 0 => .ok (.fadd (wD w) (wA w) (wB w))
    | 1 => .ok (.fsub (wD w) (wA w) (wB w))
    | _ => .error .function
  | 0x29 =>
    match (wFn w).toNat with
    | 0 => .ok (.fmul (wD w) (wA w) (wB w))
    | _ => .error .function
  | 0x2A =>
    match (wFn w).toNat with
    | 0 => .ok (.ffma (wD w) (wA w) (wB w))
    | 1 => .ok (.ffms (wD w) (wA w) (wB w))
    | 2 => .ok (.ffnma (wD w) (wA w) (wB w))
    | 3 => .ok (.ffnms (wD w) (wA w) (wB w))
    | _ => .error .function
  | 0x2B =>
    match (wFn w).toNat with
    | 0 => .ok (.fmin (wD w) (wA w) (wB w))
    | 1 => .ok (.fmax (wD w) (wA w) (wB w))
    | 2 => .ok (.fminm (wD w) (wA w) (wB w))
    | 3 => .ok (.fmaxm (wD w) (wA w) (wB w))
    | 4 => .ok (.fabs (wD w) (wA w))
    | 5 => .ok (.fneg (wD w) (wA w))
    | _ => .error .function
  | 0x2C => orFunction ((FCond.ofCode (wFn w)).map fun x => .fcmp x (wD w) (wA w) (wB w))
  | 0x2D =>
    match (wFn w).toNat with
    | 0 => .ok (.frcp (wD w) (wA w))
    | 1 => .ok (.frsq (wD w) (wA w))
    | 2 => .ok (.fsqrt (wD w) (wA w))
    | 3 => .ok (.fexp2 (wD w) (wA w))
    | 4 => .ok (.flog2 (wD w) (wA w))
    | 5 => .ok (.ftanh (wD w) (wA w))
    | _ => .error .function
  | 0x2E =>
    match (wFn w).toNat with
    | 0 => .ok (.hadd2F16 (wD w) (wA w) (wB w))
    | 1 => .ok (.hmul2F16 (wD w) (wA w) (wB w))
    | 2 => .ok (.hfma2F16 (wD w) (wA w) (wB w))
    | 3 => .ok (.hadd2Bf16 (wD w) (wA w) (wB w))
    | 4 => .ok (.hmul2Bf16 (wD w) (wA w) (wB w))
    | 5 => .ok (.hfma2Bf16 (wD w) (wA w) (wB w))
    | 6 => .ok (.hmin2F16 (wD w) (wA w) (wB w))
    | 7 => .ok (.hmax2F16 (wD w) (wA w) (wB w))
    | 8 => .ok (.hmin2Bf16 (wD w) (wA w) (wB w))
    | 9 => .ok (.hmax2Bf16 (wD w) (wA w) (wB w))
    | _ => .error .function
  | 0x2F => orFunction ((CvtSel.ofCode (wFn w)).map fun x => .cvtToF32 x (wD w) (wA w))
  | 0x30 => orFunction ((CvtSel.ofCode (wFn w)).map fun x => .cvtFromF32 x (wD w) (wA w))
  | 0x31 =>
    match (wFn w).toNat with
    | 0 => .ok (.qpack .i8 (wD w) (wA w) (wB w))
    | 1 => .ok (.qpack .n8 (wD w) (wA w) (wB w))
    | 2 => .ok (.qpack .i4 (wD w) (wA w) (wB w))
    | 3 => .ok (.qpack .n4 (wD w) (wA w) (wB w))
    | 4 => .ok (.qunpack .i8 (wD w) (wA w) (wB w))
    | 5 => .ok (.qunpack .n8 (wD w) (wA w) (wB w))
    | 6 => .ok (.qunpack .i4 (wD w) (wA w) (wB w))
    | 7 => .ok (.qunpack .n4 (wD w) (wA w) (wB w))
    | _ => .error .function
  | 0x32 =>
    match (wFn w).toNat with
    | 0 => .ok (.fmtset (wD w) (wA w))
    | 1 => .ok (.fmode (wD w) (wA w))
    | _ => .error .function
  | _ => .error .major

/-- Words of the local memory majors (R53). -/
def decodeLocal (w : Word) : Except Illegal Instr :=
  match (wMajor w).toNat with
  | 0x38 => orFunction ((LdW.ofCode (wFn w)).map fun x => .ldSh x (wD w) (wA w) (wB w))
  | 0x39 => orFunction ((StW.ofCode (wFn w)).map fun x => .stSh x (wD w) (wA w) (wB w))
  | 0x3A => orFunction ((LdW.ofCode (wFn w)).map fun x => .ldSp x (wD w) (wA w) (wB w))
  | 0x3B => orFunction ((StW.ofCode (wFn w)).map fun x => .stSp x (wD w) (wA w) (wB w))
  | 0x3C => orFunction ((LdW.ofCode (wFn w)).map fun x => .ldSt x (wD w) (wA w) (wB w))
  | 0x3D => orFunction ((StW.ofCode (wFn w)).map fun x => .stSt x (wD w) (wA w) (wB w))
  | 0x3E =>
    match (wFn w).toNat with
    | 0 => .ok (.ldlk (wD w) (wA w) (wB w))
    | 1 => .ok (.stul (wD w) (wA w) (wB w))
    | _ => .error .function
  | 0x3F => orFunction ((AtomOp.ofCode (wFn w)).map fun x => .atomSh x (wD w) (wA w) (wB w))
  | 0x40 => orFunction ((AtomOp.ofCode (wFn w)).map fun x => .atomSp x (wD w) (wA w) (wB w))
  | 0x41 =>
    match (wFn w).toNat with
    | 0 => .ok (.dusk .core)
    | 1 => .ok (.dusk .die)
    | 2 => .ok (.dusk .pkg)
    | 3 => .ok (.dusk .sys)
    | 4 => .ok (.dawn .core)
    | 5 => .ok (.dawn .die)
    | 6 => .ok (.dawn .pkg)
    | 7 => .ok (.dawn .sys)
    | _ => .error .function
  | _ => .error .major

/-- Words of the copy majors (R53). -/
def decodeCopy (w : Word) : Except Illegal Instr :=
  match (wMajor w).toNat with
  | 0x48 =>
    match (wFn w).toNat with
    | 0 => .ok (.cstage (wD w) (wA w))
    | 1 => .ok (.cstageArg (wD w) (wA w) (wB w))
    | _ => .error .function
  | 0x49 =>
    match (wFn w).toNat with
    | 0 => .ok (.cwait (wA w) (wB w))
    | 1 => .ok (.cread (wD w) (wA w))
    | 2 => .ok (.wmread (wD w) (wA w))
    | 3 => .ok (.cstat (wD w) (wA w))
    | _ => .error .function
  | 0x4A =>
    match (wFn w).toNat with
    | 0 => .ok (.balloc (wD w) (wA w) (wB w))
    | 1 => .ok (.bref (wA w))
    | 2 => .ok (.bfree (wA w))
    | 3 => .ok (.barrive (wD w) (wA w))
    | 4 => .ok (.bexpect (wA w) (wB w))
    | 5 => .ok (.bwait (wD w) (wA w) (wB w))
    | _ => .error .function
  | _ => .error .major

/-- Words of the matrix majors (R53). -/
def decodeMatrix (w : Word) : Except Illegal Instr :=
  match (wMajor w).toNat with
  | 0x50 =>
    match (wFn w).toNat with
    | 0 => .ok (.mmq (wD w) (wA w) (wB w))
    | _ => .error .function
  | 0x51 => .ok (.mmqs (wFn w) (wD w) (wA w) (wB w))
  | 0x52 =>
    match (wFn w).toNat with
    | 0 => .ok (.mmc (wD w) (wA w) (wB w))
    | _ => .error .function
  | 0x53 =>
    match (wFn w).toNat with
    | 0 => .ok (.mxfence)
    | 1 => .ok (.mxzero (wD w) (wA w))
    | _ => .error .function
  | 0x54 =>
    match (wFn w).toNat with
    | 0 => .ok (.mxread (wD w) (wA w) (wB w))
    | 1 => .ok (.mxwrite (wD w) (wA w) (wB w))
    | 2 => .ok (.mxsmax (wD w) (wA w) (wB w))
    | 3 => .ok (.mxrescale (wA w) (wB w))
    | 4 => .ok (.mxsum (wD w) (wA w))
    | _ => .error .function
  | 0x55 =>
    match (wFn w).toNat with
    | 0 => .ok (.spcmp (wD w) (wA w) (wB w))
    | 1 => .ok (.mdload (wD w) (wA w))
    | 2 => .ok (.mdread (wD w) (wA w))
    | _ => .error .function
  | _ => .error .major

/-- Words of the stream majors (R53). -/
def decodeStream (w : Word) : Except Illegal Instr :=
  match (wMajor w).toNat with
  | 0x58 =>
    match (wFn w).toNat with
    | 0 => .ok (.sopen (wD w) (wA w) (wB w))
    | 1 => .ok (.snext (wD w))
    | 2 => .ok (.sskip (wD w) (wB w))
    | _ => .error .function
  | 0x59 =>
    match (wFn w).toNat with
    | 0 => .ok (.sisect (wD w) (wA w) (wB w))
    | 1 => .ok (.sunion (wD w) (wA w) (wB w))
    | _ => .error .function
  | 0x5A =>
    match (wFn w).toNat with
    | 0 => .ok (.scrd (wD w) (wA w))
    | 1 => .ok (.spos (wD w) (wA w))
    | _ => .error .function
  | 0x5B =>
    match (wFn w).toNat with
    | 0 => .ok (.partn (wD w) (wA w) (wB w))
    | _ => .error .function
  | _ => .error .major

/-- Words of the wave and walk majors (R53). -/
def decodeWave (w : Word) : Except Illegal Instr :=
  match (wMajor w).toNat with
  | 0x5E =>
    match (wFn w).toNat with
    | 0 => .ok (.gbind (wD w) (wA w))
    | 1 => .ok (.gunbind (wA w))
    | _ => .error .function
  | 0x5F =>
    match (wFn w).toNat with
    | 0 => .ok (.mark (wD w) (wA w))
    | 1 => .ok (.clear (wD w) (wA w))
    | _ => .error .function
  | 0x60 =>
    match (wFn w).toNat with
    | 0 => .ok (.prop (wD w) (wA w))
    | 1 => .ok (.propf (wD w) (wA w))
    | _ => .error .function
  | 0x61 =>
    match (wFn w).toNat with
    | 0 => .ok (.waveq (wD w) (wA w))
    | _ => .error .function
  | 0x62 =>
    match (wFn w).toNat with
    | 0 => .ok (.collect (wD w) (wA w))
    | 1 => .ok (.collectg (wD w) (wA w))
    | 2 => .ok (.ncount (wD w) (wA w))
    | _ => .error .function
  | 0x64 =>
    match (wFn w).toNat with
    | 0 => .ok (.embed (wD w) (wA w))
    | _ => .error .function
  | 0x65 =>
    match (wFn w).toNat with
    | 0 => .ok (.descend (wD w) (wA w))
    | 1 => .ok (.sideapp (wD w) (wA w) (wB w))
    | 2 => .ok (.sidepub (wA w))
    | _ => .error .function
  | 0x66 => orFunction ((ScatOp.ofCode (wFn w)).map fun x => .scatred x (wA w) (wB w))
  | _ => .error .major

/-- Words of the fabric and system majors (R53). -/
def decodeSystem (w : Word) : Except Illegal Instr :=
  match (wMajor w).toNat with
  | 0x68 =>
    match (wFn w).toNat with
    | 0 => .ok (.amsend (wA w) (wB w))
    | _ => .error .function
  | 0x69 =>
    match (wFn w).toNat with
    | 0 => .ok (.saread (wD w) (wA w))
    | 1 => .ok (.satest (wA w))
    | _ => .error .function
  | 0x6A =>
    match (wFn w).toNat with
    | 0 => .ok (.spawn (wA w) (wB w))
    | _ => .error .function
  | 0x6C =>
    match (wFn w).toNat with
    | 0 => .ok (.trap (wA w))
    | 1 => .ok (.tret (wB w))
    | _ => .error .function
  | 0x6D =>
    match (wFn w).toNat with
    | 0 => .ok (.ckpt)
    | 1 => .ok (.event (wA w) (wB w))
    | 2 => .ok (.tlbinv (wA w) (wB w))
    | _ => .error .function
  | 0x6E =>
    match (wFn w).toNat with
    | 0 => .ok (.sysrd (wD w) (wB w))
    | 1 => .ok (.syswr (wA w) (wB w))
    | _ => .error .function
  | _ => .error .major

/-- A word in an instruction position (R52). -/
def decodeInstr (w : Word) : Except Illegal Instr :=
  if w.extractLsb' 28 4 = 15#4 then .error .header
  else if (wMajor w).toNat < 0x10 then decodeFlow w
  else if (wMajor w).toNat < 0x28 then decodeInteger w
  else if (wMajor w).toNat < 0x38 then decodeFloat w
  else if (wMajor w).toNat < 0x48 then decodeLocal w
  else if (wMajor w).toNat < 0x50 then decodeCopy w
  else if (wMajor w).toNat < 0x58 then decodeMatrix w
  else if (wMajor w).toNat < 0x5E then decodeStream w
  else if (wMajor w).toNat < 0x68 then decodeWave w
  else decodeSystem w

/-- Why a word in a header position is no clause header (R41, R45). -/
inductive BadHeader
  /-- Bits 31:28 are not 1111 (R45): subcode 8. -/
  | notHeader
  /-- Bit 0 set, a flag code 13 to 15, or SetB without SetA (R41): subcode 5. -/
  | flags
  /-- Length not greater than the literal count (R41): subcode 6. -/
  | length
  deriving DecidableEq, Repr

/-- The subcode R51 gives each. -/
def BadHeader.subcode : BadHeader → BitVec 4
  | .notHeader => 8#4
  | .flags => 5#4
  | .length => 6#4

/-- A word is a clause header when bits 31:28 are 1111 (R40). -/
def isHeader (w : Word) : Bool := w.extractLsb' 28 4 == 15#4

/-- A word in a header position: the fields of R40, the checks of R41 in the order of their subcodes. -/
def decodeHeader (w : Word) : Except BadHeader Instr :=
  if !isHeader w then .error .notHeader
  else if w.getLsbD 0 || !headerFlagsOk (w.extractLsb' 12 4) (w.extractLsb' 8 4) then .error .flags
  else if !headerLenOk (w.extractLsb' 4 4) (w.extractLsb' 2 2) then .error .length
  else .ok (.clauseStart (w.extractLsb' 16 12) (w.extractLsb' 12 4) (w.extractLsb' 8 4) (w.extractLsb' 4 4)
    (w.extractLsb' 2 2) (w.getLsbD 1))

/-- The instruction a 32-bit word of spec/opcode_table.json stands for: a header word in the position of a
header, any other word in an instruction position. Every row has 32 bits. -/
def decodeTableWord (nbits w : Nat) : Option Instr :=
  if nbits ≤ 32 then
    let x : Word := BitVec.ofNat 32 w
    if isHeader x then (decodeHeader x).toOption else (decodeInstr x).toOption
  else none

/-- The word of an instruction, ignored fields 0 (R30); none for the steps that have no encoding. -/
def encode : Instr → Option Word
  | .clauseStart wait setA setB len lits region =>
    some (15#4 ++ wait ++ setA ++ setB ++ len ++ lits ++ BitVec.ofBool region ++ 0#1)
  | .nop => some (mkR 0x00#7 0#4 0#7 0#7 0#7)
  | .halt => some (mkR 0x00#7 1#4 0#7 0#7 0#7)
  | .bCond x off => some (mkB 0x01#7 x.code off)
  | .bMask x off => some (mkB 0x02#7 x.code off)
  | .call off => some (mkB 0x03#7 0#4 off)
  | .ret a => some (mkR 0x04#7 0#4 0#7 a 0#7)
  | .callr d a => some (mkR 0x04#7 1#4 d a 0#7)
  | .br a => some (mkR 0x04#7 2#4 0#7 a 0#7)
  | .cmpu x a b => some (mkR 0x05#7 x.code 0#7 a b)
  | .mpush d a => some (mkR 0x06#7 0#4 d a 0#7)
  | .melse a b => some (mkR 0x06#7 1#4 0#7 a b)
  | .mpop a => some (mkR 0x06#7 2#4 0#7 a 0#7)
  | .yield => some (mkR 0x07#7 0#4 0#7 0#7 0#7)
  | .yieldF a b => some (mkR 0x07#7 1#4 0#7 a b)
  | .yieldC d a b => some (mkR 0x07#7 2#4 d a b)
  | .mmqs j d a b => some (mkR 0x51#7 j d a b)
  | .winbase base => some (mkI 0x08#7 0#4 0#7 (0#10 ++ base))
  | .stgpost a b => some (mkR 0x09#7 0#4 0#7 a b)
  | .stgtake d b => some (mkR 0x09#7 1#4 d 0#7 b)
  | .idr x d => some (mkR 0x0A#7 x.code d 0#7 0#7)
  | .cycles false d => some (mkR 0x0B#7 0#4 d 0#7 0#7)
  | .cycles true d => some (mkR 0x0B#7 1#4 d 0#7 0#7)
  | .retired false d => some (mkR 0x0B#7 2#4 d 0#7 0#7)
  | .retired true d => some (mkR 0x0B#7 3#4 d 0#7 0#7)
  | .regionPc d => some (mkR 0x0C#7 0#4 d 0#7 0#7)
  | .regionCount d => some (mkR 0x0C#7 1#4 d 0#7 0#7)
  | .add d a b => some (mkR 0x10#7 0#4 d a b)
  | .sub d a b => some (mkR 0x10#7 1#4 d a b)
  | .addc d a b => some (mkR 0x10#7 2#4 d a b)
  | .subc d a b => some (mkR 0x10#7 3#4 d a b)
  | .adds .i32 d a b => some (mkR 0x10#7 4#4 d a b)
  | .subs .i32 d a b => some (mkR 0x10#7 5#4 d a b)
  | .adds .n32 d a b => some (mkR 0x10#7 6#4 d a b)
  | .subs .n32 d a b => some (mkR 0x10#7 7#4 d a b)
  | .mul d a b => some (mkR 0x11#7 0#4 d a b)
  | .mulhI32 d a b => some (mkR 0x11#7 1#4 d a b)
  | .mulhN32 d a b => some (mkR 0x11#7 2#4 d a b)
  | .mulwI32 d a b => some (mkR 0x11#7 3#4 d a b)
  | .mulwN32 d a b => some (mkR 0x11#7 4#4 d a b)
  | .mad d a b => some (mkR 0x12#7 0#4 d a b)
  | .madhI32 d a b => some (mkR 0x12#7 1#4 d a b)
  | .madhN32 d a b => some (mkR 0x12#7 2#4 d a b)
  | .divstepN32 d a => some (mkR 0x13#7 0#4 d a 0#7)
  | .divstepI32 d a b => some (mkR 0x13#7 1#4 d a b)
  | .and d a b => some (mkR 0x14#7 0#4 d a b)
  | .or d a b => some (mkR 0x14#7 1#4 d a b)
  | .xor d a b => some (mkR 0x14#7 2#4 d a b)
  | .andn d a b => some (mkR 0x14#7 3#4 d a b)
  | .orn d a b => some (mkR 0x14#7 4#4 d a b)
  | .xnor d a b => some (mkR 0x14#7 5#4 d a b)
  | .not d a => some (mkR 0x14#7 6#4 d a 0#7)
  | .shl d a b => some (mkR 0x15#7 0#4 d a b)
  | .shrN32 d a b => some (mkR 0x15#7 1#4 d a b)
  | .shrI32 d a b => some (mkR 0x15#7 2#4 d a b)
  | .rotl d a b => some (mkR 0x15#7 3#4 d a b)
  | .rotr d a b => some (mkR 0x15#7 4#4 d a b)
  | .minI32 d a b => some (mkR 0x16#7 0#4 d a b)
  | .maxI32 d a b => some (mkR 0x16#7 1#4 d a b)
  | .minN32 d a b => some (mkR 0x16#7 2#4 d a b)
  | .maxN32 d a b => some (mkR 0x16#7 3#4 d a b)
  | .absI32 d a => some (mkR 0x16#7 4#4 d a 0#7)
  | .setc x d a b => some (mkR 0x17#7 x.code d a b)
  | .sel d a b => some (mkR 0x18#7 0#4 d a b)
  | .popc d a => some (mkR 0x19#7 0#4 d a 0#7)
  | .clz d a => some (mkR 0x19#7 1#4 d a 0#7)
  | .ctz d a => some (mkR 0x19#7 2#4 d a 0#7)
  | .brev d a => some (mkR 0x19#7 3#4 d a 0#7)
  | .bfxN32 d a b => some (mkR 0x19#7 4#4 d a b)
  | .bfxI32 d a b => some (mkR 0x19#7 5#4 d a b)
  | .bfi d a b => some (mkR 0x19#7 6#4 d a b)
  | .prm d a b => some (mkR 0x1A#7 0#4 d a b)
  | .lea 0 d a b => some (mkR 0x1B#7 0#4 d a b)
  | .lea 1 d a b => some (mkR 0x1B#7 1#4 d a b)
  | .lea 2 d a b => some (mkR 0x1B#7 2#4 d a b)
  | .lea 3 d a b => some (mkR 0x1B#7 3#4 d a b)
  | .lea 4 d a b => some (mkR 0x1B#7 4#4 d a b)
  | .mov d a => some (mkR 0x1C#7 0#4 d a 0#7)
  | .movi d imm => some (mkI 0x1D#7 0#4 d imm)
  | .movhi d imm => some (mkI 0x1D#7 1#4 d imm)
  | .shfl x d a b => some (mkR 0x1E#7 x.code d a b)
  | .vote x d a => some (mkR 0x1F#7 x.code d a 0#7)
  | .red x d a => some (mkR 0x20#7 x.code d a 0#7)
  | .scan x d a => some (mkR 0x21#7 x.code d a 0#7)
  | .fadd d a b => some (mkR 0x28#7 0#4 d a b)
  | .fsub d a b => some (mkR 0x28#7 1#4 d a b)
  | .fmul d a b => some (mkR 0x29#7 0#4 d a b)
  | .ffma d a b => some (mkR 0x2A#7 0#4 d a b)
  | .ffms d a b => some (mkR 0x2A#7 1#4 d a b)
  | .ffnma d a b => some (mkR 0x2A#7 2#4 d a b)
  | .ffnms d a b => some (mkR 0x2A#7 3#4 d a b)
  | .fmin d a b => some (mkR 0x2B#7 0#4 d a b)
  | .fmax d a b => some (mkR 0x2B#7 1#4 d a b)
  | .fminm d a b => some (mkR 0x2B#7 2#4 d a b)
  | .fmaxm d a b => some (mkR 0x2B#7 3#4 d a b)
  | .fabs d a => some (mkR 0x2B#7 4#4 d a 0#7)
  | .fneg d a => some (mkR 0x2B#7 5#4 d a 0#7)
  | .fcmp x d a b => some (mkR 0x2C#7 x.code d a b)
  | .frcp d a => some (mkR 0x2D#7 0#4 d a 0#7)
  | .frsq d a => some (mkR 0x2D#7 1#4 d a 0#7)
  | .fsqrt d a => some (mkR 0x2D#7 2#4 d a 0#7)
  | .fexp2 d a => some (mkR 0x2D#7 3#4 d a 0#7)
  | .flog2 d a => some (mkR 0x2D#7 4#4 d a 0#7)
  | .ftanh d a => some (mkR 0x2D#7 5#4 d a 0#7)
  | .hadd2F16 d a b => some (mkR 0x2E#7 0#4 d a b)
  | .hmul2F16 d a b => some (mkR 0x2E#7 1#4 d a b)
  | .hfma2F16 d a b => some (mkR 0x2E#7 2#4 d a b)
  | .hadd2Bf16 d a b => some (mkR 0x2E#7 3#4 d a b)
  | .hmul2Bf16 d a b => some (mkR 0x2E#7 4#4 d a b)
  | .hfma2Bf16 d a b => some (mkR 0x2E#7 5#4 d a b)
  | .hmin2F16 d a b => some (mkR 0x2E#7 6#4 d a b)
  | .hmax2F16 d a b => some (mkR 0x2E#7 7#4 d a b)
  | .hmin2Bf16 d a b => some (mkR 0x2E#7 8#4 d a b)
  | .hmax2Bf16 d a b => some (mkR 0x2E#7 9#4 d a b)
  | .cvtToF32 x d a => some (mkR 0x2F#7 x.code d a 0#7)
  | .cvtFromF32 x d a => some (mkR 0x30#7 x.code d a 0#7)
  | .qpack .i8 d a b => some (mkR 0x31#7 0#4 d a b)
  | .qpack .n8 d a b => some (mkR 0x31#7 1#4 d a b)
  | .qpack .i4 d a b => some (mkR 0x31#7 2#4 d a b)
  | .qpack .n4 d a b => some (mkR 0x31#7 3#4 d a b)
  | .qunpack .i8 d a b => some (mkR 0x31#7 4#4 d a b)
  | .qunpack .n8 d a b => some (mkR 0x31#7 5#4 d a b)
  | .qunpack .i4 d a b => some (mkR 0x31#7 6#4 d a b)
  | .qunpack .n4 d a b => some (mkR 0x31#7 7#4 d a b)
  | .fmtset d a => some (mkR 0x32#7 0#4 d a 0#7)
  | .fmode d a => some (mkR 0x32#7 1#4 d a 0#7)
  | .ldSh x d a b => some (mkR 0x38#7 x.code d a b)
  | .stSh x d a b => some (mkR 0x39#7 x.code d a b)
  | .ldSp x d a b => some (mkR 0x3A#7 x.code d a b)
  | .stSp x d a b => some (mkR 0x3B#7 x.code d a b)
  | .ldSt x d a b => some (mkR 0x3C#7 x.code d a b)
  | .stSt x d a b => some (mkR 0x3D#7 x.code d a b)
  | .ldlk d a b => some (mkR 0x3E#7 0#4 d a b)
  | .stul d a b => some (mkR 0x3E#7 1#4 d a b)
  | .atomSh x d a b => some (mkR 0x3F#7 x.code d a b)
  | .atomSp x d a b => some (mkR 0x40#7 x.code d a b)
  | .dusk .core => some (mkR 0x41#7 0#4 0#7 0#7 0#7)
  | .dusk .die => some (mkR 0x41#7 1#4 0#7 0#7 0#7)
  | .dusk .pkg => some (mkR 0x41#7 2#4 0#7 0#7 0#7)
  | .dusk .sys => some (mkR 0x41#7 3#4 0#7 0#7 0#7)
  | .dawn .core => some (mkR 0x41#7 4#4 0#7 0#7 0#7)
  | .dawn .die => some (mkR 0x41#7 5#4 0#7 0#7 0#7)
  | .dawn .pkg => some (mkR 0x41#7 6#4 0#7 0#7 0#7)
  | .dawn .sys => some (mkR 0x41#7 7#4 0#7 0#7 0#7)
  | .cstage d a => some (mkR 0x48#7 0#4 d a 0#7)
  | .cstageArg d a b => some (mkR 0x48#7 1#4 d a b)
  | .cwait a b => some (mkR 0x49#7 0#4 0#7 a b)
  | .cread d a => some (mkR 0x49#7 1#4 d a 0#7)
  | .wmread d a => some (mkR 0x49#7 2#4 d a 0#7)
  | .cstat d a => some (mkR 0x49#7 3#4 d a 0#7)
  | .balloc d a b => some (mkR 0x4A#7 0#4 d a b)
  | .bref a => some (mkR 0x4A#7 1#4 0#7 a 0#7)
  | .bfree a => some (mkR 0x4A#7 2#4 0#7 a 0#7)
  | .barrive d a => some (mkR 0x4A#7 3#4 d a 0#7)
  | .bexpect a b => some (mkR 0x4A#7 4#4 0#7 a b)
  | .bwait d a b => some (mkR 0x4A#7 5#4 d a b)
  | .mmq d a b => some (mkR 0x50#7 0#4 d a b)
  | .mmc d a b => some (mkR 0x52#7 0#4 d a b)
  | .mxfence => some (mkR 0x53#7 0#4 0#7 0#7 0#7)
  | .mxzero d a => some (mkR 0x53#7 1#4 d a 0#7)
  | .mxread d a b => some (mkR 0x54#7 0#4 d a b)
  | .mxwrite d a b => some (mkR 0x54#7 1#4 d a b)
  | .mxsmax d a b => some (mkR 0x54#7 2#4 d a b)
  | .mxrescale a b => some (mkR 0x54#7 3#4 0#7 a b)
  | .mxsum d a => some (mkR 0x54#7 4#4 d a 0#7)
  | .spcmp d a b => some (mkR 0x55#7 0#4 d a b)
  | .mdload d a => some (mkR 0x55#7 1#4 d a 0#7)
  | .mdread d a => some (mkR 0x55#7 2#4 d a 0#7)
  | .sopen d a b => some (mkR 0x58#7 0#4 d a b)
  | .snext d => some (mkR 0x58#7 1#4 d 0#7 0#7)
  | .sskip d b => some (mkR 0x58#7 2#4 d 0#7 b)
  | .sisect d a b => some (mkR 0x59#7 0#4 d a b)
  | .sunion d a b => some (mkR 0x59#7 1#4 d a b)
  | .scrd d a => some (mkR 0x5A#7 0#4 d a 0#7)
  | .spos d a => some (mkR 0x5A#7 1#4 d a 0#7)
  | .partn d a b => some (mkR 0x5B#7 0#4 d a b)
  | .gbind d a => some (mkR 0x5E#7 0#4 d a 0#7)
  | .gunbind a => some (mkR 0x5E#7 1#4 0#7 a 0#7)
  | .mark d a => some (mkR 0x5F#7 0#4 d a 0#7)
  | .clear d a => some (mkR 0x5F#7 1#4 d a 0#7)
  | .prop d a => some (mkR 0x60#7 0#4 d a 0#7)
  | .propf d a => some (mkR 0x60#7 1#4 d a 0#7)
  | .waveq d a => some (mkR 0x61#7 0#4 d a 0#7)
  | .collect d a => some (mkR 0x62#7 0#4 d a 0#7)
  | .collectg d a => some (mkR 0x62#7 1#4 d a 0#7)
  | .ncount d a => some (mkR 0x62#7 2#4 d a 0#7)
  | .embed d a => some (mkR 0x64#7 0#4 d a 0#7)
  | .descend d a => some (mkR 0x65#7 0#4 d a 0#7)
  | .sideapp d a b => some (mkR 0x65#7 1#4 d a b)
  | .sidepub a => some (mkR 0x65#7 2#4 0#7 a 0#7)
  | .scatred x a b => some (mkR 0x66#7 x.code 0#7 a b)
  | .amsend a b => some (mkR 0x68#7 0#4 0#7 a b)
  | .saread d a => some (mkR 0x69#7 0#4 d a 0#7)
  | .satest a => some (mkR 0x69#7 1#4 0#7 a 0#7)
  | .spawn a b => some (mkR 0x6A#7 0#4 0#7 a b)
  | .trap a => some (mkR 0x6C#7 0#4 0#7 a 0#7)
  | .tret b => some (mkR 0x6C#7 1#4 0#7 0#7 b)
  | .ckpt => some (mkR 0x6D#7 0#4 0#7 0#7 0#7)
  | .event a b => some (mkR 0x6D#7 1#4 0#7 a b)
  | .tlbinv a b => some (mkR 0x6D#7 2#4 0#7 a b)
  | .sysrd d b => some (mkR 0x6E#7 0#4 d 0#7 b)
  | .syswr a b => some (mkR 0x6E#7 1#4 0#7 a b)
  | .yieldParkResume _ => none
  | .stageRingResume _ => none
  | .atomLockWaitResume _ => none
  | .duskStallRelease _ => none
  | .idleRefresh _ => none
  | .loadCompletion _ => none
  | .stackFillComplete _ => none
  | .landingLoadResume _ => none
  | .landingStoreResume _ => none
  | .copyRelease _ => none
  | .copyLanding _ => none
  | .copyOverlapRelease _ => none
  | .copyCompletion _ _ => none
  | .copyDeregistration _ => none
  | .copyDeadline _ _ => none
  | .counterPoll _ => none
  | .barrierTimeout _ _ => none
  | .barrierToken _ _ => none
  | .arrayPass _ => none
  | .streamSegmentFill _ => none
  | .waveAcceptance _ => none
  | .waveStart _ => none
  | .waveHopCommit _ => none
  | .propfDelivery _ => none
  | .waveEnd _ => none
  | .engineResidueMismatch _ _ => none
  | .sequencerTakeover => none
  | .walkEnd _ _ => none
  | .reductionAtOwner _ => none
  | .spawnTimeout _ => none
  | .childTeamStart _ => none
  | .activeMessageArrival _ => none
  | .handlerTeamStart _ => none
  | .allowanceCredit _ _ _ => none
  | .flushMarkerAck _ => none
  | .linkReplayRequest _ => none
  | .linkOutOfService _ => none
  | .auditFlit _ => none
  | .auditReply _ => none
  | .launchMessage _ _ => none
  | .launchCheck _ => none
  | .clusterAdmission _ => none
  | .teamEnd _ => none
  | .peerUnavailable _ _ => none
  | .remoteWrite _ _ _ => none
  | .remoteRead _ _ _ => none
  | .trapVectorFetchResume _ => none
  | .checkpointPlaneWrite _ => none
  | .clauseFetchResume _ => none
  | .answerFault _ _ _ => none
  | .preempt _ _ _ => none
  | .restore _ _ _ => none
  | .invalidateRange _ _ _ => none
  | .enrolOwner _ _ => none
  | .updateFirmware _ _ => none
  | .configureQueue _ _ _ => none
  | .loadKey _ _ _ => none
  | .unloadKey _ _ => none
  | .attest _ => none
  | .reset _ => none
  | .powerOn => none
  | .coreFailure _ _ => none
  | .islandSleep _ => none
  | .islandWake _ => none
  | .clockThrottle _ _ => none
  | .peerIngressFlush _ => none
  | .crossModuleBarrierAccess _ _ _ => none
  | .otherDeliveryModePacket _ => none

end Sys2Proof
end

