-- ==== Sys2Proof/Config.lean ====
section
/-!
DEFINITION. What an implementation fixes, and the free values: constants with no body, so that no proof can
see what they are. Rules: R12 (a member of a stated set), R148, R231, R230, R204, R113, R368.
-/

namespace Sys2Proof.Config

/-- A choice among the members of a set the spec gives, for the n-th free choice the machine makes
(R12): R204 block forms, R230 A words, R231 early reads, R289 deliveries. (DESIGN CHOICE, log 3.) -/
opaque freeNat : Nat → Nat

/-- A word on which the spec puts no constraint, for the n-th such word the machine forms. (DESIGN CHOICE, log 3.) -/
opaque freeWord : Nat → Word

/-- Which neighbour FRSQ returns for an operand, the upper one when true; the same for every use (R148). (DESIGN CHOICE, log 3.) -/
opaque frsqUpper : Word → Bool

/-- Which neighbour FEXP2 returns for an operand (R148). (DESIGN CHOICE, log 3.) -/
opaque fexp2Upper : Word → Bool

/-- Which neighbour FLOG2 returns for an operand (R148). (DESIGN CHOICE, log 3.) -/
opaque flog2Upper : Word → Bool

/-- Which member of its set FTANH returns for an operand (R148). (DESIGN CHOICE, log 3.) -/
opaque ftanhPick : Word → Nat

/-- Core clock cycles that pass before the n-th read of a cycle count (R113). (DESIGN CHOICE, log 5.) -/
opaque freeCycles : Nat → Nat

/-- How many paths the table of a router lists for another, and the links of each (R321). (DESIGN CHOICE, log 43.) -/
opaque pathCount : Nat → Nat → Nat
opaque route : Nat → Nat → Nat → List Nat

/-- Which of the listed paths, or which port, the packet of a number takes (R321, R337). (DESIGN CHOICE, log 43.) -/
opaque freePath : Nat → Nat

/-- The module's serial number (R368). (DESIGN CHOICE, log 4.) -/
opaque serial : BitVec 128

/-- The signature that an XMSS identity key gives a report under an index (R368). (DEDUCED, log 39.) -/
opaque xmssSign : List Byte → Nat → List Byte → List Byte

/-- The XTS key pair that a load carries (R369): wrapped by AES key wrap under the secret that an ML-KEM-1024 key shares by
a ciphertext; none where the wrap's own check fails. (DEDUCED, log 39.) -/
opaque unwrapKey : List Byte → List Byte → List Byte → Option (BitVec 512)

/-- What 128 bytes of main memory that were stored encrypted under one key give under another (R362): the keys, the unit's tweak, the
plaintext, the byte asked for. (DEDUCED, log 39.) -/
opaque recrypt : BitVec 512 → BitVec 512 → Nat → List (BitVec 8) → Nat → BitVec 8

/-- The digest of the public key of an ML-KEM-1024 key (R368). (DEDUCED, log 39.) -/
opaque mlkemDigest : List Byte → BitVec 256

/-- Logical cores of the package (R25). -/
def cores : Nat := 256

/-- Copy slots of a core (R188). -/
def copySlots : Nat := 1024

/-- Ranges of a landing unit (R195). -/
def landingRanges : Nat := 1024

/-- Ranges of a gazetteer (R195). -/
def gazetteerRanges : Nat := 4096

/-- Bytes of a die's scratchpad, 96 MiB (R159). -/
def scratchBytes : Nat := 0x06000000

/-- Bytes of a team's stack window, 1 MiB (R159). -/
def stackBytes : Nat := 0x100000

/-- Bytes of a B store (R219). -/
def bstoreBytes : Nat := 2621440

/-- Lines a core may leave unpublished (R175). -/
def unpublishedLines : Nat := 4096

/-- 64-byte lines whose previous versions fit the shadow pool of 8 MiB (R176). -/
def shadowLines : Nat := 131072

/-- Entries of a die's fault buffer (R163). -/
def faultEntries : Nat := 256

/-- 128-byte lines of a core's stack cache of 64 KiB (R163). -/
def stackLines : Nat := 512

/-- Register rows of a core's main register file (R18). -/
def registerRows : Nat := 6144

/-- Teams resident on a core (R18). -/
def residentTeams : Nat := 64

/-- Barriers of a die's pool (R211). -/
def barriers : Nat := 1024

/-- Messages of a core's incoming queue (R329). -/
def incomingMessages : Nat := 64

/-- Messages of a queue's spill ring (R329). -/
def spillMessages : Nat := 4096

/-- Items of a core's spawn queue (R332). -/
def spawnItems : Nat := 4096

/-- Combine groups a landing unit holds open (R205). -/
def combineGroups : Nat := 256

end Sys2Proof.Config
end

