-- ==== Sys2Proof/Machine/Float.lean ====
section
/-!
DEFINITION. Floating arithmetic: a value is decoded to an exact dyadic number, an operation is formed exactly, and the
result is rounded once. Rules: R58, R61 to R70, R73, R143 to R154.
-/

namespace Sys2Proof.Machine

/-- A floating format (R58): exponent bits, fraction bits, bias. E4M3 alone has no infinity. -/
structure FFmt where
  eb   : Nat
  fb   : Nat
  bias : Nat
  noInf : Bool := false
  deriving DecidableEq, Repr

def FFmt.f32 : FFmt := ⟨8, 23, 127, false⟩
def FFmt.f16 : FFmt := ⟨5, 10, 15, false⟩
def FFmt.bf16 : FFmt := ⟨8, 7, 127, false⟩
def FFmt.e4m3 : FFmt := ⟨4, 3, 7, true⟩
def FFmt.e5m2 : FFmt := ⟨5, 2, 15, false⟩
/-- The accumulator's format. -/
def FFmt.e11m44 : FFmt := ⟨11, 44, 1023, false⟩

/-- Rounding modes (R62). -/
inductive Rnd
  | rne | rz | ru | rd
  deriving DecidableEq, Repr

/-- A rounding code (R62). -/
def Rnd.ofCode (c : BitVec 2) : Rnd :=
  if c = 0#2 then .rne else if c = 1#2 then .rz else if c = 2#2 then .ru else .rd

/-- A decoded value: a NaN with its sign and fraction, an infinity, or (−1)^neg × m × 2^e exactly. -/
inductive FVal
  | nan (neg : Bool) (frac : Nat)
  | inf (neg : Bool)
  | fin (neg : Bool) (m : Nat) (e : Int)
  deriving DecidableEq, Repr

/-- The sign bit's weight. -/
def FFmt.signBit (f : FFmt) : Nat := 2 ^ (f.eb + f.fb)

/-- A sign placed on a magnitude's bits. -/
def FFmt.withSign (f : FFmt) (neg : Bool) (n : Nat) : Nat := if neg then n + f.signBit else n

/-- Decoding a pattern (R58, R61). -/
def FFmt.decode (f : FFmt) (n : Nat) : FVal :=
  let neg := n / f.signBit % 2 == 1
  let ex := n / 2 ^ f.fb % 2 ^ f.eb
  let fr := n % 2 ^ f.fb
  if ex = 2 ^ f.eb - 1 ∧ f.noInf = false then (if fr = 0 then .inf neg else .nan neg fr)
  else if ex = 2 ^ f.eb - 1 ∧ fr = 2 ^ f.fb - 1 then .nan neg fr
  else if ex = 0 then .fin neg fr (1 - (f.bias : Int) - (f.fb : Int))
  else .fin neg (2 ^ f.fb + fr) ((ex : Int) - (f.bias : Int) - (f.fb : Int))

/-- Largest finite magnitude (R58). -/
def FFmt.maxBits (f : FFmt) : Nat :=
  if f.noInf then (2 ^ f.eb - 1) * 2 ^ f.fb + (2 ^ f.fb - 2) else (2 ^ f.eb - 1) * 2 ^ f.fb - 1

/-- An infinity delivered in a format; in E4M3 it is ±448 (R64). -/
def FFmt.infBits (f : FFmt) (neg : Bool) : Nat :=
  f.withSign neg (if f.noInf then f.maxBits else (2 ^ f.eb - 1) * 2 ^ f.fb)

/-- The format carries no cause code (R67): E4M3 and E5M2. -/
def FFmt.narrow (f : FFmt) : Bool := decide (f.fb ≤ 3)

/-- A generated NaN with a cause code (R67). -/
def FFmt.qnan (f : FFmt) (cause : Nat) : Nat :=
  if f.noInf then 2 ^ (f.eb + f.fb) - 1
  else (2 ^ f.eb - 1) * 2 ^ f.fb + 2 ^ (f.fb - 1) + (if f.narrow then 0 else cause)

/-- A NaN of a source format delivered in a target format, quieted (R61, R67, R69). -/
def FFmt.nanTo (src dst : FFmt) (neg : Bool) (frac : Nat) : Nat :=
  if dst.narrow then dst.qnan 0
  else dst.withSign neg
    ((2 ^ dst.eb - 1) * 2 ^ dst.fb + 2 ^ (dst.fb - 1) + frac % 2 ^ (src.fb - 1) % 2 ^ (dst.fb - 1))

/-- Whether a magnitude with a remainder of the unit (rem of 2^sh) is rounded up in magnitude (R62). -/
def roundUp (md : Rnd) (neg odd : Bool) (rem half : Nat) : Bool :=
  match md with
  | .rne => decide (half < rem) || (rem == half && odd)
  | .rz => false
  | .ru => rem != 0 && !neg
  | .rd => rem != 0 && neg

/-- A magnitude m × 2^e rounded to an integer multiple of 2^q: the multiple (R62). -/
def roundAt (md : Rnd) (neg : Bool) (m : Nat) (e q : Int) : Nat :=
  if q ≤ e then m * 2 ^ (e - q).toNat
  else
    let sh := (q - e).toNat
    let t := m / 2 ^ sh
    if roundUp md neg (t % 2 == 1) (2 * (m % 2 ^ sh)) (2 ^ sh) then t + 1 else t

/-- A result beyond the largest finite value (R64). -/
def FFmt.overflow (f : FFmt) (md : Rnd) (neg : Bool) : Nat :=
  if f.narrow then f.withSign neg f.maxBits
  else match md with
    | .rne => f.infBits neg
    | .rz => f.withSign neg f.maxBits
    | .ru => if neg then f.withSign true f.maxBits else f.infBits false
    | .rd => if neg then f.infBits true else f.withSign false f.maxBits

/-- Rounding an exact finite value to a format, with overflow and flush of the result (R62, R64, R65). -/
def FFmt.roundFin (f : FFmt) (md : Rnd) (flush neg : Bool) (m : Nat) (e : Int) : Nat :=
  if m = 0 then f.withSign neg 0 else
  let emin : Int := 1 - (f.bias : Int)
  let top : Int := (m.log2 : Int) + e
  let q : Int := max top emin - (f.fb : Int)
  let t := roundAt md neg m e q
  if t < 2 ^ f.fb then f.withSign neg (if flush then 0 else t)
  else
    let ex : Int := q + (f.fb : Int) + (f.bias : Int)
    -- t counts units of 2^q and lies between 2^fb and 2^(fb+1)
    let n := ex.toNat * 2 ^ f.fb + (t - 2 ^ f.fb)
    if f.maxBits < n then f.overflow md neg else f.withSign neg n

/-- Rounding a value that is no NaN. -/
def FFmt.round (f : FFmt) (md : Rnd) (flush : Bool) : FVal → Nat
  | .nan _ _ => f.qnan 0
  | .inf neg => f.infBits neg
  | .fin neg m e => f.roundFin md flush neg m e

/-- A finite value's magnitude is below 2^-126 (R65). -/
def belowNormal (m : Nat) (e : Int) : Bool := m != 0 && decide ((m.log2 : Int) + e < -126)

/-- Flushing an operand (R65). -/
def FVal.flush (on : Bool) : FVal → FVal
  | .fin neg m e => if on && belowNormal m e then .fin neg 0 0 else .fin neg m e
  | v => v

/-- Negation of a value that is no NaN. -/
def FVal.neg : FVal → FVal
  | .nan n fr => .nan n fr
  | .inf n => .inf !n
  | .fin n m e => .fin (!n) m e

/-- The value is a NaN. -/
def FVal.isNan : FVal → Bool
  | .nan _ _ => true
  | _ => false

/-- The value is negative, −0 among them. -/
def FVal.isNeg : FVal → Bool
  | .nan n _ => n
  | .inf n => n
  | .fin n _ _ => n

/-- An exact product, or the cause of the NaN it generates (R144: 0 × ∞). NaN inputs are handled before. -/
def FVal.mul (a b : FVal) : Except Nat FVal :=
  let s := a.isNeg != b.isNeg
  match a, b with
  | .fin _ m e, .fin _ n g => .ok (.fin s (m * n) (e + g))
  | .fin _ m _, _ => if m = 0 then .error 4 else .ok (.inf s)
  | _, .fin _ n _ => if n = 0 then .error 4 else .ok (.inf s)
  | _, _ => .ok (.inf s)

/-- A finite value's signed multiple of 2^q, for q at most its exponent. -/
def scaled (neg : Bool) (m : Nat) (e q : Int) : Int :=
  let n : Int := (m * 2 ^ (e - q).toNat : Nat)
  if neg then -n else n

/-- A signed multiple of 2^q as a value; zero is positive. -/
def ofScaled (n : Int) (q : Int) : FVal := .fin (decide (n < 0)) n.natAbs q

/-- An exact sum, or the cause of the NaN it generates (R144: ∞ − ∞). rd: the rounding mode is RD (R66). -/
def FVal.add (rd : Bool) (a b : FVal) : Except Nat FVal :=
  match a, b with
  | .fin s m e, .fin t n g =>
    if m = 0 ∧ n = 0 then .ok (.fin (if s == t then s else rd) 0 0)
    else
      let q := min e g
      let v := scaled s m e q + scaled t n g q
      if v = 0 then .ok (.fin rd 0 0) else .ok (ofScaled v q)
  | .inf s, .inf t => if s == t then .ok (.inf s) else .error 3
  | .inf s, _ => .ok (.inf s)
  | _, b => .ok b

/-- Comparison of two values; none when unordered. +0 equals −0. -/
def FVal.compare (a b : FVal) : Option Ordering :=
  match a, b with
  | .nan _ _, _ => none
  | _, .nan _ _ => none
  | .inf s, .inf t => some (if s == t then .eq else if s then .lt else .gt)
  | .inf s, .fin _ _ _ => some (if s then .lt else .gt)
  | .fin _ _ _, .inf t => some (if t then .gt else .lt)
  | .fin s m e, .fin t n g =>
    let q := min e g
    some (Ord.compare (scaled s m e q) (scaled t n g q))

/-- Comparison that places −0 below +0 (R73). -/
def FVal.less (a b : FVal) : Bool :=
  match a.compare b with
  | some .lt => true
  | some .eq => a.isNeg && !b.isNeg
  | _ => false

/-- The first NaN of a list of operands, quieted, in the same format (R68). -/
def FFmt.firstNan (f : FFmt) : List FVal → Option Nat
  | [] => none
  | .nan neg fr :: _ => some (f.nanTo f neg fr)
  | _ :: r => f.firstNan r

/-- A result, or the NaN of a cause (R67). -/
def FFmt.deliver (f : FFmt) (md : Rnd) (flush : Bool) : Except Nat FVal → Nat
  | .error c => f.qnan c
  | .ok v => f.round md flush v

/-- a + b in a format (R143, R144). -/
def FFmt.addB (f : FFmt) (md : Rnd) (flush : Bool) (a b : Nat) : Nat :=
  let va := (f.decode a).flush flush
  let vb := (f.decode b).flush flush
  (f.firstNan [va, vb]).getD (f.deliver md flush (va.add (md == .rd) vb))

/-- a − b in a format (R143, R144): a NaN operand is delivered as it stands. -/
def FFmt.subB (f : FFmt) (md : Rnd) (flush : Bool) (a b : Nat) : Nat :=
  let va := (f.decode a).flush flush
  let vb := (f.decode b).flush flush
  (f.firstNan [va, vb]).getD (f.deliver md flush (va.add (md == .rd) vb.neg))

/-- a × b in a format (R143, R144). -/
def FFmt.mulB (f : FFmt) (md : Rnd) (flush : Bool) (a b : Nat) : Nat :=
  let va := (f.decode a).flush flush
  let vb := (f.decode b).flush flush
  (f.firstNan [va, vb]).getD (f.deliver md flush (va.mul vb))

/-- ±(a × b) ± c with one rounding (R143, R144). -/
def FFmt.fmaB (f : FFmt) (md : Rnd) (flush negP negC : Bool) (a b c : Nat) : Nat :=
  let va := (f.decode a).flush flush
  let vb := (f.decode b).flush flush
  let vc := (f.decode c).flush flush
  (f.firstNan [va, vb, vc]).getD (f.deliver md flush (do
    let p ← va.mul vb
    FVal.add (md == .rd) (if negP then p.neg else p) (if negC then vc.neg else vc)))

/-- A value that is no NaN written back in its own format: no rounding takes place. -/
def FFmt.same (f : FFmt) (v : FVal) : Nat := f.round .rz false v

/-- minimumNumber, or maximumNumber when big (R73). -/
def FFmt.minNumB (f : FFmt) (flush big : Bool) (a b : Nat) : Nat :=
  let va := (f.decode a).flush flush
  let vb := (f.decode b).flush flush
  match va, vb with
  | .nan n fr, .nan _ _ => f.nanTo f n fr
  | .nan _ _, v => f.same v
  | v, .nan _ _ => f.same v
  | _, _ => f.same (if va.less vb != big then va else vb)

/-- minimum, or maximum when big: a NaN operand is delivered (R145). -/
def FFmt.minB (f : FFmt) (flush big : Bool) (a b : Nat) : Nat :=
  let va := (f.decode a).flush flush
  let vb := (f.decode b).flush flush
  (f.firstNan [va, vb]).getD (f.same (if va.less vb != big then va else vb))

/-- An element of one format delivered in another (R151, R152, R64, R65, R69): whether the operand is flushed, and
whether the result is. -/
def FFmt.convert (src dst : FFmt) (md : Rnd) (flushOp flush : Bool) (n : Nat) : Nat :=
  match (src.decode n).flush flushOp with
  | .nan neg fr => src.nanTo dst neg fr
  | v => dst.round md flush v

/-- An exact value rounded to an integer (R62). -/
def FVal.toInt (md : Rnd) (neg : Bool) (m : Nat) (e : Int) : Int :=
  let t : Int := roundAt md neg m e 0
  if neg then -t else t

/-- A value rounded to an integer and saturated to a range; NaN gives 0 (R64). -/
def FVal.toRange (md : Rnd) (lo hi : Int) : FVal → Int
  | .nan _ _ => 0
  | .inf neg => if neg then lo else hi
  | .fin neg m e => max lo (min hi (FVal.toInt md neg m e))

/-- An integer as an exact value. -/
def FVal.ofInt (n : Int) : FVal := ofScaled n 0

/-- The low w bits of an integer's two's complement. -/
def lowBits (w : Nat) (n : Int) : Nat := (n % (2 ^ w : Nat)).toNat

/-- The integer square root of n below 4^k: the greatest r with r × r ≤ n. -/
def isqrt (n : Nat) : Nat → Nat → Nat
  | 0, r => r
  | k + 1, r => isqrt n k (if (r + 2 ^ k) * (r + 2 ^ k) ≤ n then r + 2 ^ k else r)

/-- A quotient n / d kept as an odd-tailed numerator: twice the floor, plus 1 when it is not exact. -/
def stickyDiv (n d : Nat) : Nat := 2 * (n / d) + (if n % d = 0 then 0 else 1)

/-- The exact reciprocal of m × 2^e, to 64 bits and a sticky bit: correctly rounded results follow from it (R148). -/
def recipVal (neg : Bool) (m : Nat) (e : Int) : FVal :=
  let k := m.log2 + 64
  .fin neg (stickyDiv (2 ^ k) m) (-(k : Int) - e - 1)

/-- The square root of m × 2^e, to more than 60 bits and a sticky bit. -/
def sqrtVal (m : Nat) (e : Int) : FVal :=
  let m2 := if e % 2 = 0 then m else 2 * m
  let e2 := if e % 2 = 0 then e else e - 1
  let n := m2 * 2 ^ 128
  let r := isqrt n 96 0
  .fin false (2 * r + (if r * r = n then 0 else 1)) (e2 / 2 - 64 - 1)

/-- 1/√(m × 2^e), to more than 60 bits and a sticky bit. -/
def rsqrtVal (m : Nat) (e : Int) : FVal :=
  let m2 := if e % 2 = 0 then m else 2 * m
  let e2 := if e % 2 = 0 then e else e - 1
  let r := isqrt (2 ^ 192 / m2) 97 0
  .fin false (2 * r + (if r * r * m2 = 2 ^ 192 then 0 else 1)) (-(e2 / 2) - 96 - 1)

/-- ⌊ln 2 × 2^128⌋. -/
def ln2c : Nat := 235865763225513294137944142764154484399

/-- ⌊log2 e × 2^128⌋. -/
def log2ec : Nat := 490923683258796565746369346286093237521

/-- Σ x^n / n! in units of 2^-128, with x in the same units, for the terms from n on. -/
def expTail (x : Nat) : Nat → Nat → Nat → Nat
  | 0, _, _ => 0
  | fuel + 1, n, t => t + expTail x fuel (n + 1) (t * x / 2 ^ 128 / (n + 1))

/-- 2^(f / 2^128) in units of 2^-128, for f below 2^128; below the exact value by less than 2^-120. -/
def exp2Frac (f : Nat) : Nat := expTail (f * ln2c / 2 ^ 128) 40 0 (2 ^ 128)

/-- 2^v for a finite v that is no integer, with a sticky bit: the exact value lies between the same two FP32 values. A v
of magnitude below 2^-100 gives a value just above or just below 1. -/
def exp2Val (neg : Bool) (m : Nat) (e : Int) : FVal :=
  let n := roundAt .rz neg m e (-128)
  let fx : Int := if neg then -(n : Int) - 1 else n
  let whole := fx / (2 ^ 128 : Nat)
  let part := (fx % (2 ^ 128 : Nat)).toNat
  .fin false (2 * exp2Frac part + 1) (whole - 128 - 1)

/-- The first n binary digits of log2 of x / 2^192, for x from 2^192 up to 2^193. -/
def log2Digits : Nat → Nat → Nat → Nat
  | 0, _, acc => acc
  | n + 1, x, acc =>
    let y := x * x / 2 ^ 192
    if 2 ^ 193 ≤ y then log2Digits n (y / 2) (2 * acc + 1) else log2Digits n y (2 * acc)

/-- log2 of m × 2^e for a value that is no power of two, with a sticky bit. -/
def log2Val (m : Nat) (e : Int) : FVal :=
  let k := m.log2
  let v : Int := ((k : Int) + e) * (2 ^ 96 : Nat) + log2Digits 96 (m * 2 ^ 192 / 2 ^ k) 0
  ofScaled (2 * v + 1) (-97)

/-- One of the two FP32 neighbours of an exact value, or the value itself when it is FP32 (R148). -/
def neighbour (up flush : Bool) (v : FVal) : Nat := FFmt.f32.round (if up then .ru else .rd) flush v

/-- A magnitude is a power of two. -/
def isPow2 (m : Nat) : Bool := m == 2 ^ m.log2

/-- FRCP (R148, R149). -/
def frcpB (md : Rnd) (flush : Bool) (a : Nat) : Nat :=
  match (FFmt.f32.decode a).flush flush with
  | .nan n fr => FFmt.f32.nanTo .f32 n fr
  | .inf n => FFmt.f32.withSign n 0
  | .fin n m e => if m = 0 then FFmt.f32.infBits n else FFmt.f32.round md flush (recipVal n m e)

/-- FSQRT (R148, R149). -/
def fsqrtB (md : Rnd) (flush : Bool) (a : Nat) : Nat :=
  match (FFmt.f32.decode a).flush flush with
  | .nan n fr => FFmt.f32.nanTo .f32 n fr
  | .inf n => if n then FFmt.f32.qnan 5 else FFmt.f32.infBits false
  | .fin n m e =>
    if m = 0 then FFmt.f32.withSign n 0 else if n then FFmt.f32.qnan 5 else FFmt.f32.round md flush (sqrtVal m e)

/-- FRSQ (R148, R149): which neighbour is a free choice for each operand (DESIGN CHOICE, log 3). -/
def frsqB (flush : Bool) (a : Word) : Nat :=
  match (FFmt.f32.decode a.toNat).flush flush with
  | .nan n fr => FFmt.f32.nanTo .f32 n fr
  | .inf n => if n then FFmt.f32.qnan 5 else 0
  | .fin n m e =>
    if m = 0 then FFmt.f32.infBits n else if n then FFmt.f32.qnan 5
    else neighbour (Config.frsqUpper a) flush (rsqrtVal m e)

/-- FEXP2 (R148, R149): exact for integers, else one of the neighbours (DESIGN CHOICE, log 3). -/
def fexp2B (flush : Bool) (a : Word) : Nat :=
  match (FFmt.f32.decode a.toNat).flush flush with
  | .nan n fr => FFmt.f32.nanTo .f32 n fr
  | .inf n => if n then 0 else FFmt.f32.infBits false
  | .fin n m e =>
    if m = 0 ∨ (m.log2 : Int) + e < -128 then 0x3F800000 else
    let t := FVal.toInt .rz n m e
    let whole := (roundAt .rz n m e 0 * 2 ^ (0 - e).toNat == m * 2 ^ (e - 0).toNat)
    if 128 ≤ t then FFmt.f32.infBits false
    else if t ≤ -150 then 0
    else if whole then FFmt.f32.round .rz flush (.fin false 1 t)
    else neighbour (Config.fexp2Upper a) flush (exp2Val n m e)

/-- FLOG2 (R148, R149): exact for powers of two, else one of the neighbours (DESIGN CHOICE, log 3). -/
def flog2B (flush : Bool) (a : Word) : Nat :=
  match (FFmt.f32.decode a.toNat).flush flush with
  | .nan n fr => FFmt.f32.nanTo .f32 n fr
  | .inf n => if n then FFmt.f32.qnan 5 else FFmt.f32.infBits false
  | .fin n m e =>
    if m = 0 then FFmt.f32.infBits true else if n then FFmt.f32.qnan 5
    else if isPow2 m then FFmt.f32.round .rz flush (FVal.ofInt ((m.log2 : Int) + e))
    else neighbour (Config.flog2Upper a) flush (log2Val m e)

/-- tanh of m × 2^e for 2^-12 ≤ m × 2^e < 10, in units of 2^-120, within 2^-60 of the exact value. -/
def tanhFix (m : Nat) (e : Int) : Nat :=
  -- t = e^(2x) − 1 over e^(2x) + 1, with e^(2x) = 2^(2x log2 e)
  let x := roundAt .rz false m e (-120)
  let z := 2 * x * log2ec / 2 ^ 120
  let t := exp2Frac (z % 2 ^ 128) * 2 ^ (z / 2 ^ 128)
  (t - 2 ^ 128) * 2 ^ 120 / (t + 2 ^ 128)

/-- FP32 magnitudes v with |v − y| ≤ 2 ulp(y) and v ≤ 1, for y in units of 2^-120 (R148). -/
def tanhSet (y : Nat) : List Nat :=
  let lo := FFmt.f32.roundFin .rd false false y (-120)
  let ulp := 2 ^ (y.log2 - 23)
  ((List.range 7).map (lo - 3 + ·)).filter fun v =>
    decide (v ≤ 0x3F800000) && (match FFmt.f32.decode v with
      | .fin _ m e => let w := m * 2 ^ (e + 120).toNat
                      decide (w ≤ y + 2 * ulp) && decide (y ≤ w + 2 * ulp)
      | _ => false)

/-- FTANH (R148, R149): which member of the set is a free choice for each operand (DESIGN CHOICE, log 3). -/
def ftanhB (flush : Bool) (a : Word) : Nat :=
  match (FFmt.f32.decode a.toNat).flush flush with
  | .nan n fr => FFmt.f32.nanTo .f32 n fr
  | .inf n => FFmt.f32.withSign n 0x3F800000
  | .fin n m e =>
    if m = 0 then FFmt.f32.withSign n 0
    else if (m.log2 : Int) + e < -12 then FFmt.f32.round .rz flush (.fin n m e)
    else if 10 ≤ roundAt .rz false m e 0 then FFmt.f32.withSign n 0x3F800000
    else
      let set := tanhSet (tanhFix m e)
      FFmt.f32.withSign n (set.getD (Config.ftanhPick a % set.length) 0)

/-- The relation of an FCMP (R147), from a comparison. -/
def fcondHolds : FCond → Option Ordering → Bool
  | .eq, o => o == some .eq
  | .ne, o => o != some .eq
  | .lt, o => o == some .lt
  | .le, o => o == some .lt || o == some .eq
  | .gt, o => o == some .gt
  | .ge, o => o == some .gt || o == some .eq
  | .un, o => o == none
  | .ord, o => o != none

/-- Legal element codes of AFmt and BFmt (R75). -/
def elemCode (c : Nat) : Bool := decide (1 ≤ c) && decide (c ≤ 8)

/-- Legal codes of Out (R75). -/
def outCode (c : Nat) : Bool := decide (c ≤ 5) || c == 7

/-- AFmt, BFmt and Group form a legal combination (R76). -/
def pairOk (a b g : Nat) : Bool :=
  let cls := fun c => if c ≤ 2 then 0 else (c - 1) / 2
  cls a == cls b && (decide (3 ≤ a) || a == b)
    && (!(a == 6 || a == 8 || b == 6 || b == 8) || g != 0)
    && (!(decide (a ≤ 2) || decide (b ≤ 2)) || g == 0)

/-- Which check of R77 a format word fails: 1 reserved bits, 2 codes, 3 pair or group; 0 none. -/
def fmtCheck (w : Word) : Nat :=
  let a := (w.extractLsb' 0 4).toNat
  let b := (w.extractLsb' 4 4).toNat
  let o := (w.extractLsb' 8 4).toNat
  let g := (w.extractLsb' 12 2).toNat
  if w.extractLsb' 17 15 != 0#15 then 1
  else if !(elemCode a && elemCode b && outCode o) then 2
  else if !pairOk a b g then 3
  else 0

end Sys2Proof.Machine
end

