-- ==== Sys2Proof/Machine/State.lean ====
section
/-!
DEFINITION. The state of the module: plain data, everything the spec gives the machine (INVENTORY.md lists it with
its rules), the reasons a step can stop, and the state right after reset.

Collections keyed by a number are lists of (key, value) with keys strictly rising; Machine/Table.lean has the operations.
Keys: a core by its logical number, a copy by core × 1024 + slot, a cluster by launch identity × 16384 + index
(every field named cluster holds that key), a lane register by register × 1024 + lane, a wave or graph by its place, a range or packet by its own number.
-/

namespace Sys2Proof.Machine

/-- Z, N, C, V (R82). MZ and MA follow from the mask (R83). -/
structure CondCode where
  z : Bool := false
  n : Bool := false
  c : Bool := false
  v : Bool := false
  deriving DecidableEq, Repr

/-- A team's float mode (R62): rounding 0 RNE, 1 RZ, 2 RU, 3 RD; flush. -/
structure FloatMode where
  round : BitVec 2 := 0#2
  flush : Bool := false
  deriving DecidableEq, Repr

/-- What TRET restores besides the position (R348): mask, condition code, float mode, window base. -/
structure Ctx where
  mask  : BitVec 1024 := 0#1024
  cc    : CondCode := {}
  fmode : FloatMode := {}
  win   : Nat := 0
  deriving DecidableEq, Repr

/-- Where a counter lies (R208). -/
inductive CounterLoc
  | none
  | sp (die addr : Nat)
  | sh (cluster core addr : Nat)
  deriving DecidableEq, Repr

/-- An operation attached to a flag, or to none (R43). -/
inductive OpRef
  /-- CWAIT: outstanding until the counter is at least the target (R209). -/
  | cwait (loc : CounterLoc) (target : BitVec 64)
  /-- BWAIT: outstanding until the phase has passed (R214); then register reg of the lanes of mask is written. -/
  | bwait (handle phase : Word) (reg : Nat) (mask : BitVec 1024)
  /-- An instruction of the array queue, by its number (R229). -/
  | array (op : Nat)
  /-- A wave, by its handle (R274). -/
  | wave (handle : Word)
  /-- A walk, by core and handle (R299). -/
  | walk (core : Nat) (handle : Word)
  /-- GUNBIND of a graph place of a generation (R282). -/
  | gunbind (place gen : Nat)
  /-- A load that has not performed yet (R93, R168). -/
  | load (id : Nat)
  deriving DecidableEq, Repr

/-- An operation with the flag it is attached to: 0 none, 1–12 f1–f12 (R43). -/
structure PendOp where
  flag : Nat
  ref  : OpRef
  deriving DecidableEq, Repr

/-- The report of a trap (R343), with the trapping word. -/
structure Report where
  cause : BitVec 8
  sub   : BitVec 4 := 0#4
  word  : Word := 0#32
  lane  : Word := Word.ones
  info0 : Word := 0#32
  info1 : Word := 0#32
  info2 : Word := 0#32
  info3 : Word := 0#32
  deriving DecidableEq, Repr

/-- Who waits for a translation to be repaired (R163). -/
inductive FillWho
  | team (id : Nat)
  | range (id : Nat)
  | wave (place : Nat)
  | check (queue : Nat)
  /-- The handler table entry of a message of a core, in a launch (R329). -/
  | message (core launch : Nat)
  /-- The capture of a team, which writes image A (R356). -/
  | image (team : Nat)
  /-- The save area and the windows of a launch that is pre-empted or restored (R353). -/
  | save (launch : Nat)
  /-- A remote access of the host or a peer, by its number (R340). -/
  | remote (id : Nat)
  deriving DecidableEq, Repr

/-- A fill that met a translation fault (R163, R361). -/
structure Fill where
  who  : FillWho
  root : BitVec 48
  page : Nat
  kind : Nat
  va   : Nat
  deriving DecidableEq, Repr

/-- Where the bytes of a landing go (R191). -/
inductive Dest
  | main
  | sh (cluster core : Nat)
  | sp (die : Nat)
  | bst (core : Nat)
  | peer (index : Nat)
  deriving DecidableEq, Repr

/-- Where a range is registered (R195). -/
inductive RangeUnit
  | core (n : Nat)
  | die (n : Nat)
  | unregistered
  deriving DecidableEq, Repr

/-- Why a team is not ready although it is resident (R93). -/
inductive Park
  /-- YIELD.F: until the flags of the mask are clear; then the continuation (R107). -/
  | flags (mask : BitVec 12) (cont : Word)
  /-- YIELD.C: until the .sp counter is at least the target; then the continuation (R107). -/
  | counter (addr : Nat) (target : BitVec 64) (cont : Word)
  /-- STGPOST (post true) or STGTAKE on ring q (R109). -/
  | ring (q : Nat) (post : Bool)
  /-- An atom.sp on words whose lock bits another team holds (R183): the lock bits it needs. -/
  | lock (locks : List Nat)
  /-- A stack-cache miss of these lines (R163). -/
  | stack (lines : List Nat)
  /-- A translation fault: the fill waits in a fault buffer (R163). -/
  | fault
  /-- A translation fault of a clause fetch (R417). -/
  | fetch
  /-- A load or matrix read of these bytes behind a watermark (R179). -/
  | landing (dest : Dest) (bytes : List Nat)
  /-- A store, atomic or STUL to these bytes of a registered range (R180). -/
  | landingStore (dest : Dest) (bytes : List Nat)
  /-- A DUSK stall (R176); with the bytes of the store that forces the batch, when one does (R175). -/
  | dusk (bytes : List Nat)
  /-- A zero send allowance of an entry (R325). -/
  | allowance (entry : Nat)
  /-- A release waiting for flush acknowledgements (R322). -/
  | flush
  /-- HALT waiting for its flags (R100). -/
  | halt
  /-- A copy or walk waiting for a slot, a range or, for DESCEND, a wave place (R194, R195, R299). -/
  | slot
  /-- A wave instruction waiting for a sequencer place, or for landing ranges in these units (R195, R270). -/
  | wave (units : List RangeUnit)
  /-- A matrix instruction whose launch does not own these cores (R220, R241). -/
  | owner (cores : List Nat)
  /-- A region-entry clause, or CKPT, waiting for queued planes (R356, R357). -/
  | capture
  /-- A stream instruction waiting for these segments of main memory (R253). -/
  | segment (segs : List Nat)
  /-- A trap pending on the fetch of the handler's header (R344). -/
  | vector (r : Report)
  /-- TLBINV: until every access that used a dropped translation has performed (R363). -/
  | translations
  /-- A SPAWN without room (R332). -/
  | spawn
  /-- A read of a register that a long-latency instruction still has to write (R93). -/
  | result
  deriving DecidableEq, Repr

/-- A register that an outstanding array operation or BWAIT will write (R93): 0–255 a lane register, 256 + j the
operand-file entry j. -/
structure PendReg where
  reg : Nat
  ref : OpRef
  deriving DecidableEq, Repr

/-- A record of dropped packets (R319, R330): the first one's address or target pair, its reason, how many. -/
structure Dropped where
  first  : BitVec 64
  reason : Nat
  count  : Word
  deriving DecidableEq, Repr

/-- A resolved copy schedule entry (R189, R190, R192). -/
structure CopyEntry where
  fill     : Word
  src      : BitVec 64
  dst      : BitVec 64
  fb       : BitVec 64
  counter  : Word
  incr     : Word
  deadline : Word
  tag      : BitVec 16
  contrib  : Nat
  rank     : Nat
  /-- Element size in bytes. -/
  size     : Nat
  ext      : List Nat
  sstride  : List Nat
  dstride  : List Nat
  origin   : List Int
  bound    : List Nat
  acc      : Bool
  combine  : Nat
  bar      : Bool
  useFb    : Bool
  clip     : Bool
  deriving DecidableEq, Repr

/-- A copy address with its space resolved for an issuing core (R191). -/
structure Loc where
  dest : Dest
  addr : Nat
  deriving DecidableEq, Repr

/-- A parsed EMBED record (R303). -/
structure EmbedRec where
  pool    : Nat
  tfmt    : Nat
  ofmt    : Nat
  n       : Nat
  table   : BitVec 64
  indices : BitVec 64
  offsets : BitVec 64
  out     : BitVec 64
  status  : BitVec 64
  bags    : Nat
  rows    : Nat
  deriving DecidableEq, Repr

/-- A parsed DESCEND record (R306). -/
structure DescendRec where
  graph   : Word
  slot    : Nat
  metric  : Nat
  child   : Nat
  item    : Nat
  beam    : Nat
  topk    : Nat
  queries : BitVec 64
  results : BitVec 64
  root    : Nat
  count   : Nat
  status  : BitVec 64
  side    : BitVec 64
  deriving DecidableEq, Repr

/-- What occupies a copy slot (R188, R299). -/
inductive SlotKind
  | copy (e : CopyEntry)
  /-- EMBED: the record, and the offset that the last bag ended at, which is not read again (R305). -/
  | embed (r : EmbedRec) (last : Option Nat := none)
  /-- DESCEND: the record, its wave place, and the Published values of the queries already started, by query (R315). -/
  | descend (r : DescendRec) (place : Nat) (published : List (Nat × Nat))
  deriving DecidableEq, Repr

/-- State of a copy or walk (R207, R300). -/
inductive CopyPhase
  | held | landing | complete | failed
  deriving DecidableEq, Repr

/-- A copy or walk in a slot of a core's copy engine (R188, R299). -/
structure Copy where
  handle   : Word
  launch   : Nat
  cluster  : Nat
  kind     : SlotKind
  dst      : Loc
  /-- Bytes of the destination range. -/
  len      : Nat
  /-- Elements, bags or queries landed. -/
  next     : Nat := 0
  total    : Nat
  phase    : CopyPhase := .held
  err      : Nat := 0
  clipped  : Nat := 0
  viaPrim  : Bool := false
  viaFb    : Bool := false
  useFb    : Bool := false
  counter  : CounterLoc
  incr     : Word
  /-- The barrier bound at release, when the entry has Bar set (R214). -/
  bar      : Option Word := none
  range    : Nat
  /-- Frozen by pre-emption (R215). -/
  frozen   : Bool := false
  /-- A page answered unrepairable (R361). -/
  denied   : Option Nat := none
  /-- Teams of other dies whose last batches its reads need not see yet (R414). -/
  unseen   : List Nat := []
  deriving DecidableEq, Repr

/-- Whose landing a range is (R195, R274, R299). -/
inductive RangeOwner
  | copy (core slot : Nat)
  | wave (place : Nat)
  deriving DecidableEq, Repr

/-- A destination range with its watermark (R195 to R199). Main-memory and peer destinations have one too, not
registered anywhere. -/
structure Range where
  unit   : RangeUnit
  owner  : RangeOwner
  dest   : Dest
  start  : Nat
  len    : Nat
  /-- The watermark, as an offset from the start. -/
  mark   : Nat := 0
  failed : Bool := false
  /-- The landing has ended (completed or failed). -/
  done   : Bool := false
  /-- Its place in the die's publication order, or, but in .sp, the moment of it, once its last byte has landed or it has failed (R199). -/
  place  : Option Nat := none
  /-- The moment at which it took that place. -/
  ended  : Option Nat := none
  /-- A failure has been read, or needs no reading (R199, R278). -/
  acked  : Bool := false
  /-- Ranges whose watermark must first reach an offset of their own (R198). -/
  behind : List (Nat × Nat) := []
  /-- Bytes landed into .sp or .sh, by address, while the range is registered. -/
  data   : List Host.Cell := []
  /-- Landed bytes that a publication, or in .sh a store or an atomic, has written since: the landing leaves them out when it takes its place (R180). -/
  rewritten : List Nat := []
  /-- Bytes still to land, for a wave (R293). -/
  bytes  : List Byte := []
  deriving DecidableEq, Repr

/-- How a publication came about (R170). -/
inductive PubKind
  | batch | atomic | landing
  deriving DecidableEq, Repr

/-- A publication: its bytes, and the core, or for a batch also the team, that made it when one did (R170, R171). -/
structure Pub where
  kind  : PubKind
  core  : Option Nat
  cells : List Host.Cell
  /-- For bytes that a store wrote, the moment of the store: the next identity then (R180). -/
  times : List (Nat × Nat) := []
  team  : Option Nat := none
  deriving DecidableEq, Repr

/-- A transaction barrier of a die's pool (R211). (DESIGN CHOICE, log 8.) -/
structure Barrier where
  gen      : Nat := 0
  live     : Bool := false
  need     : Nat := 1
  arrived  : Nat := 0
  pending  : Int := 0
  phase    : Word := 0#32
  refs     : Nat := 0
  absences : Int := 0
  timeout  : Word := 0#32
  /-- The error bit, with the phase from which phases complete in error. -/
  err      : Option Word := none
  deriving DecidableEq, Repr

/-- A compute die (R14): publication order newest first, lock bits (slice × 256 + bank × 8 + L) with the holding team,
barrier pool, fault buffer and the fills that wait for an entry. -/
structure Die where
  pubs     : List Pub := []
  locks    : List (Nat × Nat) := []
  barriers : List (Nat × Barrier) := []
  faults   : List Fill := []
  waiting  : List Fill := []
  deriving DecidableEq, Repr

/-- An unpublished scratchpad byte and the team that stored it last (R170). -/
structure UByte where
  addr : Nat
  /-- What the owning team's next publication publishes. -/
  val  : Byte
  /-- What the core's own loads return: val, or what an atomic wrote over it since (R184). -/
  seen : Byte
  team : Nat
  /-- The moment of the store: the next identity then (R180, R184). -/
  time : Nat := 0
  deriving DecidableEq, Repr

/-- A row that a matrix pass works on: the lane that supplies it, the A words at issue, for each the earlier value if a
write to it was pending at issue (R230), and the metadata words (R228). (DEDUCED, log 22.) -/
structure MmRow where
  row   : Nat
  lane  : Nat
  words : List Word
  early : List (Option Word)
  mdata : List Word
  /-- Words that an early read has seen, by their index: the pass reads the same (R230, R231). -/
  fixed : List (Nat × Word) := []
  deriving DecidableEq, Repr

/-- What an array operation does (R229). -/
inductive ArrayKind
  /-- One pass of MMQ or MMQS: descriptor, format word, first A register, sparse, rows, the length of the team's register log at
  issue (R230). -/
  | mm (desc fmt : Word) (areg : Nat) (sparse : Bool) (rows : List MmRow) (log : Nat)
  /-- The pass of MMC on this core (R241): the space of A, the cores of its row, of which the first reads the rows, and for each row
  its number, the address of its A bytes, and the bytes read so far. -/
  | mmc (desc fmt : Word) (src : Dest) (cores : List Nat) (rows : List (Nat × Nat × List (Option Byte)))
  | zero (b e : Nat)
  /-- Cells to write: row × 160 + column. -/
  | write (cells : List (Nat × BitVec 56))
  /-- MXSMAX: rows with their lanes, scale, column count, destination register. -/
  | smax (rows : List (Nat × Nat)) (scale : Word) (n : Nat) (reg : Nat)
  /-- MXRESCALE: rows with the factor. -/
  | rescale (rows : List (Nat × Word))
  /-- MXSUM: rows with their lanes, destination pair. -/
  | sum (rows : List (Nat × Nat)) (reg : Nat)
  deriving DecidableEq, Repr

/-- An entry of a core's array queue: the instruction's number, the team, the code offset of the instruction, and the length of the
core's B log at issue (R232). (DEDUCED, log 23.) -/
structure ArrayOp where
  op   : Nat
  team : Nat
  pc   : Word
  kind : ArrayKind
  since : Nat := 0
  /-- B bytes that a landing has written since its issue and that an early read has seen: the pass reads the same (R231, R232). -/
  seen : List (Nat × Byte) := []
  /-- What early reads have seen of B: a column, how many blocks, and the length of the B log then. -/
  looks : List (Nat × Nat × Nat) := []
  deriving DecidableEq, Repr

/-- A line of the stack cache (R163): 128 bytes of a team's stack window, with its physical address and its key (R362). -/
structure StackLine where
  team  : Nat
  line  : Nat
  pa    : Nat
  key   : BitVec 512
  data  : Table 8
  dirty : Bool
  deriving DecidableEq, Repr

/-- A message waiting at its destination core (R329). -/
structure Msg where
  launch  : Nat
  cluster : Nat
  core    : Nat
  handler : Nat
  payload : List Word
  /-- It came from a peer (R329). -/
  remote  : Bool := false
  /-- Teams of other dies whose last batches the copies of its handler need not see yet (R414). -/
  unseen  : List Nat := []
  deriving DecidableEq, Repr

/-- An item of a spawn queue (R332). -/
structure SpawnItem where
  launch  : Nat
  cluster : Nat
  target  : Word
  role    : Nat
  words   : List Word
  deriving DecidableEq, Repr

/-- A segment of the stream buffer (R251): 256 bytes of an address space as they were when it was filled, and the 128-byte
halves whose check value did not match. -/
structure Segment where
  root : BitVec 48
  seg  : Nat
  data : List Byte
  bad  : List Nat
  deriving DecidableEq, Repr

/-- A load that has been issued and has not performed yet (R168): its number, the bytes it reads, its destination (the first
register, none for zr), the lanes with their addresses, and how deep its result lies in the latches. (DESIGN CHOICE, log 6.) -/
structure LateLoad where
  id    : Nat
  dest  : Dest
  width : LdW
  reg   : Option Nat
  lanes : List (Nat × Nat)
  depth : Nat := 0
  deriving DecidableEq, Repr

/-- A logical core (R18). -/
structure Core where
  age      : List Nat := []
  /-- Resident clusters, oldest first (R220). -/
  residents : List Nat := []
  current  : Option Nat := none
  issued   : Nat := 0
  /-- Instructions that teams have issued beside the current one in banking mode B, each in its own count of 64 (R96). -/
  paired   : List (Nat × Nat) := []
  /-- Deterministic mode: the rotation, the team whose turn is next first (R97). -/
  rotation : List Nat := []
  snap     : Nat := 0
  unpub    : List UByte := []
  acc      : Table 56 := []
  /-- M per row, −∞ where not listed (R220). -/
  rowMax   : Table 32 := []
  /-- L per row, +0 where not listed. -/
  rowSum   : Table 32 := []
  bst      : Table 8 := []
  queue    : List ArrayOp := []
  /-- Passes of MMC whose A rows have not arrived yet (R241). -/
  arriving : List ArrayOp := []
  /-- Landings in the B store while an operation of the array was outstanding, oldest first: of each, the offsets and the bytes
  before (R232). -/
  blog     : List (List (Nat × Byte)) := []
  owner    : Option Nat := none
  stack    : List StackLine := []
  segs     : List Segment := []
  /-- Send allowances; unlisted entries hold their power-up value (R323). -/
  allow    : Table 8 := []
  incoming : List Msg := []
  spawnQ   : List SpawnItem := []
  /-- Child teams that have formed and wait for room (R333). -/
  children : List (List SpawnItem) := []
  handleNo : Word := 0#32
  cerr     : Word := 0#32
  cycles   : BitVec 64 := 0#64
  deriving DecidableEq, Repr

/-- A slot of a stage ring (R92). -/
structure RingSlot where
  full    : Bool := false
  phase   : Bool := false
  payload : Word := 0#32
  deriving DecidableEq, Repr

/-- A stage ring (R92). -/
structure Ring where
  post  : Nat := 0
  take  : Nat := 0
  slots : List RingSlot
  deriving DecidableEq, Repr

/-- What a cluster owns on one of its cores (R23, R92, R188, R214). -/
structure Place where
  core   : Nat
  pos    : Nat
  sh     : Table 8 := []
  rings  : List Ring := []
  cursor : Nat := 0
  bound  : Option Word := none
  /-- Items and formed children of the cluster, while its launch is pre-empted (R334). -/
  spawnQ : List SpawnItem := []
  children : List (List SpawnItem) := []
  deriving DecidableEq, Repr

/-- A cluster that has been admitted (R88). Not resident while its launch is pre-empted (R353). -/
structure Cluster where
  launch   : Nat
  index    : Nat
  die      : Nat
  x0       : Nat
  y0       : Nat
  width    : Nat
  height   : Nat
  resident : Bool := true
  places   : List Place := []
  deriving DecidableEq, Repr

/-- The launch record header (R85). -/
structure Record where
  version   : Nat
  flags     : Word
  codeBase  : BitVec 64
  codeLen   : Nat
  entry     : Nat
  argAddr   : BitVec 64
  argLen    : Nat
  clusters  : Nat
  teams     : Nat
  lanes     : Nat
  regs      : Nat
  shared    : Nat
  rings     : Nat
  chart     : BitVec 64
  ringSlots : List Nat
  roles     : BitVec 64
  sched     : BitVec 64
  schedN    : Nat
  atabN     : Nat
  atab      : BitVec 64
  htab      : BitVec 64
  handlers  : Nat
  deriving DecidableEq, Repr

/-- Where a launch stands (R87, R88, R345, R353). -/
inductive LaunchPhase
  | running | suspended
  /-- Ending with a code and an address (R345). -/
  | ending (code addr : Word)
  | ended
  deriving DecidableEq, Repr

/-- The matrix state of a core, saved at pre-emption (R221). -/
structure SavedMatrix where
  core   : Nat
  acc    : Table 56
  rowMax : Table 32
  rowSum : Table 32
  bst    : Table 8
  deriving DecidableEq, Repr

/-- An add.f32 reduction that has performed on a word while packets sent before it are still in flight, and which nothing but other such
reductions has written since (R81, R317): where, when, the word before and after, the lane values. (DEDUCED, log 10.) -/
structure SumNote where
  space  : Nat
  die    : Nat
  addr   : Nat
  time   : Nat
  before : Word
  after  : Word
  values : List Word
  deriving DecidableEq, Repr

/-- An accepted launch. -/
structure Launch where
  queue  : Nat
  seq    : Nat
  hdr    : Record
  chart  : List Word
  places : List Nat
  roles  : List Nat
  args   : List Byte
  /-- The next cluster to admit (R88). -/
  next   : Nat := 0
  phase  : LaunchPhase := .running
  saved  : List SavedMatrix := []
  /-- Rotations of its cores, saved at pre-emption (R98). -/
  turns  : List (Nat × List Nat) := []
  /-- Where its state was saved (R353), and the pages of the save area and of its windows that the host has answered unrepairable. -/
  save   : Nat := 0
  lost   : List Nat := []
  deriving DecidableEq, Repr

/-- A launch message that waits at a queue (R339). -/
structure Waiting where
  deps   : List (Nat × Nat)
  header : List Byte
  deriving DecidableEq, Repr

/-- A launch queue (R338, R339). (DEDUCED, log 18.) -/
structure Queue where
  cfg     : Option QueueCfg := none
  waiting : List Waiting := []
  ended   : Nat := 0
  nextSeq : Nat := 0
  spill   : List Msg := []
  /-- The check of the first waiting launch is parked on a translation fault (R87). -/
  parked  : Bool := false
  /-- A page of that check answered unrepairable. -/
  denied  : Option Nat := none
  /-- Peer-table indexes of the peers that are unavailable (R338). -/
  lostPeers : List Nat := []
  deriving DecidableEq, Repr

/-- Trap registers and the trap shadow (R343, R344, R349). -/
structure TrapState where
  vec     : Word := 0#32
  inTrap  : Bool := false
  cause   : Word := 0#32
  pc      : Word := 0#32
  word    : Word := 0#32
  lane    : Word := Word.ones
  info0   : Word := 0#32
  info1   : Word := 0#32
  info2   : Word := 0#32
  info3   : Word := 0#32
  regPc   : Word := 0#32
  regCnt  : Word := 0#32
  shadow  : Ctx := {}
  /-- The context at the entry of the region that TREGPC names (R348). -/
  regionCtx : Ctx := {}
  latch   : Table 32 := []
  latchN  : Nat := 0
  lits    : Nat := 0
  /-- The place of the trapping instruction: word index, clause header offset, the clause's words, literal count, flags
  and long-latency instructions so far. -/
  idx     : Nat := 0
  clause  : BitVec 52 := 0#52
  words   : List Word := []
  litN    : Nat := 0
  setA    : Nat := 0
  setB    : Nat := 0
  longs   : Nat := 0
  started : Bool := true
  deriving DecidableEq, Repr

/-- The state of a team at its last region entry (R356): the header of image A, as byte offsets with words, and the registers of every
kind. -/
structure Capture where
  head     : List (Nat × List Word)
  regs     : Table 32
  ofile    : Table 32
  streams  : Table 128
  mdata    : Table 32
  shadow   : Table 32
  /-- What TRET goes back to behind the header (R348). -/
  trap     : TrapState
  deriving DecidableEq, Repr

/-- What an instruction that could not finish in one go still has to do (R194, R325). -/
structure Unfinished where
  copies  : List Copy := []
  /-- Reductions still to be sent: address and lane values. -/
  packets : List (Nat × List Word) := []
  /-- The copies have been released up to here; the handle of the first. -/
  handle  : Word := 0#32
  begun   : Bool := false
  deriving DecidableEq, Repr

/-- A packet's load (R323): a message, a reduction, a barrier token. -/
inductive PacketKind
  | msg (peer : Nat) (m : Msg) (target : BitVec 64)
  /-- A reduction: operation, space, die, address (in main memory the physical one, with the key), the address as named, lane values. -/
  | red (op : ScatOp) (space : Nat) (die : Nat) (addr : Nat) (key : BitVec 512) (va : BitVec 64) (values : List Word)
  | token (handle : Word) (presence : Bool)
  deriving DecidableEq, Repr

/-- An endpoint of the fabric (R22, R416): a physical core, a node engine, a scratchpad slice, an Ultra Ethernet port, the command
processor of a die, the wave sequencer, its standby, the management block. -/
inductive Endpoint
  | core (physical : Nat)
  | engine (e : Nat)
  | slice (k : Nat)
  | port (q : Nat)
  | command (die : Nat)
  | sequencer
  | standby
  | management
  deriving DecidableEq, Repr

/-- A packet in flight (R321, R323): the team that sent it, the core and the allowance entry it took, its endpoints and which of
the listed paths it is on. (DESIGN CHOICE, log 43.) -/
structure Packet where
  team  : Nat
  core  : Nat
  entry : Nat
  kind  : PacketKind
  src   : Endpoint
  dst   : Endpoint
  path  : Nat := 0
  /-- The moment at which it was sent, or sent again (R335), and at which it was first sent: its place in the program's order (R184). -/
  sentAt : Nat
  since  : Nat
  /-- The address space of the launch that sent it (R363). -/
  root   : BitVec 48
  deriving DecidableEq, Repr

/-- A team (R82). -/
structure Team where
  launch   : Nat
  cluster  : Nat
  core     : Nat
  /-- What tm reads: 0–63, 64 for a handler, 65 for a child (R31). -/
  tm       : Nat
  role     : Nat
  lanes    : Nat
  regsN    : Nat
  /-- Code offset of the current clause's header, modulo 2^52 (R28), and whether that clause has started (R82). -/
  clause   : BitVec 52
  started  : Bool := false
  /-- The clause's words after the header (R49), how many of them are literals, the word index. -/
  words    : List Word := []
  litN     : Nat := 0
  idx      : Nat := 0
  lits     : Nat := 0
  setA     : Nat := 0
  setB     : Nat := 0
  /-- Long-latency instructions of this clause so far (R43). -/
  longs    : Nat := 0
  ctx      : Ctx
  ops      : List PendOp := []
  pendRegs : List PendReg := []
  /-- Loads that the array has not seen return yet, oldest first: the register words with their earlier values (R230). -/
  inFlight : List (List (Nat × Word)) := []
  /-- Loads that have not performed yet, oldest first (R168). -/
  late     : List LateLoad := []
  /-- Outstanding MMQ and MMQS instructions, by number, and the register words written while there are some, oldest first (R230). -/
  spans    : List Nat := []
  spanLog  : List (Nat × Word) := []
  regs     : Table 32 := []
  ofile    : Table 32 := []
  latch    : Table 32 := []
  latchN   : Nat := 0
  streams  : Table 128 := []
  mdata    : Table 32 := []
  regionPc : Word
  regionN  : Word := 0#32
  regionCtx : Ctx
  retired  : BitVec 64 := 0#64
  cycHi    : Word := 0#32
  retHi    : Word := 0#32
  park     : Option Park := none
  barRefs  : List Word := []
  trap     : TrapState := {}
  redDrop  : Option Dropped := none
  msgDrop  : Option Dropped := none
  /-- A message of this record was dropped because its peer is unavailable (R330). -/
  peerTold : Bool := false
  /-- Endpoints sent to since the last release, with the allowance entries (R322). -/
  sentTo   : List (Nat × Endpoint) := []
  /-- When the flush markers of a release that waits left the core (R322). -/
  markers  : Option Nat := none
  /-- The point of its die's publication order at its last release at package scope (R414). -/
  released : Nat := 0
  /-- For a handler: teams of other dies whose last batches its copies need not see yet (R414). -/
  unseen   : List Nat := []
  capture  : Option Capture := none
  /-- Planes queued for image A: 32 × r + group (R354, R356); whether its header is; planes written since the last capture. -/
  planes   : List Nat := []
  headQueued : Bool := false
  dirty    : List Nat := []
  todo     : Unfinished := {}
  /-- Pages answered unrepairable for this team's accesses, and for its capture (R361). -/
  denied   : List Nat := []
  lost     : List Nat := []
  deriving DecidableEq, Repr

/-- A bound graph, or the generation of a free place (R266, R281). (DESIGN CHOICE, log 8.) -/
structure Graph where
  gen    : Nat := 0
  live   : Bool := false
  /-- GUNBIND accepted: at which acceptance number (R282). -/
  unbind : Option Nat := none
  launch : Nat := 0
  queue  : Nat := 0
  count  : Nat := 0
  first  : Nat := 0
  engines : Nat := 1
  /-- Format and element count of slots 0–7 (R267). -/
  slots  : List (Nat × Nat) := []
  /-- Address of the partition table (R266): engines read its entries where they need them (R269). -/
  table  : Nat := 0
  deriving DecidableEq, Repr

/-- The wave instructions (R273), and DESCEND, which holds a wave place (R310). -/
inductive WaveOp
  | mark | clear | prop | propf | collect | collectg | ncount | descend
  deriving DecidableEq, Repr

/-- A parsed wave record (R273, R283, R285, R292). -/
structure WaveRec where
  control : Word := 0#32
  types   : Nat := 0
  present : Nat := 0
  absent  : Nat := 0
  pmask   : Word := 0#32
  pcmp    : Word := 0#32
  lo      : Nat := 0
  hi      : Nat := 0
  fill    : Word := 0#32
  edgeMask : Nat := 0
  hops    : Nat := 0
  dest    : BitVec 64 := 0#64
  cap     : Nat := 0
  countRef : CounterLoc := .none
  offs    : BitVec 64 := 0#64
  deriving DecidableEq, Repr

/-- State of a wave (R277). -/
inductive WavePhase
  | held | running | ended | failed
  deriving DecidableEq, Repr

/-- A contribution on its way in a free-mode wave (R288): target and the elements sent. -/
structure Contribution where
  node  : Nat
  elems : List Word
  deriving DecidableEq, Repr

/-- An accepted wave, until it is retired (R270, R277). -/
structure Wave where
  seqNo    : Nat
  handle   : Word
  op       : WaveOp
  graph    : Nat
  launch   : Nat
  cluster  : Nat
  core     : Nat
  wrec     : WaveRec
  phase    : WavePhase := .held
  err      : Nat := 0
  hops     : Nat := 0
  limit    : Bool := false
  trunc    : Bool := false
  counter  : CounterLoc
  incr     : Word
  /-- Level mode: nodes of the current frontier (R287). -/
  frontier : List Nat := []
  /-- Free mode: contributions not yet delivered (R288). -/
  sends    : List Contribution := []
  ranges   : List Nat := []
  /-- Entries or sources found (R293). -/
  found    : Nat := 0
  /-- Suspended by pre-emption (R295). -/
  frozen   : Bool := false
  /-- A page answered unrepairable, and whether the wave is parked on a fault (R294). -/
  parked   : Bool := false
  denied   : Option Nat := none
  deriving DecidableEq, Repr

/-- Where an event goes (R341): a queue's host event destination, or the management destination. -/
inductive EventDest
  | queue (address : BitVec 128)
  | management
  deriving DecidableEq, Repr

/-- A host event (R341). -/
structure HostEvent where
  dest  : EventDest
  kind  : Nat
  queue : Nat
  seq   : Nat
  code  : Word
  addr  : BitVec 64
  cycle : BitVec 64
  deriving DecidableEq, Repr

/-- What the module answers or sends to the outside besides host events (R339, R340, R368, R369). -/
inductive Reply
  | ok (what : String)
  | error (what : String)
  | data (bytes : List Byte)
  /-- An attestation report (R368): nonce, idr.arch word, image digest and version, owner and key digests, loaded slots, signature index. -/
  | report (nonce : BitVec 256) (serial : BitVec 128) (arch : Word) (digest : BitVec 256) (version : Nat)
      (owner : Option (BitVec 256)) (mlkem : BitVec 256) (slots index : Nat) (signature : List Byte)
  | exhausted
  /-- A copy element or a message sent to a peer (R340, R328). -/
  | toPeer (peer addr : Nat) (bytes : List Byte)
  | msgToPeer (peer : Nat) (target : BitVec 64) (payload : List Word)
  | tokenToPeer (handle : Word) (presence : Bool)
  /-- A barrier instruction on a peer's barrier (R211, R214): its function number, or 7 for the error bit. -/
  | barrierToPeer (handle : Word) (op : Nat) (value : Word)
  | flushed (id : Nat)
  /-- A replay request, or a replay, on a link (R335). -/
  | replay (link seq : Nat)
  deriving DecidableEq, Repr

/-- The form of a 4 KiB block of main memory (R204). -/
inductive BlockForm
  | compressed | constant
  deriving DecidableEq, Repr

/-- A cached translation (R363): address space, virtual page of 64 KiB, frame, permissions, compression, key. -/
structure TlbEntry where
  root  : BitVec 48
  page  : Nat
  frame : Nat
  r     : Bool
  w     : Bool
  x     : Bool
  c     : Bool
  key   : Nat
  deriving DecidableEq, Repr

/-- A remote access that waits for a translation to be repaired (R340): the queue whose address space it names, its address, the bytes
to write or how many to read. (DEDUCED, log 38.) -/
structure Remote where
  queue : Nat
  va    : Nat
  data  : Option (List Byte)
  len   : Nat
  deriving DecidableEq, Repr

/-- A storage error that is present (R364, R365): where an uncorrectable error or a check mismatch lies. (DESIGN CHOICE, log 42.) -/
inductive StorageErr
  /-- Main memory: a 128-byte block whose check value does not match. -/
  | main (block : Nat)
  /-- Main memory: a 256-bit column word with a double-bit error (R294). -/
  | column (word : Nat)
  /-- Scratchpad: a 128-byte block of a die. -/
  | sp (die block : Nat)
  /-- A 4-byte word of a cluster's shared memory on a core. -/
  | sh (cluster core word : Nat)
  /-- A stack cache line of a team. -/
  | stack (team line : Nat)
  /-- A register of a team in a lane: 0–255, 256 + j for o_j, 264 + k for latch hk, 268 + i for s_i, 276 + k for m_k. -/
  | reg (team reg lane : Nat)
  /-- The accumulators or the B store of a core. -/
  | array (core : Nat)
  deriving DecidableEq, Repr

/-- One direction of a link (R335, R336): flits sent and received, credits, the sequence number of the next flit, the replay
buffer, in service. (DESIGN CHOICE, log 8.) (DESIGN CHOICE, log 43.) -/
structure Link where
  sent    : BitVec 16 := 0#16
  credits : BitVec 16 := 0#16
  recv    : BitVec 16 := 0#16
  freed   : BitVec 16 := 0#16
  /-- Credits the sender holds. -/
  avail   : BitVec 16 := 0#16
  seqNo   : BitVec 16 := 0#16
  /-- The sender's replay buffer: sequence numbers of the last unacknowledged flits, at most 64, oldest first. -/
  replay  : List (BitVec 16) := []
  /-- The receiver's reorder store: a flit that has been requested again, and the flits held behind it. -/
  missing : Option (BitVec 16) := none
  held    : List (BitVec 16) := []
  up      : Bool := true
  /-- The S value of an audit flit in flight and the moment it was sent (R336), and the flits received that were sent after it. -/
  audit   : Option (BitVec 16 × Nat) := none
  beyond  : BitVec 16 := 0#16
  /-- Flits sent since the last audit flit. -/
  run     : Nat := 0
  deriving DecidableEq, Repr

/-- Power state of an island (R370). -/
inductive Power
  | noon | evening | night | midnight
  deriving DecidableEq, Repr

/-- A voltage and frequency island (R25, R370): 0–47 core, 48–59 base die, 60–61 port, 62–63 control. -/
structure Island where
  power : Power := .noon
  mhz   : Nat := 2000
  deriving DecidableEq, Repr

/-- The wave sequencer and its standby (R271, R358). -/
inductive SeqUnit
  | active | standby | lost
  deriving DecidableEq, Repr

/-- Where bring-up stands (R373). -/
inductive Phase
  | off | recovery | ready
  deriving DecidableEq, Repr

/-- A firmware bank (R367). (DESIGN CHOICE, log 4.) -/
structure Bank where
  good    : Bool
  version : Nat
  digest  : BitVec 256
  deriving DecidableEq, Repr

/-- What the management block keeps in flash and fuses (R367 to R369). (DESIGN CHOICE, log 4.) (DEDUCED, log 39.) -/
structure Mgmt where
  /-- The fused digest of the key that firmware is signed with (R367). -/
  fused    : BitVec 256 := 0#256
  /-- The module's XMSS identity key and its ML-KEM-1024 key (R368). -/
  identity : List Byte := []
  mlkem    : List Byte := []
  owner    : Option (BitVec 256) := none
  seqNo    : Nat := 0
  bank0    : Bank := ⟨true, 0, 0#256⟩
  bank1    : Bank := ⟨false, 0, 0#256⟩
  /-- The active bank is bank 1. -/
  second   : Bool := false
  /-- The inactive bank becomes active at the next reset. -/
  pending  : Bool := false
  rollback : Nat := 0
  sigIndex : Nat := 0
  deriving DecidableEq, Repr

/-- What moves next, as the order of things outside the model's own rules gives it. (DESIGN CHOICE, log 1.) (DESIGN CHOICE, log 42.) -/
inductive Actor
  /-- The issue slot of a core. -/
  | core (n : Nat)
  /-- The issue slot of a core, in which a load does not perform yet (R168). -/
  | coreLate (n : Nat)
  /-- A storage error arises (R364, R365). -/
  | error (e : StorageErr)
  /-- An error that the device corrects (R294, R365): in a core, or in an engine's stack. -/
  | corrected (stack : Bool) (n : Nat)
  /-- A soft error in a link's counts (R336): a credit is lost, or the count of flits received is wrong. -/
  | upset (link : Nat) (credit : Bool)
  /-- What the tests of the next bring-up will find failing (R373). -/
  | defects (found : Found)
  /-- A step without an encoding. -/
  | event (i : Instr)
  deriving DecidableEq, Repr

/-- The state of the module. -/
structure State where
  phase    : Phase := .ready
  mgmt     : Mgmt := {}
  keys     : List (Nat × BitVec 512) := []
  queues   : List (Nat × Queue) := []
  launches : List (Nat × Launch) := []
  clusters : List (Nat × Cluster) := []
  teams    : List (Nat × Team) := []
  cores    : List (Nat × Core) := []
  dies     : List (Nat × Die) := []
  mem      : Table 8 := []
  /-- The key under which a 128-byte unit of main memory is stored, by unit (R362); none for a unit that nothing has stored through a
  translation. -/
  sealed   : List (Nat × BitVec 512) := []
  forms    : List (Nat × BlockForm) := []
  tlb      : List TlbEntry := []
  errors   : List StorageErr := []
  /-- Logical cores backed by another physical core than at bring-up (R16). -/
  coreMap  : List (Nat × Nat) := []
  /-- Physical cores that have failed (R358). -/
  failedCores : List Nat := []
  /-- Node engines retired; the spare of each one's stack has taken over its channel (R21). -/
  engines  : List Nat := []
  serr     : Table 32 := []
  seqUnit  : SeqUnit := .active
  graphs   : List (Nat × Graph) := []
  waves    : List (Nat × Wave) := []
  waveNo   : Nat := 0
  copies   : List (Nat × Copy) := []
  ranges   : List (Nat × Range) := []
  packets  : List (Nat × Packet) := []
  /-- add.f32 reductions whose order with others is still open, newest first (R81). -/
  sums     : List SumNote := []
  /-- Pages whose fault the host has been told of (R361): root and page. -/
  asked    : List (BitVec 48 × Nat) := []
  /-- Remote accesses that wait for the host's answer (R340). -/
  remotes  : List (Nat × Remote) := []
  events   : List HostEvent := []
  replies  : List Reply := []
  links    : List (Nat × Link) := []
  dropped  : Table 32 := []
  /-- Ports that bring-up has left down (R373). -/
  downPorts : List Nat := []
  /-- What the tests of the next bring-up will find failing (R373). -/
  defects  : Found := {}
  /-- Peer classes whose congestion window the transport has set, with the window in bytes (R323). -/
  windows  : List (Nat × Nat) := []
  islands  : List (Nat × Island) := []
  /-- The model's own: what moves next (DESIGN CHOICE, log 1). -/
  script   : List Actor := []
  /-- The model's own: the team whose instruction is executed (DESIGN CHOICE, log 1). -/
  focus    : Option Nat := none
  /-- The model's own: the core whose turn it is when the script is empty (DESIGN CHOICE, log 1). -/
  turn     : Nat := 0
  /-- The model's own: a load of the core that moves does not perform yet (DESIGN CHOICE, log 6). -/
  lazy     : Bool := false
  /-- The model's own: counts the steps taken with an empty script; cores and internal events alternate by it (DESIGN CHOICE, log 1). -/
  tick     : Nat := 0
  /-- The model's own: how many free values have been taken (DESIGN CHOICE, log 3). -/
  fresh    : Nat := 0
  /-- The model's own: the next identity of a team, launch, range, packet or array operation (DESIGN CHOICE, log 1). -/
  nextId   : Nat := 0
  deriving DecidableEq, Repr

/-- Why the model stops. Neither is an effect the spec gives: both name a step that the machine does not take. -/
inductive Fault
  /-- Raised by every instruction row with an encoding when no team has the issue slot (State.focus names none): a word
  cannot be executed without a team. Safe: step never does this. -/
  | noIssuingTeam
  /-- Raised by a row without an encoding that names a step which cannot occur in this state (a landing of a copy that is
  not there, a resume of a team that is not waiting). Safe: the machine has no such behaviour. -/
  | eventNotEnabled
  deriving DecidableEq, Repr

/-- Why the model refuses. -/
inductive Refusal
  /-- The instruction has no meaning yet, by its mnemonic: raised by an arm of exec only. Safe. -/
  | notModelled (mnemonic : String)
  deriving DecidableEq, Repr

/-- The module right after reset: bring-up has passed without failures (R373 step 6): no queue configured, no key loaded
but key 0, no launch. Values the spec does not give are named in the log (2, 4, 7, 8, 9). (DESIGN CHOICE, log 4.) -/
def State.reset : State := {}

end Sys2Proof.Machine
end

