-- ==== Sys2Proof/Machine/Table.lean ====
section
/-!
DEFINITION. Sparse tables of bit vectors, collections keyed by numbers, and little-endian byte order (R5).
-/

namespace Sys2Proof.Machine

/-- The entry of a collection under a key. -/
def aget {α : Type} : List (Nat × α) → Nat → Option α
  | [], _ => none
  | (a, v) :: r, k => if k = a then some v else aget r k

/-- A collection with an entry put under a key. -/
def aput {α : Type} : List (Nat × α) → Nat → α → List (Nat × α)
  | [], k, v => [(k, v)]
  | (a, u) :: r, k, v =>
    if k < a then (k, v) :: (a, u) :: r else if k = a then (k, v) :: r else (a, u) :: aput r k v

/-- A collection without the entry under a key. -/
def adel {α : Type} (t : List (Nat × α)) (k : Nat) : List (Nat × α) := t.filter fun c => c.1 != k

/-- Every key of the collection is above k. -/
def above {α : Type} (k : Nat) (t : List (Nat × α)) : Bool := t.all fun c => decide (k < c.1)

/-- Keys of a collection strictly rise. -/
def awf {α : Type} : List (Nat × α) → Bool
  | [] => true
  | (a, _) :: r => above a r && awf r

/-- The value at a key; what an unlisted key reads as is d. -/
def tget {w : Nat} (d : Nat → BitVec w) (t : Table w) (k : Nat) : BitVec w := (aget t k).getD (d k)

/-- Writing a value at a key; the value an unlisted key reads as removes the entry. -/
def tset {w : Nat} (d : Nat → BitVec w) (t : Table w) (k : Nat) (v : BitVec w) : Table w :=
  if v = d k then adel t k else aput t k v

/-- The canonical form: keys strictly rising, no entry equal to what an unlisted key reads as. -/
def twf {w : Nat} (d : Nat → BitVec w) (t : Table w) : Bool := awf t && t.all fun c => c.2 != d c.1

/-- Unlisted keys read 0. -/
def zeros {w : Nat} : Nat → BitVec w := fun _ => 0#w

/-- The canonical form of main memory: addresses rise, and no byte is listed that an unlisted address reads as. (DESIGN CHOICE, log 2.) -/
abbrev Memory.wf (m : Table 8) : Bool := twf zeros m

/-- Writing several cells, first to last. -/
def tsets {w : Nat} (d : Nat → BitVec w) (t : Table w) (cells : List (Nat × BitVec w)) : Table w :=
  cells.foldl (fun t c => tset d t c.1 c.2) t

/-- The lowest number below a bound that a test accepts. (DESIGN CHOICE, log 8.) -/
def lowest (bound : Nat) (p : Nat → Bool) : Option Nat := (List.range bound).find? p

/-- Bytes as a number, least significant first (R5). -/
def leNat : List Byte → Nat
  | [] => 0
  | b :: r => b.toNat + 256 * leNat r

/-- The n low bytes of a number, least significant first (R5). -/
def leBytes : Nat → Nat → List Byte
  | 0, _ => []
  | n + 1, v => BitVec.ofNat 8 v :: leBytes n (v / 256)

/-- Bytes as a 32-bit word. -/
def leWord (bs : List Byte) : Word := BitVec.ofNat 32 (leNat bs)

/-- The n bytes at ascending addresses of a space. -/
def bytesAt (f : Nat → Byte) (a n : Nat) : List Byte := (List.range n).map fun i => f (a + i)

/-- Bytes stored at ascending addresses, as cells. -/
def cellsAt (a : Nat) (bs : List Byte) : List Host.Cell :=
  (List.range bs.length).zip bs |>.map fun c => (a + c.1, c.2)

/-- A list cut into pieces of n. -/
def chunks {α : Type} (n : Nat) : Nat → List α → List (List α)
  | 0, _ => []
  | f + 1, l => if l.isEmpty then [] else l.take n :: chunks n f (l.drop n)

/-- A 32-bit field of a list of bytes (R5). -/
def word32 (bs : List Byte) (o : Nat) : Word := leWord ((bs.drop o).take 4)

/-- A 16-bit field of a list of bytes. -/
def nat16 (bs : List Byte) (o : Nat) : Nat := leNat ((bs.drop o).take 2)

/-- An 8-bit field of a list of bytes. -/
def nat8 (bs : List Byte) (o : Nat) : Nat := leNat ((bs.drop o).take 1)

/-- A 32-bit field of a list of bytes, as a number. -/
def nat32 (bs : List Byte) (o : Nat) : Nat := leNat ((bs.drop o).take 4)

/-- A 64-bit field of a list of bytes. -/
def word64 (bs : List Byte) (o : Nat) : BitVec 64 := BitVec.ofNat 64 (leNat ((bs.drop o).take 8))

/-- One bit step of a reflected CRC-32C (R364). -/
def crcStep (c : BitVec 32) : BitVec 32 := if c.getLsbD 0 then (c >>> 1) ^^^ 0x82F63B78#32 else c >>> 1

/-- n bit steps. -/
def crcSteps : Nat → BitVec 32 → BitVec 32
  | 0, c => c
  | n + 1, c => crcSteps n (crcStep c)

/-- The check value of bytes (R364): CRC-32C with the Castagnoli polynomial, reflected, initial value and final XOR all ones. -/
def crc32c (bs : List Byte) : BitVec 32 :=
  ~~~ bs.foldl (fun c b => crcSteps 8 (c ^^^ b.setWidth 32)) 0xFFFFFFFF#32

/-- Bits h down to l of a word, as a number (R4). -/
def bits {w : Nat} (x : BitVec w) (h l : Nat) : Nat := (x.extractLsb' l (h + 1 - l)).toNat

/-- The bytes from o to e − 1 are all 0. -/
def zeroBytes (bs : List Byte) (o e : Nat) : Bool := ((bs.drop o).take (e - o)).all (· == 0#8)

end Sys2Proof.Machine
end

