-- ==== Sys2Proof/Machine/Access.lean ====
section
/-!
DEFINITION. Reading and writing the parts of State: cores, dies, queues, launches, clusters, teams; which lanes of a
team are active (R83); the map of logical cores (R14, R17).
-/

namespace Sys2Proof.Machine

/-- What a step answers. -/
abbrev Out := Host.Outcome State Fault Refusal

/-- A row without an encoding: the state it leads to, or a step that cannot occur here. -/
def ofEvent : Option State → Out
  | some s => .next s
  | none => .fault .eventNotEnabled

/-- A core of the package (R18). -/
def State.core (s : State) (n : Nat) : Core := (aget s.cores n).getD {}

/-- The state with a core changed. -/
def State.putCore (s : State) (n : Nat) (c : Core) : State := { s with cores := aput s.cores n c }

/-- A compute die (R14). -/
def State.die (s : State) (n : Nat) : Die := (aget s.dies n).getD {}

/-- The state with a die changed. -/
def State.putDie (s : State) (n : Nat) (d : Die) : State := { s with dies := aput s.dies n d }

/-- A launch queue (R338). -/
def State.queue (s : State) (n : Nat) : Queue := (aget s.queues n).getD {}

/-- The state with a queue changed. -/
def State.putQueue (s : State) (n : Nat) (q : Queue) : State := { s with queues := aput s.queues n q }

/-- The state with a launch changed. -/
def State.putLaunch (s : State) (n : Nat) (l : Launch) : State := { s with launches := aput s.launches n l }

/-- The state with a cluster changed. -/
def State.putCluster (s : State) (n : Nat) (c : Cluster) : State := { s with clusters := aput s.clusters n c }

/-- The state with a team changed. -/
def State.putTeam (s : State) (n : Nat) (x : Team) : State := { s with teams := aput s.teams n x }

/-- The state with a copy changed. -/
def State.putCopy (s : State) (n : Nat) (c : Copy) : State := { s with copies := aput s.copies n c }

/-- The state with a range changed. -/
def State.putRange (s : State) (n : Nat) (r : Range) : State := { s with ranges := aput s.ranges n r }

/-- The state with a wave changed. -/
def State.putWave (s : State) (n : Nat) (w : Wave) : State := { s with waves := aput s.waves n w }

/-- The state with a graph place changed. -/
def State.putGraph (s : State) (n : Nat) (g : Graph) : State := { s with graphs := aput s.graphs n g }

/-- A graph place (R281). -/
def State.graph (s : State) (n : Nat) : Graph := (aget s.graphs n).getD {}

/-- The die of a core: 64 logical cores a die (R17). -/
def dieOf (core : Nat) : Nat := core / 64

/-- The key of a cluster. -/
def clusterKey (launch index : Nat) : Nat := launch * 16384 + index

/-- The index in the grid of a cluster key. -/
def clusterIndex (key : Nat) : Nat := key % 16384

/-- The launch of a cluster key. -/
def clusterLaunch (key : Nat) : Nat := key / 16384

/-- What a cluster owns on a core. -/
def Cluster.place? (c : Cluster) (core : Nat) : Option Place := c.places.find? (·.core == core)

/-- A cluster with its share of one core changed. -/
def Cluster.putPlace (c : Cluster) (p : Place) : Cluster :=
  { c with places := c.places.map fun q => if q.core == p.core then p else q }

/-- What a cluster owns on a core, by the cluster's key. -/
def State.place? (s : State) (cluster core : Nat) : Option Place :=
  (aget s.clusters cluster).bind (·.place? core)

/-- The state with a cluster's share of a core changed. -/
def State.putPlace (s : State) (cluster : Nat) (p : Place) : State :=
  match aget s.clusters cluster with
  | some c => s.putCluster cluster (c.putPlace p)
  | none => s

/-- The record header of a launch. -/
def State.record? (s : State) (launch : Nat) : Option Record := (aget s.launches launch).map (·.hdr)

/-- The queue of a launch. -/
def State.queueOf (s : State) (launch : Nat) : Nat := ((aget s.launches launch).map (·.queue)).getD 0

/-- The sequence number of a launch in its queue. -/
def State.seqOf (s : State) (launch : Nat) : Nat := ((aget s.launches launch).map (·.seq)).getD 0

/-- The configuration of the queue that carried a launch. -/
def State.cfgOf (s : State) (launch : Nat) : Option QueueCfg := (s.queue (s.queueOf launch)).cfg

/-- The translation root of a launch (R359). -/
def State.rootOf (s : State) (launch : Nat) : BitVec 48 := ((s.cfgOf launch).map (·.root)).getD 0#48

/-- The launch is deterministic (R85, flag bit 0). -/
def State.deterministic (s : State) (launch : Nat) : Bool :=
  ((s.record? launch).map fun r => r.flags.getLsbD 0).getD false

/-- Shared bytes of a launch per cluster per core. -/
def State.sharedOf (s : State) (launch : Nat) : Nat := ((s.record? launch).map (·.shared)).getD 0

/-- A fresh identity. -/
def State.take (s : State) : Nat × State := (s.nextId, { s with nextId := s.nextId + 1 })

/-- A free choice among the n members of a set the spec gives (DESIGN CHOICE, log 3). -/
def State.choose (s : State) (n : Nat) : Nat × State :=
  (if n ≤ 1 then 0 else Config.freeNat s.fresh % n, if n ≤ 1 then s else { s with fresh := s.fresh + 1 })

/-- A cluster's key is known and its state is on its cores. -/
def State.residentCluster (s : State) (key : Nat) : Bool :=
  ((aget s.clusters key).map (·.resident)).getD false

/-- The logical cores of a cluster word's rectangle (R86, R17): position p counts row-major. -/
def rectCore (die x0 y0 width p : Nat) : Nat := 64 * die + 8 * (y0 + p / width) + (x0 + p % width)

/-- Lane l of the team is active (R83). -/
def Team.act (x : Team) (l : Nat) : Bool := decide (l < x.lanes) && x.ctx.mask.getLsbD l

/-- The active lanes, ascending. -/
def Team.active (x : Team) : List Nat := (List.range x.lanes).filter x.ctx.mask.getLsbD

/-- Every lane of the team, ascending (R82: at most 1024). -/
def Team.all (x : Team) : List Nat := List.range (min x.lanes 1024)

/-- MZ (R83): no lane is active. -/
def Team.mz (x : Team) : Bool := x.active.isEmpty

/-- MA (R83): every lane below S is active. -/
def Team.ma (x : Team) : Bool := x.all.all x.ctx.mask.getLsbD

/-- The lowest-numbered active lane. -/
def Team.first (x : Team) : Option Nat := x.active.head?

/-- The mask with every lane below S active. -/
def fullMask (lanes : Nat) : BitVec 1024 := BitVec.ofNat 1024 (2 ^ lanes - 1)

/-- A mask from a test of the lanes below S (R83: no other lane becomes active). -/
def maskOf (lanes : Nat) (p : Nat → Bool) : BitVec 1024 :=
  BitVec.ofNat 1024 (((List.range lanes).filter p).foldl (fun m l => m + 2 ^ l) 0)

/-- Group g of the team has an active lane (R83: bit g of the summary word). -/
def Team.groupOn (x : Team) (g : Nat) : Bool := x.active.any fun l => l / 32 == g

/-- Groups of a team, ⌈S / 32⌉. -/
def Team.groups (x : Team) : Nat := (x.lanes + 31) / 32

end Sys2Proof.Machine
end

