-- ==== Sys2Proof/Machine/Operands.lean ====
section
/-!
DEFINITION. Operand fields: what a field reads and writes (R31, R32, R38), literals (R48), results and the last-result
latches (R34, R35), and the decode-time checks that need the team (R36, R38, R39, R46, R48).
-/

namespace Sys2Proof.Machine

/-- The reset value of a stream register: Done 1, Coordinate all ones (R249). -/
def streamReset : BitVec 128 := 0x8000000000000000FFFFFFFF00000000#128

/-- The reset value of a metadata register (R217). -/
def mdataReset : Nat → Word := fun _ => 0x06880688#32

/-- What an unlisted stream register reads as. -/
def streamDefault : Nat → BitVec 128 := fun _ => streamReset

/-- The field takes a literal (R48). -/
def isLit (f : Field) : Bool := f == 127#7

/-- Literals taken by a list of fields. -/
def litCount (fs : List Field) : Nat := (fs.filter isLit).length

/-- The n-th literal from the next unused one (R48). -/
def Team.literal (x : Team) (n : Nat) : Word := (x.words.drop (x.words.length - x.litN)).getD (x.lits + n) 0#32

/-- Register r of lane l (R82). -/
def Team.reg (x : Team) (r l : Nat) : Word := tget zeros x.regs (r * 1024 + l)

/-- What register o of the span that a field names reads in lane l, when n literals have been taken before it in the same
instruction (R31). -/
def Team.rd (x : Team) (n : Nat) (f : Field) (o l : Nat) : Word :=
  if f.toNat < 112 then x.reg (x.ctx.win + f.toNat + o) l
  else if f.toNat < 120 then tget zeros x.ofile ((f.toNat - 112 + o) * 1024 + l)
  else if f.toNat < 124 then tget zeros x.latch ((f.toNat - 120) * 1024 + l)
  else if f = 124#7 then 0#32
  else if f = 125#7 then BitVec.ofNat 32 l
  else if f = 126#7 then BitVec.ofNat 32 x.tm
  else x.literal n

/-- A field read in the lowest-numbered active lane; 0 when MZ = 1. -/
def Team.rdFirst (x : Team) (n : Nat) (f : Field) (o : Nat := 0) : Word :=
  match x.first with
  | some l => x.rd n f o l
  | none => 0#32

/-- The last capture is not wholly written to image A (R356, R357). -/
def Team.capturing (x : Team) : Bool := x.headQueued || !x.planes.isEmpty

/-- Planes of a team that are written are noted for its next capture (R356). -/
def Team.stain (x : Team) (planes : List Nat) : Team :=
  { x with dirty := x.dirty ++ planes.eraseDups.filter (!x.dirty.contains ·) }

/-- Planes of a register, by the first plane's number and keys register × 1024 + lane (R354). -/
def planesOf (first : Nat) (keys : List Nat) : List Nat := keys.map fun k => 32 * (first + k / 1024) + k % 1024 / 32

/-- The latches' planes (R354): a shift writes each of them in every lane. -/
def Team.latchPlanes (x : Team) : List Nat :=
  (List.range 4).flatMap fun j => (List.range x.groups).map fun g => 32 * (x.regsN + 8 + j) + g

/-- Operand-file words written. -/
def Team.putOfile (x : Team) (cells : List (Nat × Word)) : Team :=
  Team.stain { x with ofile := tsets zeros x.ofile cells } (planesOf x.regsN (cells.map (·.1)))

/-- Lane-register words written; while a matrix operation reads A registers, what was written is kept for it (R230). -/
def Team.putRegs (x : Team) (cells : List (Nat × Word)) : Team :=
  Team.stain { x with regs := tsets zeros x.regs cells, spanLog := if x.spans.isEmpty then x.spanLog else x.spanLog ++ cells }
    (planesOf 0 (cells.map (·.1)))

/-- Writing register o of the span that a field names, in the lanes given (R31). Every other field discards: zr by R31,
the rest fail subcode 2 before. -/
def Team.wr (x : Team) (lanes : List Nat) (f : Field) (o : Nat) (v : Nat → Word) : Team :=
  if f.toNat < 112 then
    x.putRegs (lanes.map fun l => ((x.ctx.win + f.toNat + o) * 1024 + l, v l))
  else if f.toNat < 120 then
    x.putOfile (lanes.map fun l => ((f.toNat - 112 + o) * 1024 + l, v l))
  else x

/-- Writing n consecutive registers. -/
def Team.wrs (x : Team) (lanes : List Nat) (f : Field) (v : Nat → Nat → Word) : Nat → Team
  | 0 => x
  | n + 1 => (x.wrs lanes f v n).wr lanes f n (v n)

/-- Shifting the latches (R35): h0 takes the value given, in every lane of the team. -/
def Team.shift (x : Team) (h : Nat → Word) : Team :=
  Team.stain { x with
    late := x.late.map fun p => { p with depth := p.depth + 1 }
    latch := (x.all.map fun l => (l, h l)).filter (fun c => c.2 != 0#32)
      ++ ((x.latch.filter fun c => decide (c.1 < 3 * 1024)).map fun c => (c.1 + 1024, c.2))
    latchN := min 4 (x.latchN + 1) } x.latchPlanes

/-- A result of n registers written in the lanes given, and the latches shifted with the first (R34, R35): in a lane that
is not written h0 holds the destination's unchanged value, and with zr the computed value or 0. -/
def Team.resultIn (x : Team) (lanes : List Nat) (d : Field) (n : Nat) (v : Nat → Nat → Word) : Team :=
  let y := x.wrs lanes d v n
  y.shift fun l => if d = 124#7 then (if lanes.contains l then v 0 l else 0#32) else y.rd 0 d 0 l

/-- A result of one register in every active lane (R9, R34). -/
def Team.result (x : Team) (d : Field) (v : Nat → Word) : Team := x.resultIn x.active d 1 fun _ => v

/-- A result of n registers in every active lane. -/
def Team.results (x : Team) (d : Field) (n : Nat) (v : Nat → Nat → Word) : Team := x.resultIn x.active d n v

/-- Stream register i of lane l (R249). -/
def Team.stream (x : Team) (i l : Nat) : BitVec 128 := tget streamDefault x.streams (i * 1024 + l)

/-- Writing a stream register in the lanes given. -/
def Team.putStream (x : Team) (lanes : List Nat) (i : Nat) (v : Nat → BitVec 128) : Team :=
  Team.stain { x with streams := tsets streamDefault x.streams (lanes.map fun l => (i * 1024 + l, v l)) }
    (planesOf (x.regsN + 12) (lanes.map (i * 1024 + ·)))

/-- Writing a metadata register in the lanes given (R240). -/
def Team.putMeta (x : Team) (lanes : List Nat) (k : Nat) (v : Nat → Word) : Team :=
  Team.stain { x with mdata := tsets mdataReset x.mdata (lanes.map fun l => (k * 1024 + l, v l)) }
    (planesOf (x.regsN + 20) (lanes.map (k * 1024 + ·)))

/-- Metadata register k of lane l (R217). -/
def Team.mdWord (x : Team) (k l : Nat) : Word := tget mdataReset x.mdata (k * 1024 + l)

/-- Operands that take a literal: source fields of 127 (R48). -/
def literalsOf (i : Instr) : Nat := (i.operands.filter fun o => o.rd && decide (0 < o.span) && isLit o.f).length

/-- A latch that an operand reads has been filled (R36). -/
def latchOk (n : Nat) (o : Opnd) : Bool :=
  !(o.rd && decide (120 ≤ o.f.toNat) && decide (o.f.toNat < 124)) || decide (o.f.toNat - 120 < n)

/-- The window registers an operand names lie in the allocation (R38). -/
def windowOk (win k : Nat) (o : Opnd) : Bool :=
  !(decide (0 < o.span) && decide (o.f.toNat < 112)) || decide (win + o.f.toNat + (o.span - 1) < k)

/-- R39: the base that WINBASE names lies in the allocation. -/
def winbaseOk (k : Nat) : Instr → Bool
  | .winbase b => decide (16 * b.toNat < k)
  | _ => true

/-- Instruction words of the clause: all but the trailing literals (R42). -/
def Team.instrN (x : Team) : Nat := x.words.length - x.litN

/-- The instruction about to execute is the last instruction word of its clause (R46). -/
def Team.atLast (x : Team) : Bool := decide (x.instrN ≤ x.idx + 1)

/-- The decode-time checks of R51 that follow decoding, lowest subcode first: none when every one passes. -/
def Team.decodeCheck (x : Team) (i : Instr) : Option (BitVec 4) :=
  if !i.legal then some 2#4
  else if !i.operands.all (latchOk x.latchN) then some 3#4
  else if x.litN < x.lits + literalsOf i then some 4#4
  else if i.isTransfer && !x.atLast then some 7#4
  else if !(i.operands.all (windowOk x.ctx.win x.regsN) && winbaseOk x.regsN i) then some 11#4
  else none

/-- Register numbers (R93): a lane register by its number, an operand-file entry by 256 more. -/
def Team.regNo (x : Team) (f : Field) (o : Nat) : Option Nat :=
  if f.toNat < 112 then some (x.ctx.win + f.toNat + o)
  else if f.toNat < 120 then some (256 + (f.toNat - 112) + o)
  else none

/-- Registers that an operand names. -/
def Team.regsOf (x : Team) (o : Opnd) : List Nat := (List.range o.span).filterMap (x.regNo o.f)

/-- Operands whose registers the instruction waits for (R93): not the A span of a matrix operation (R230). -/
def waited (i : Instr) : List Opnd := i.operands.filter fun o => decide (o.span < 16)

/-- Registers of the source and of the kept values of SPCMP, by element code (R239). -/
def spcmpSpan (code : Nat) : Option (Nat × Nat) :=
  if code = 1 ∨ code = 2 then some (4, 2)
  else if 3 ≤ code ∧ code ≤ 5 then some (2, 1)
  else if code = 7 then some (1, 1)
  else none

/-- Registers whose number depends on register values, read and written: SPCMP's spans (R239). -/
def Team.moreRegs (x : Team) : Instr → List Nat × List Nat
  | .spcmp d a v =>
    let spans := (x.active.map fun l => ((x.rd 0 v 0 l) &&& 15#32).toNat).eraseDups.filterMap spcmpSpan
    ((spans.flatMap fun p => (List.range p.1).filterMap (x.regNo a)),
     (spans.flatMap fun p => (List.range (p.2 + 1)).filterMap (x.regNo d)))
  | _ => ([], [])

/-- Bytes of a load (R165). -/
def ldSize : LdW → Nat
  | .n8 => 1 | .i8 => 1 | .n16 => 2 | .i16 => 2 | .n32 => 4 | .w64 => 8 | .w128 => 16

/-- Registers that a load writes. -/
def ldRegs (w : LdW) : Nat := (ldSize w + 3) / 4

/-- Word i of the value loaded (R166). -/
def ldWord (w : LdW) (v i : Nat) : Word :=
  match w with
  | .i8 => (BitVec.ofNat 8 v).signExtend 32
  | .i16 => (BitVec.ofNat 16 v).signExtend 32
  | .n8 => BitVec.ofNat 32 v
  | .n16 => BitVec.ofNat 32 v
  | .n32 => BitVec.ofNat 32 v
  | .w64 => BitVec.ofNat 32 (v / 2 ^ (32 * i))
  | .w128 => BitVec.ofNat 32 (v / 2 ^ (32 * i))

/-- Bytes of a store (R165). -/
def stSize : StW → Nat
  | .w8 => 1 | .w16 => 2 | .w32 => 4 | .w64 => 8 | .w128 => 16

/-- Effective address of a lane (R166): n literals stand before the base; the offset is scaled by the access size. -/
def Team.ea (x : Team) (n : Nat) (a : Field) (off : BitVec 7) (size l : Nat) : Nat :=
  (x.rd n a 0 l + off.signExtend 32 * BitVec.ofNat 32 size).toNat

/-- The bytes that the active lanes access. -/
def Team.bytesOf (x : Team) (size : Nat) (ea : Nat → Nat) : List Nat :=
  x.active.flatMap fun l => (List.range size).map fun i => ea l + i

/-- The bytes that a load reads which has not performed yet. -/
def LateLoad.bytes (p : LateLoad) : List Nat := p.lanes.flatMap fun c => (List.range (ldSize p.width)).map fun i => c.2 + i

/-- A load of the team that has not performed yet reads one of these bytes (R168). -/
def Team.lateAt (x : Team) (dest : Dest) (bytes : List Nat) : Bool :=
  x.late.any fun p => p.dest == dest && p.bytes.any bytes.contains

/-- Major of an instruction's word (R26). -/
def majorOf (i : Instr) : Nat := ((encode i).map fun w => bits w 31 25).getD 128

/-- Instructions that work on the team's registers, mask and position alone: the integer and float classes and the plain flow
instructions. -/
def registersOnly (i : Instr) : Bool :=
  match i with
  | .nop => true
  | .bCond _ _ => true
  | .bMask _ _ => true
  | .clauseStart _ _ _ _ _ _ => false
  | _ => decide (0x05 ≤ majorOf i) && decide (majorOf i ≤ 0x06) || decide (0x10 ≤ majorOf i) && decide (majorOf i ≤ 0x32)

/-- An instruction that may be issued while loads of the team have not performed yet (R168, R169): one that reads none of their results, writes
none of their registers, and accesses no memory, or stores to other bytes, or is a load, which performs behind them. (DESIGN CHOICE, log 6.) -/
def Team.overtakes (x : Team) (i : Instr) : Bool :=
  !(i.operands.any fun o => o.rd && decide (120 ≤ o.f.toNat) && decide (o.f.toNat < 124))
    && !(((i.operands.filter (·.wr)).flatMap x.regsOf).any fun r => x.pendRegs.any (·.reg == r))
    && (match i with
      | .stSh w d a off =>
        !x.lateAt (.sh x.cluster x.core) (x.bytesOf (stSize w) (x.ea (litCount [d]) a off (stSize w)))
      | .ldSh _ _ _ _ => true
      | .ldSp _ _ _ _ => true
      | .stSp w d a off => !x.lateAt (.sp (dieOf x.core)) (x.bytesOf (stSize w) (x.ea (litCount [d]) a off (stSize w)))
      | i => registersOnly i)

/-- A register that the instruction reads still has to be written by an outstanding operation (R93), or loads that must perform
before it have not (R168); MXFENCE waits for every one of them (R233). -/
def Team.pending (x : Team) (i : Instr) : Bool :=
  (i == .mxfence && !x.pendRegs.isEmpty)
    || (((waited i).filter (·.rd)).flatMap x.regsOf ++ (x.moreRegs i).1).any (fun r => x.pendRegs.any (·.reg == r))
    || (!x.late.isEmpty && !x.overtakes i)

/-- A load that does not perform yet: its destination is still to be written, its latch entry still to be filled (R35, R93, R168).
(DESIGN CHOICE, log 6.) -/
def Team.defer (x : Team) (id : Nat) (dest : Dest) (w : LdW) (d : Field) (ea : Nat → Nat) : Team :=
  let regs := (List.range (ldRegs w)).filterMap (x.regNo d)
  let y := x.shift fun l => if d = 124#7 ∨ x.active.contains l then 0#32 else x.rd 0 d 0 l
  { y with
    pendRegs := y.pendRegs ++ regs.map fun r => ⟨r, .load id⟩
    late := y.late ++ [{ id := id, dest := dest, width := w, reg := x.regNo d 0, lanes := x.active.map fun l => (l, ea l) }] }

/-- The result of a load that performs late, from the value of each lane: its registers and its latch entry (R34, R35, R166). -/
def Team.arrived (x : Team) (p : LateLoad) (v : Nat → Nat) : Team :=
  let word := fun i l => ldWord p.width (v l) i
  let cells := fun (base : Nat) => (List.range (ldRegs p.width)).flatMap fun i => p.lanes.map fun c => ((base + i) * 1024 + c.1, word i c.1)
  let x := match p.reg with
    | none => x
    | some r =>
      if r < 256 then x.putRegs (cells r) else x.putOfile (cells (r - 256))
  { x with
    latch := if 4 ≤ p.depth then x.latch else tsets zeros x.latch (p.lanes.map fun c => (p.depth * 1024 + c.1, word 0 c.1))
    pendRegs := x.pendRegs.filter (·.ref != .load p.id)
    late := x.late.filter (·.id != p.id) }

/-- Lanes in which an instruction writes its registers (R83, R103, R105). (DEDUCED, log 22.) -/
def Team.writeLanes (x : Team) : Instr → List Nat
  | .call _ => x.all
  | .callr _ _ => x.all
  | .mpush _ _ => x.all
  | _ => x.active

/-- What may still be on its way once an instruction has waited for the registers that it reads (R93, R230): not these registers, nor
what the instruction writes. (DEDUCED, log 22.) -/
def Team.returned (x : Team) (i : Instr) : List (List (Nat × Word)) :=
  let reads := ((waited i).filter (·.rd)).flatMap x.regsOf ++ (x.moreRegs i).1
  let writes := (i.operands.filter (·.wr)).flatMap x.regsOf ++ (x.moreRegs i).2
  let lanes := x.writeLanes i
  (x.inFlight.map fun ld => ld.filter fun c =>
    !(reads.contains (c.1 / 1024) || (writes.contains (c.1 / 1024) && lanes.contains (c.1 % 1024)))).filter (!·.isEmpty)

end Sys2Proof.Machine
end

