-- ==== Sys2Proof/Machine/Flags.lean ====
section
/-!
DEFINITION. The condition code: what each producer sets (R104, R109, R137, R185, R324) and what a branch tests (R54).
-/

namespace Sys2Proof.Machine

/-- Signed overflow of a − b (R104). -/
def subOverflows (a b : Word) : Bool := a.toInt - b.toInt != (a - b).toInt

/-- The condition code that CMPU leaves (R104). -/
def cmpFlags (t : CmpT) (a b : Word) : CondCode :=
  match t with
  | .i32 => { z := a - b == 0#32, n := (a - b).msb, c := decide (b.toNat ≤ a.toNat), v := subOverflows a b }
  | .n32 => { z := a - b == 0#32, n := decide (a.toNat < b.toNat), c := decide (b.toNat ≤ a.toNat), v := false }
  | .f32 => match (FFmt.f32.decode a.toNat).compare (FFmt.f32.decode b.toNat) with
    | some .eq => { z := true, n := false, c := true, v := false }
    | some .lt => { z := false, n := true, c := false, v := false }
    | some .gt => { z := false, n := false, c := true, v := false }
    | none => { z := false, n := false, c := false, v := true }

/-- When a branch of b is taken (R54). -/
def condHolds (f : CondCode) : Cond → Bool
  | .al => true
  | .eq => f.z
  | .ne => !f.z
  | .hs => f.c
  | .lo => !f.c
  | .mi => f.n
  | .pl => !f.n
  | .vs => f.v
  | .vc => !f.v
  | .hi => f.c && !f.z
  | .ls => !f.c || f.z
  | .ge => f.n == f.v
  | .lt => f.n != f.v
  | .gt => !f.z && f.n == f.v
  | .le => f.z || f.n != f.v

/-- When a branch of bm is taken (R54). -/
def maskHolds (x : Team) : MCond → Bool
  | .mz => x.mz
  | .nmz => !x.mz
  | .ma => x.ma
  | .nma => !x.ma

/-- Setting Z alone (R137, R185, R324). -/
def Team.setZ (x : Team) (z : Bool) : Team := { x with ctx := { x.ctx with cc := { x.ctx.cc with z := z } } }

/-- Setting C alone (R109). -/
def Team.setC (x : Team) (c : Bool) : Team := { x with ctx := { x.ctx with cc := { x.ctx.cc with c := c } } }

end Sys2Proof.Machine
end

