-- ==== Sys2Proof/Machine/Translate.lean ====
section
/-!
DEFINITION. Translation of device virtual addresses, cached translations, and the fault buffers that hold fills waiting
for the host's answer. Rules: R50, R163, R359 to R364, R341 (event kind 3).
-/

namespace Sys2Proof.Machine

/-- The access a translation is asked for. -/
inductive Access
  | read | write | fetch
  deriving DecidableEq, Repr

/-- What a translation gives: a cached or walked page, or a fault's kind (R361). -/
inductive Xlate
  | ok (e : TlbEntry)
  | fault (kind : Nat)
  deriving DecidableEq, Repr

/-- Bytes of a translation page (R359, level 3). -/
def pageBytes : Nat := 65536

/-- A physical address (48 bits) names memory that exists (R360): bits 47:40 zero, stack 0 to 11. -/
def physOk (pa : Nat) : Bool := decide (pa < 2 ^ 40) && decide (pa / 2 ^ 36 % 16 < 12)

/-- A byte of main memory. An unlisted byte reads 0 (DESIGN CHOICE, log 2). -/
def State.memByte (s : State) (pa : Nat) : Byte := tget zeros s.mem pa

/-- A table entry, 8 bytes at a physical address (R360). -/
def State.tableEntry (s : State) (pa : Nat) : BitVec 64 := BitVec.ofNat 64 (leNat (bytesAt s.memByte pa 8))

/-- Index and index width of a level (R359). -/
def levelIndex (va : Nat) : Nat → Nat
  | 0 => va / 2 ^ 39 % 2 ^ 13
  | 1 => va / 2 ^ 30 % 2 ^ 9
  | 2 => va / 2 ^ 21 % 2 ^ 9
  | _ => va / 2 ^ 16 % 2 ^ 5

/-- Bytes that a leaf of a level maps (R359). -/
def leafBytes : Nat → Nat
  | 0 => 2 ^ 39
  | 1 => 2 ^ 30
  | 2 => 2 ^ 21
  | _ => 2 ^ 16

/-- The reserved bits of a table entry are 0 (R360). -/
def entryReserved (e : BitVec 64) : Bool := bits e 50 48 == 0 && bits e 7 6 == 0

/-- A translation permits an access (R361 kind 2). -/
def TlbEntry.permits (e : TlbEntry) : Access → Bool
  | .read => e.r
  | .write => e.w
  | .fetch => e.x

/-- A key index can be used: not 0, and loaded (R361 kind 3, R362). (DEDUCED, log 39.) -/
def State.keyLoaded (s : State) (key : Nat) : Bool := key != 0 && (aget s.keys key).isSome

/-- A leaf checked for an access: where it fails several checks the lowest kind is reported (R361, DEDUCED, log 10). -/
def State.leaf (s : State) (a : Access) (bad : Bool) (e : TlbEntry) : Xlate :=
  if !e.permits a then .fault 2
  else if !s.keyLoaded e.key then .fault 3
  else if bad then .fault 4
  else .ok e

/-- The walk from a level down; fuel is the number of levels left (R359, R360). (DEDUCED, log 10.) -/
def State.walk (s : State) (root : BitVec 48) (va : Nat) (a : Access) : Nat → Nat → Nat → Xlate
  | 0, _, _ => .fault 4
  | fuel + 1, level, table =>
    let at_ := table + 8 * levelIndex va level
    if !physOk at_ then .fault 4 else
    let e := s.tableEntry at_
    if !e.getLsbD 0 then .fault 1 else
    let base := bits e 47 8 * 256
    let bad := !entryReserved e || !physOk base
    if level == 3 || (e.getLsbD 4 && level != 0) then
      s.leaf a (bad || base % leafBytes level != 0)
        { root := root, page := va / pageBytes,
          frame := (base + va % leafBytes level) / pageBytes,
          r := e.getLsbD 1, w := e.getLsbD 2, x := e.getLsbD 3, c := e.getLsbD 5, key := bits e 63 51 }
    else if bad || e.getLsbD 4 then .fault 4
    else s.walk root va a fuel (level + 1) base

/-- The cached translation of a page that permits an access (R363). (DEDUCED, log 10.) -/
def State.cached (s : State) (root : BitVec 48) (page : Nat) (a : Access) : Option TlbEntry :=
  s.tlb.find? fun e => e.root == root && e.page == page && e.permits a

/-- Translation of a virtual address for an access (R359 to R362). A cached translation that permits the access is used
until it is dropped; otherwise the tables are walked (DEDUCED, log 10). An address above bit 51 is illegal (DEDUCED, log 10). -/
def State.xlate (s : State) (root : BitVec 48) (va : Nat) (a : Access) : Xlate :=
  if 2 ^ 52 ≤ va then .fault 4 else
  match s.cached root (va / pageBytes) a with
  | some e => s.leaf a false e
  | none => s.walk root va a 4 0 root.toNat

/-- The physical address a translation gives. -/
def TlbEntry.pa (e : TlbEntry) (va : Nat) : Nat := e.frame * pageBytes + va % pageBytes

/-- The physical address of a virtual address, when its translation succeeds. -/
def State.pa? (s : State) (root : BitVec 48) (va : Nat) (a : Access) : Option Nat :=
  match s.xlate root va a with
  | .ok e => some (e.pa va)
  | .fault _ => none

/-- Pages that n bytes at va touch: for each, an address of the range that lies in it. -/
def touched (va n : Nat) : List Nat :=
  if n = 0 then [] else
  (List.range ((va + n - 1) / pageBytes + 1 - va / pageBytes)).map fun i =>
    if i = 0 then va else (va / pageBytes + i) * pageBytes

/-- The first translation fault that n bytes at va meet: its kind and address. -/
def State.faultIn (s : State) (root : BitVec 48) (va n : Nat) (a : Access) : Option (Nat × Nat) :=
  (touched va n).findSome? fun v =>
    match s.xlate root v a with
    | .ok _ => none
    | .fault k => some (k, v)

/-- Caching the translation that an access to an address used (R363). -/
def State.cache1 (s : State) (root : BitVec 48) (a : Access) (va : Nat) : State :=
  match s.cached root (va / pageBytes) a, s.xlate root va a with
  | none, .ok e => { s with tlb := e :: s.tlb.filter fun o => !(o.root == root && o.page == e.page) }
  | _, _ => s

/-- Caching the translations that an access to n bytes used. (DEDUCED, log 10.) -/
def State.cache (s : State) (root : BitVec 48) (va n : Nat) (a : Access) : State :=
  (touched va n).foldl (fun s v => s.cache1 root a v) s

/-- The key in a slot (R362). -/
def State.keyVal (s : State) (slot : Nat) : BitVec 512 := (aget s.keys slot).getD 0#512

/-- A byte of main memory as an access under a key reads it (R362): the plaintext where the unit is stored under that key, else what the
key makes of it. (DEDUCED, log 39.) -/
def State.plainByte (s : State) (key : BitVec 512) (pa : Nat) : Byte :=
  match aget s.sealed (pa / 128) with
  | none => s.memByte pa
  | some k =>
    if k = key then s.memByte pa
    else Config.recrypt k key (pa / 128) (bytesAt s.memByte (pa / 128 * 128) 128) (pa % 128)

/-- A unit's plaintext under a key does not match its check value (R364): the check value stands for the bytes as they were stored. (DESIGN CHOICE, log 42.) -/
def State.keyMismatch (s : State) (key : BitVec 512) (unit : Nat) : Bool :=
  match aget s.sealed unit with
  | none => false
  | some k => k != key
      && crc32c (bytesAt (s.plainByte key) (128 * unit) 128) != crc32c (bytesAt s.memByte (128 * unit) 128)

/-- A byte of a virtual address space; 0 where its translation fails (callers ask faultIn first). -/
def State.vaByte (s : State) (root : BitVec 48) (a : Access) (va : Nat) : Byte :=
  match s.xlate root va a with
  | .ok e => s.plainByte (s.keyVal e.key) (e.pa va)
  | .fault _ => 0#8

/-- n bytes of a virtual address space. -/
def State.vaBytes (s : State) (root : BitVec 48) (a : Access) (va n : Nat) : List Byte :=
  bytesAt (s.vaByte root a) va n

/-- Blocks of 4 KiB that physical cells lie in become plain (R204: a copy that writes part of a block leaves it plain). -/
def State.plainForms (s : State) (cells : List Host.Cell) : State :=
  { s with forms := s.forms.filter fun f => !cells.any fun c => c.1 / 4096 == f.1 }

/-- A word of a space and die that a reduction has written lies in cells. (DEDUCED, log 10.) -/
def SumNote.hit (n : SumNote) (space die : Nat) (cells : List Host.Cell) : Bool :=
  n.space == space && n.die == die && cells.any fun c => decide (n.addr ≤ c.1) && decide (c.1 < n.addr + 4)

/-- Writing main-memory cells: new check values go with them (R364), so a block wholly written has no error. -/
def State.writePhys (s : State) (cells : List Host.Cell) : State :=
  { s.plainForms cells with
    mem := tsets zeros s.mem cells
    sums := s.sums.filter fun n => !n.hit 0 0 cells
    errors := s.errors.filter fun e => match e with
      | .main b => !(List.range 128).all fun i => cells.any fun c => c.1 == 128 * b + i
      | .column w => !(List.range 32).all fun i => cells.any fun c => c.1 == 32 * w + i
      | _ => true }

/-- Writing main-memory cells under a key (R362): the units they lie in are stored under it, what stood there as the key reads it. (DEDUCED, log 39.) -/
def State.writeUnder (s : State) (key : BitVec 512) (cells : List Host.Cell) : State :=
  let units := (cells.map (·.1 / 128)).eraseDups
  let other := units.filter fun u => (aget s.sealed u).any (· != key)
  let kept := other.flatMap fun u => cellsAt (128 * u) (bytesAt (s.plainByte key) (128 * u) 128)
  { s.writePhys (kept ++ cells) with sealed := units.foldl (fun t u => aput t u key) s.sealed }

/-- Writing cells of a virtual address space, each under the key of its page; one whose translation fails is not written. -/
def State.writeCells (s : State) (root : BitVec 48) (cells : List Host.Cell) : State :=
  let placed := cells.filterMap fun c => match s.xlate root c.1 .write with
    | .ok e => some (e.key, e.pa c.1, c.2)
    | .fault _ => none
  ((placed.map (·.1)).eraseDups).foldl (fun t k =>
    t.writeUnder (s.keyVal k) ((placed.filter (·.1 == k)).map fun q => (q.2.1, q.2.2))) s

/-- Writing bytes at a virtual address whose translations have been seen to succeed. -/
def State.writeVa (s : State) (root : BitVec 48) (va : Nat) (bs : List Byte) : State := s.writeCells root (cellsAt va bs)

/-- A check-value mismatch lies in the 128-byte blocks of n physical bytes at pa (R364). (DESIGN CHOICE, log 42.) -/
def State.badMain (s : State) (pa n : Nat) : Bool :=
  s.errors.any fun e => match e with
    | .main b => decide (pa / 128 ≤ b) && decide (b ≤ (pa + (n - 1)) / 128)
    | _ => false

/-- A check-value mismatch lies in the blocks of n bytes of a virtual address space. -/
def State.badVa (s : State) (root : BitVec 48) (a : Access) (va n : Nat) : Bool :=
  (List.range n).any fun i => match s.xlate root (va + i) a with
    | .ok e => s.badMain (e.pa (va + i)) 1 || s.keyMismatch (s.keyVal e.key) (e.pa (va + i) / 128)
    | .fault _ => false

/-- A page of a launch's code region (R50): the pages that hold bytes codeBase to codeBase + codeLen − 1. -/
def Record.isCode (r : Record) (va : Nat) : Bool :=
  decide (r.codeBase.toNat / pageBytes ≤ va / pageBytes)
    && decide (va / pageBytes ≤ (r.codeBase.toNat + (r.codeLen - 1)) / pageBytes)

/-- An address lies in the code region of a launch that has not ended and whose address space is root: writing it is a
write-protection fault, unrepairable at once (R50, R361). -/
def State.codePage (s : State) (root : BitVec 48) (va : Nat) : Bool :=
  s.launches.any fun l => l.2.phase != .ended && s.rootOf l.1 == root && l.2.hdr.isCode va

/-- Where an event of a kind and queue goes (R341): the kinds of a queue to its host event destination, device-wide ones to the
management destination. -/
def State.eventTo (s : State) (kind queue : Nat) : EventDest :=
  if 4 ≤ kind ∧ kind ≤ 7 then .management
  else match (s.queue queue).cfg with
    | some cfg => .queue cfg.eventDest
    | none => .management

/-- Sending an event to the host (R341). The cycle count is a free value (DESIGN CHOICE, log 5). -/
def State.sendEvent (s : State) (kind queue seq : Nat) (code : Word) (addr : Nat) : State :=
  { s with events := s.events ++ [⟨s.eventTo kind queue, kind, queue, seq, code, BitVec.ofNat 64 addr,
             BitVec.ofNat 64 (Config.freeCycles s.fresh)⟩], fresh := s.fresh + 1 }

/-- The 32 bytes of an event's message (R341). -/
def HostEvent.bytes (e : HostEvent) : List Byte :=
  leBytes 2 e.kind ++ leBytes 2 e.queue ++ leBytes 4 e.seq ++ leBytes 4 e.code.toNat ++ leBytes 4 0
    ++ leBytes 8 e.addr.toNat ++ leBytes 8 e.cycle.toNat

/-- Placing a fill in a die's fault buffer, or behind it when all 256 entries are taken (R163). -/
def Die.addFill (d : Die) (f : Fill) : Die :=
  if d.faults.length < Config.faultEntries then { d with faults := d.faults ++ [f] }
  else { d with waiting := d.waiting ++ [f] }

/-- A fill meets a translation fault: it waits in the die's buffer, and the host gets one event for each page that awaits
an answer (R361), for a queue and a sequence number. -/
def State.raiseFaultIn (s : State) (die : Nat) (root : BitVec 48) (queue seq : Nat) (who : FillWho) (kind va : Nat) : State :=
  let page := va / pageBytes
  let s := s.putDie die ((s.die die).addFill ⟨who, root, page, kind, va⟩)
  if s.asked.contains (root, page) then s
  else { s with asked := s.asked ++ [(root, page)] }.sendEvent 3 queue seq (BitVec.ofNat 32 kind) va

/-- A fill of a launch meets a translation fault. -/
def State.raiseFault (s : State) (die launch : Nat) (who : FillWho) (kind va : Nat) : State :=
  s.raiseFaultIn die (s.rootOf launch) (s.queueOf launch) (s.seqOf launch) who kind va

/-- Free entries of a fault buffer go to the waiting fills in the order of their faults (R163). -/
def Die.refill (d : Die) : Die :=
  let n := Config.faultEntries - d.faults.length
  { d with faults := d.faults ++ d.waiting.take n, waiting := d.waiting.drop n }

/-- Dropping every fill that a test names, from all dies (R361: an answered page; a launch that ends). -/
def State.dropFills (s : State) (p : Fill → Bool) : State :=
  { s with dies := s.dies.map fun d =>
      (d.1, ({ d.2 with faults := d.2.faults.filter (!p ·), waiting := d.2.waiting.filter (!p ·) } : Die).refill) }

/-- Dropping cached translations of an address space: n pages from an address, or all when n is 0 (R363). -/
def State.dropTlb (s : State) (root : BitVec 48) (va n : Nat) : State :=
  { s with tlb := s.tlb.filter fun e =>
      !(e.root == root && (n == 0 || (decide (va / pageBytes ≤ e.page) && decide (e.page < va / pageBytes + n)))) }

end Sys2Proof.Machine
end

