-- ==== Sys2Proof/Machine/Space.lean ====
section
/-!
DEFINITION. The spaces .sh and .sp: publications, snapshots and unpublished bytes (R170 to R177), registered ranges and
their watermarks (R179, R180, R195 to R199), lock bits (R161, R185), counters (R208).
-/

namespace Sys2Proof.Machine

/-- The value of a byte after a list of publications, newest first. Before any, a scratchpad byte reads 0 (DESIGN CHOICE, log 2). -/
def pubByte : List Pub → Nat → Byte
  | [], _ => 0#8
  | p :: r, a => match p.cells.find? (·.1 == a) with
    | some c => c.2
    | none => pubByte r a

/-- The publications up to a point of the order, newest first. -/
def Die.upTo (d : Die) (n : Nat) : List Pub := d.pubs.drop (d.pubs.length - n)

/-- The publications after a point of the order, newest first. -/
def Die.after (d : Die) (n : Nat) : List Pub := d.pubs.take (d.pubs.length - n)

/-- A range contains an address. -/
def Range.holds (r : Range) (a : Nat) : Bool := decide (r.start ≤ a) && decide (a < r.start + r.len)

/-- The watermark has passed an address (R196). -/
def Range.passed (r : Range) (a : Nat) : Bool := decide (a < r.start + r.mark)

/-- Registered ranges of a destination that contain a byte, oldest first (R195). -/
def State.rangesAt (s : State) (dest : Dest) (a : Nat) : List (Nat × Range) :=
  s.ranges.filter fun r => r.2.unit != .unregistered && r.2.dest == dest && r.2.holds a

/-- What a load of a byte meets (R179, R197). -/
inductive Landing
  | clear
  /-- A watermark has not passed the byte. -/
  | wait
  /-- The most recently registered range is frozen below or at the byte. -/
  | fault (range : Nat)
  deriving DecidableEq, Repr

/-- R197 for a byte. -/
def State.landingLoad (s : State) (dest : Dest) (a : Nat) : Landing :=
  let rs := s.rangesAt dest a
  match rs.getLast? with
  | none => .clear
  | some (id, r) =>
    if r.failed && !r.passed a then .fault id
    else if rs.any fun q => !q.2.failed && !q.2.passed a then .wait
    else .clear

/-- R180 for a byte: a store, atomic or STUL may perform. -/
def State.landingStore (s : State) (dest : Dest) (a : Nat) : Bool :=
  (s.rangesAt dest a).all fun q => q.2.failed || q.2.passed a

/-- The landed value of a byte in the most recently registered range that has passed it and wrote it (R197), with that range. -/
def State.landed (s : State) (dest : Dest) (a : Nat) : Option (Nat × Range × Byte) :=
  (s.rangesAt dest a).reverse.findSome? fun q =>
    if q.2.passed a then (q.2.data.find? (·.1 == a)).map fun c => (q.1, q.2, c.2) else none

/-- The latest value of an .sp byte (R183): a landing in progress that has passed the byte counts, unless a later
publication wrote the byte. (DEDUCED, log 11.) (DEDUCED, log 54.) -/
def State.spLatest (s : State) (die a : Nat) : Byte :=
  match s.landed (.sp die) a with
  | some (_, r, v) => if r.place.isNone && !r.rewritten.contains a then v else pubByte (s.die die).pubs a
  | none => pubByte (s.die die).pubs a

/-- An own publication of a core later than its snapshot that holds the byte (R171, rule 3). -/
def ownPub (d : Die) (core snap a : Nat) : Option Byte :=
  (d.after snap).findSome? fun p =>
    if p.core == some core then (p.cells.find? (·.1 == a)).map (·.2) else none

/-- Rules 2 to 4 of R171. -/
def State.spPlain (s : State) (core a : Nat) : Byte :=
  let c := s.core core
  let d := s.die (dieOf core)
  match c.unpub.find? (·.addr == a) with
  | some u => u.seen
  | none => (ownPub d core c.snap a).getD (pubByte (d.upTo c.snap) a)

/-- The byte that a publication holds from a store made after a moment (R180). -/
def Pub.storedAfter (p : Pub) (since a : Nat) : Option Byte :=
  if p.times.any fun c => c.1 == a && decide (since < c.2) then (p.cells.find? (·.1 == a)).map (·.2) else none

/-- The value of a store made to a byte after the registration of its range, where a core's loads see it (R180): in its
unpublished bytes, in a publication of its own, or in its snapshot. since: the number of the range. -/
def State.storedValue (s : State) (core since a : Nat) : Option Byte :=
  let c := s.core core
  let d := s.die (dieOf core)
  match c.unpub.find? fun u => u.addr == a && decide (since < u.time) with
  | some u => some u.seen
  | none => ((d.after c.snap).filter (·.core == some core) ++ d.upTo c.snap).findSome? fun p => p.storedAfter since a

/-- The two values that R180 gives a byte of .sp: the landed one, and that of a store since. -/
def State.spPair (s : State) (core a : Nat) : Option (Byte × Byte) :=
  match s.landed (.sp (dieOf core)) a with
  | some (id, _, v) => (s.storedValue core id a).map fun u => (v, u)
  | none => none

/-- A byte that R180 gives two values to. -/
def State.contended (s : State) (core a : Nat) : Bool := (s.spPair core a).isSome

/-- A plain load of an .sp byte by a core (R171, R179, R180), for a byte that no landing holds back. pick decides between
the two values of R180. -/
def State.spByte (s : State) (core : Nat) (pick : Bool) (a : Nat) : Byte :=
  match s.landed (.sp (dieOf core)) a with
  | some (id, _, v) => if pick then (s.storedValue core id a).getD v else v
  | none => s.spPlain core a

/-- Landed .sp bytes that a publication writes: the landing's own publication leaves them out. (DEDUCED, log 11.) -/
def Range.overwrite (r : Range) (cells : List Host.Cell) : Range :=
  { r with rewritten := r.rewritten ++ (cells.map (·.1)).filter r.passed }

/-- A publication takes its place at the end of a die's order (R170); a block wholly written has a new check value (R364). An atomic's bytes stay as it wrote them when a
landing in progress that has passed them completes (DEDUCED, log 11). -/
def State.publish (s : State) (die : Nat) (p : Pub) : State :=
  let d := s.die die
  let s := { s.putDie die { d with pubs := p :: d.pubs } with
    sums := s.sums.filter fun n => !n.hit 3 die p.cells
    errors := s.errors.filter fun e => match e with
      | .sp k b => !(k == die && (List.range 128).all fun i => p.cells.any fun c => c.1 == 128 * b + i)
      | _ => true }
  if p.kind != .atomic then s else
  { s with ranges := s.ranges.map fun r =>
      if r.2.dest == .sp die && r.2.place.isNone then (r.1, r.2.overwrite p.cells) else r }

/-- Unpublished bytes with one stored by a team: the core's list keeps addresses ascending (R170). -/
def uput (a : Nat) (v : Byte) (t time : Nat) : List UByte → List UByte
  | [] => [⟨a, v, v, t, time⟩]
  | u :: r =>
    if a < u.addr then ⟨a, v, v, t, time⟩ :: u :: r
    else if a = u.addr then ⟨a, v, v, t, time⟩ :: r
    else u :: uput a v t time r

/-- Plain stores of a team to .sp cells: unpublished bytes of the team (R170). -/
def State.spHold (s : State) (core t : Nat) (cells : List Host.Cell) : State :=
  let c := s.core core
  s.putCore core { c with unpub := cells.foldl (fun u x => uput x.1 x.2 t s.nextId u) c.unpub }

/-- The unpublished bytes of a team. -/
def Core.mine (c : Core) (t : Nat) : List UByte := c.unpub.filter (·.team == t)

/-- 64-byte lines of a list of addresses (R175). -/
def linesOf (as : List Nat) : List Nat := (as.map (· / 64)).eraseDups

/-- Lines a core's unpublished bytes cover once more addresses are stored to (R175). -/
def Core.linesWith (c : Core) (as : List Nat) : Nat := (linesOf (c.unpub.map (·.addr) ++ as)).length

/-- The team's unpublished bytes are published as one batch (R173, R174); with none, nothing is published. -/
def State.publishTeam (s : State) (core t : Nat) : State :=
  let c := s.core core
  let mine := c.mine t
  if mine.isEmpty then s else
  (s.putCore core { c with unpub := c.unpub.filter (·.team != t) }).publish (dieOf core)
    { kind := .batch, core := some core, team := some t, cells := mine.map fun u => (u.addr, u.val), times := mine.map fun u => (u.addr, u.time) }

/-- The team's unpublished bytes are dropped: its launch is aborted (R345, DEDUCED, log 11). -/
def State.dropUnpub (s : State) (core t : Nat) : State :=
  let c := s.core core
  s.putCore core { c with unpub := c.unpub.filter (·.team != t) }

/-- A counted core (R176): at least one resident team. -/
def State.counted (s : State) (core : Nat) : Bool := !(s.core core).age.isEmpty

/-- The least snapshot of the counted cores of a die; with none, the newest point. -/
def State.leastSnap (s : State) (die : Nat) : Nat :=
  ((List.range 64).filter fun i => s.counted (64 * die + i)).foldl
    (fun m i => min m (s.core (64 * die + i)).snap) (s.die die).pubs.length

/-- DUSK batches later than the snapshot of some counted core (R176). (DEDUCED, log 52.) -/
def State.unseen (s : State) (die : Nat) : List Pub :=
  ((s.die die).after (s.leastSnap die)).filter (·.kind == .batch)

/-- The DUSK stall (R176): a line of the batch is in a batch that a counted core has not seen, or the shadow pool lacks
room for the previous versions. (DEDUCED, log 52.) -/
def State.duskStalls (s : State) (core t : Nat) : Bool :=
  let lines := linesOf (((s.core core).mine t).map (·.addr))
  let old := (s.unseen (dieOf core)).map fun p => linesOf (p.cells.map (·.1))
  lines.any (fun l => old.any (·.contains l))
    || (!lines.isEmpty && decide (Config.shadowLines < (old.map (·.length)).sum + lines.length))

/-- The core's snapshot becomes the newest point of its die's order (R173 dawn.die, R177), and its stream buffer lets go of
main memory (R251). -/
def State.dawn (s : State) (core : Nat) : State :=
  s.putCore core { s.core core with snap := (s.die (dieOf core)).pubs.length, segs := [] }

/-- A core's own view of bytes that an atomic, STUL or reduction wrote over ones unpublished at a moment: of the two writes the
later in program order (R184). (DEDUCED, log 11.) -/
def Core.note (c : Core) (time : Nat) (cells : List Host.Cell) : Core :=
  { c with unpub := c.unpub.map fun u =>
      if u.time ≤ time then match cells.find? (·.1 == u.addr) with
        | some x => { u with seen := x.2 }
        | none => u
      else u }

/-- An atomic publication of bytes made for a core (R170, R183): own says whether the core counts as its publisher, which
an engine's add or a reduction is not (R171); time is its moment in the core's program order. -/
def State.publishAtomic (s : State) (die : Nat) (core : Option Nat) (own : Bool) (time : Nat) (cells : List Host.Cell) : State :=
  let s := match core with
    | some c => if dieOf c = die then s.putCore c ((s.core c).note time cells) else s
    | none => s
  s.publish die { kind := .atomic, core := if own then core else none, cells := cells, times := cells.map fun c => (c.1, s.nextId) }

/-- The lock bit of a 32-bit word (R161): slice × 256 + bank × 8 + L. -/
def lockOf (a : Nat) : Nat :=
  let k := a / 256 % 2 ^ 19
  let l := (k ^^^ (k / 2 ^ 3) ^^^ (k / 2 ^ 6) ^^^ (k / 2 ^ 9) ^^^ (k / 2 ^ 12) ^^^ (k / 2 ^ 15) ^^^ (k / 2 ^ 18)) % 8
  k % 24 * 256 + a / 8 % 32 * 8 + (l ^^^ (a / 4 % 2 * 4))

/-- The team that holds a lock bit. -/
def Die.holder (d : Die) (lock : Nat) : Option Nat := (d.locks.find? (·.1 == lock)).map (·.2)

/-- A byte of a cluster's shared memory on a core (R159). -/
def Place.shByte (p : Place) (a : Nat) : Byte := tget zeros p.sh a

/-- A byte of shared memory, by cluster and core; 0 where the cluster is gone. -/
def State.shByte (s : State) (cluster core a : Nat) : Byte :=
  ((s.place? cluster core).map (·.shByte a)).getD 0#8

/-- The latest value of a byte of shared memory: a landing in progress that has passed the byte counts, unless a store or an atomic has
written it since; State.shByte holds the order of the core, in which a landing stands from its last byte on (R199, R200). (DEDUCED, log 11.) (DEDUCED, log 54.) -/
def State.shLatest (s : State) (cluster core a : Nat) : Byte :=
  match s.landed (.sh cluster core) a with
  | some (_, r, v) => if r.place.isNone && !r.rewritten.contains a then v else s.shByte cluster core a
  | none => s.shByte cluster core a

/-- A byte of shared memory to which R180 gives two values: what landed there, and what a store has put in its place. -/
def State.shContended (s : State) (cluster core a : Nat) : Bool :=
  match s.landed (.sh cluster core) a with
  | some (_, r, v) => r.rewritten.contains a && v != s.shByte cluster core a
  | none => false

/-- A plain load of a byte of shared memory (R168, R179, R180). pick decides between the two values of R180. -/
def State.shLoad (s : State) (cluster core : Nat) (pick : Bool) (a : Nat) : Byte :=
  match s.landed (.sh cluster core) a with
  | some (_, r, v) => if pick && r.rewritten.contains a then s.shByte cluster core a else v
  | none => s.shByte cluster core a

/-- Which of the two values of R180 each contended byte of a load returns, and the state after these choices. (DESIGN CHOICE, log 3.) -/
def State.contentions (s : State) (two : Nat → Bool) (bytes : List Nat) : (Nat → Nat → Bool) × State :=
  if bytes.any two then
    (fun l i => Config.freeNat (s.fresh + 16 * l + i) % 2 == 1, { s with fresh := s.fresh + 16384 })
  else (fun _ _ => true, s)

/-- Writing shared-memory bytes; a word wholly written has no storage error any more (R365). -/
def State.shWrite (s : State) (cluster core : Nat) (cells : List Host.Cell) : State :=
  match s.place? cluster core with
  | none => s
  | some p =>
    { s.putPlace cluster { p with sh := tsets zeros p.sh cells } with
      errors := s.errors.filter fun e => match e with
        | .sh k c w => !(k == cluster && c == core && (List.range 4).all fun i => cells.any fun x => x.1 == 4 * w + i)
        | _ => true }

/-- A store or an atomic of a team, or a unit's write of its own, to shared memory (R168, R208, R299): it stays as it is written when a landing that has
passed its bytes completes (DEDUCED, log 11). -/
def State.shStore (s : State) (cluster core : Nat) (cells : List Host.Cell) : State :=
  let s := s.shWrite cluster core cells
  { s with ranges := s.ranges.map fun r => if r.2.dest == .sh cluster core then (r.1, r.2.overwrite cells) else r }

/-- An uncorrectable error lies in n bytes of shared memory (R365). -/
def State.shBad (s : State) (cluster core a n : Nat) : Bool :=
  s.errors.any fun e => match e with
    | .sh k c w => k == cluster && c == core && decide (a / 4 ≤ w) && decide (w ≤ (a + (n - 1)) / 4)
    | _ => false

/-- A check mismatch lies in the blocks of n scratchpad bytes (R364). -/
def State.spBad (s : State) (die a n : Nat) : Bool :=
  s.errors.any fun e => match e with
    | .sp d b => d == die && decide (a / 128 ≤ b) && decide (b ≤ (a + (n - 1)) / 128)
    | _ => false

/-- A counter's location from a reference (R208), for a core of a cluster; none for a reference that fails. -/
def State.counterLoc (s : State) (launch cluster core : Nat) (ref : Word) : Option CounterLoc :=
  let off := ref.toNat % 2 ^ 30
  let code := ref.toNat / 2 ^ 30
  if code = 3 then some .none
  else if off % 8 ≠ 0 then none
  else if code = 0 then (if off + 8 ≤ Config.scratchBytes then some (.sp (dieOf core) off) else none)
  else if code = 1 then (if off + 8 ≤ s.sharedOf launch then some (.sh cluster core off) else none)
  else none

/-- The latest value of a counter (R208, R210). -/
def State.counter (s : State) : CounterLoc → Nat
  | .none => 0
  | .sp d a => leNat (bytesAt (s.spLatest d) a 8)
  | .sh k c a => leNat (bytesAt (s.shLatest k c) a 8)

/-- The storage error that reading a counter meets (R365): its subcode and the address. -/
def State.counterBad (s : State) : CounterLoc → Option (Nat × Nat)
  | .none => none
  | .sp d a => if s.spBad d a 8 then some (3, a) else none
  | .sh k c a => if s.shBad k c a 8 then some (2, a) else none

/-- Adding to a counter modulo 2^64, as an atomic publication (R208). -/
def State.counterAdd (s : State) (loc : CounterLoc) (n : Nat) : State :=
  let bs := leBytes 8 (s.counter loc + n)
  match loc with
  | .none => s
  | .sp d a => s.publishAtomic d none false s.nextId (cellsAt a bs)
  | .sh k c a => s.shStore k c (cellsAt a bs)

end Sys2Proof.Machine
end

