-- ==== Sys2Proof/Machine/Release.lean ====
section
/-!
DEFINITION. Letting go of what teams, clusters and launches hold: barrier references (R211 to R214), locks (R186), stack
lines (R163), matrix ownership (R220), the end of a launch (R101, R215, R282, R339) and its abort (R345).
-/

namespace Sys2Proof.Machine

/-- The fields of a barrier handle (R211). -/
def barPeer (h : Word) : Nat := bits h 31 16
def barGen (h : Word) : Nat := bits h 15 12
def barDie (h : Word) : Nat := bits h 11 10
def barIndex (h : Word) : Nat := bits h 9 0

/-- The barrier of this module that a handle names; none when the handle is stale or names a peer (R212). -/
def State.barrier? (s : State) (h : Word) : Option Barrier :=
  if barPeer h ≠ 0 then none else
  match aget (s.die (barDie h)).barriers (barIndex h) with
  | some b => if b.live && b.gen == barGen h then some b else none
  | none => none

/-- The state with the barrier of a handle changed. -/
def State.putBarrier (s : State) (h : Word) (b : Barrier) : State :=
  let d := s.die (barDie h)
  s.putDie (barDie h) { d with barriers := aput d.barriers (barIndex h) b }

/-- A phase completes when its arrivals and bytes are there, or, once the error bit is set, as it begins (R212). (DEDUCED, log 29.) -/
def Barrier.settle (b : Barrier) : Barrier :=
  if (decide (b.need ≤ b.arrived) && b.pending == 0) || (b.err.isSome && decide (0 < b.arrived)) then
    { b with phase := b.phase + 1#32, arrived := 0, pending := 0 }
  else b

/-- The error bit is set: the current phase completes in error, and every later one (R212). (DEDUCED, log 29.) -/
def Barrier.fail (b : Barrier) : Barrier :=
  if b.err.isSome then b
  else { b with err := some b.phase, phase := b.phase + 1#32, arrived := 0, pending := 0 }

/-- A copy's bytes leave the pending count at its completion; a failed copy sets the error bit (R212, R214). (DEDUCED, log 29.) -/
def Barrier.copyDone (b : Barrier) (bytes : Nat) (failed : Bool) : Barrier :=
  let b := { b with pending := b.pending - bytes }
  if failed then b.fail else b.settle

/-- Telling a peer's barrier what an instruction does. -/
def State.tellBarrier (s : State) (h : Word) (op : Nat) (v : Word) : State :=
  { s with replies := s.replies ++ [.barrierToPeer h op v] }

/-- One reference fewer; at none the entry is freed and its generation increases (R214). A peer is told. -/
def State.dropRef (s : State) (h : Word) : State :=
  if barPeer h ≠ 0 then s.tellBarrier h 2 0#32 else
  match s.barrier? h with
  | none => s
  | some b =>
    if b.refs ≤ 1 then s.putBarrier h { gen := (b.gen + 1) % 16 }
    else s.putBarrier h { b with refs := b.refs - 1 }

/-- Writing a dirty line back to main memory (R163). (DESIGN CHOICE, log 13.) -/
def State.writeLine (s : State) (l : StackLine) : State :=
  if l.dirty then s.writeUnder l.key ((List.range 128).map fun i => (l.pa + i, tget zeros l.data i)) else s

/-- The oldest line that is not needed is evicted while the cache holds more than n lines (R18, R163; DESIGN CHOICE, log 13); fuel
bounds the count. -/
def State.evict (s : State) (core t n : Nat) (needed : List Nat) : Nat → State
  | 0 => s
  | fuel + 1 =>
    let c := s.core core
    if c.stack.length ≤ n then s else
    match c.stack.find? fun l => !(l.team == t && needed.contains l.line) with
    | none => s
    | some l =>
      State.evict ((s.putCore core { c with stack := c.stack.filter fun m => !(m.team == l.team && m.line == l.line) }).writeLine l)
        core t n needed fuel

/-- After an access that needed more lines than the cache has, the cache holds its 512 lines again (R18). (DESIGN CHOICE, log 13.) -/
def State.trimStack (s : State) (core : Nat) : State := s.evict core 0 Config.stackLines [] (s.core core).stack.length

/-- Dirty lines of a team's stack go to main memory (R163). -/
def State.flushStack (s : State) (core t : Nat) : State :=
  ((s.core core).stack.filter fun l => l.team == t && l.dirty).foldl State.writeLine s

/-- The lock bits of a die that a team holds are released (R186). -/
def State.dropLocks (s : State) (die t : Nat) : State :=
  let d := s.die die
  s.putDie die { d with locks := d.locks.filter (·.2 != t) }

/-- A team leaves its core: age order, rotation, stack lines, locks, barrier references, fills (R101, R186, R214). -/
def State.removeTeam (s : State) (t : Nat) : State :=
  match aget s.teams t with
  | none => s
  | some x =>
    let c := s.core x.core
    let s := s.putCore x.core { c with
      age := c.age.filter (· != t), rotation := c.rotation.filter (· != t),
      current := if c.current == some t then none else c.current,
      issued := if c.current == some t then 0 else c.issued,
      stack := c.stack.filter (·.team != t) }
    let s := s.dropLocks (dieOf x.core) t
    let s := x.barRefs.foldl (fun s h => s.dropRef h) s
    let s := s.dropFills fun f => f.who == .team t || f.who == .image t
    { s with teams := adel s.teams t }

/-- The matrix state as a new owner finds it (R220). -/
def Core.clearMatrix (c : Core) (saved : Option SavedMatrix) : Core :=
  match saved with
  | none => { c with acc := [], rowMax := [], rowSum := [], bst := [], queue := [], arriving := [], blog := [] }
  | some m => { c with acc := m.acc, rowMax := m.rowMax, rowSum := m.rowSum, bst := m.bst, queue := [], arriving := [], blog := [] }

/-- The owner of a core's matrix state (R220): the launch that owns it while a cluster of it is resident, else the launch of the oldest
resident cluster. (DEDUCED, log 55.) -/
def Core.nextOwner (c : Core) : Option Nat :=
  if c.residents.any fun k => c.owner == some (clusterLaunch k) then c.owner else c.residents.head?.map clusterLaunch

/-- Ownership of a core's matrix state passes when its owner has no cluster left there (R220); a restored launch finds what its
pre-emption saved (R221). (DEDUCED, log 55.) -/
def State.reown (s : State) (core : Nat) : State :=
  let c := s.core core
  let o := c.nextOwner
  if o == c.owner then s else
  match o with
  | none => s.putCore core { c with owner := none }
  | some l =>
    let saved := (aget s.launches l).bind fun x => x.saved.find? (·.core == core)
    let s := s.putCore core { c.clearMatrix saved with owner := some l }
    match aget s.launches l with
    | some x => s.putLaunch l { x with saved := x.saved.filter (·.core != core) }
    | none => s

/-- A cluster joins the resident clusters of its cores (R220). -/
def State.joinCores (s : State) (key : Nat) (c : Cluster) : State :=
  c.places.foldl (fun s p =>
    (s.putCore p.core { s.core p.core with residents := (s.core p.core).residents ++ [key] }).reown p.core) s

/-- A cluster leaves the resident clusters of its cores (R220). -/
def State.leaveCores (s : State) (key : Nat) (c : Cluster) : State :=
  c.places.foldl (fun s p =>
    (s.putCore p.core { s.core p.core with residents := (s.core p.core).residents.filter (· != key) }).reown p.core) s

/-- A team, or items for one, of a cluster are still there (R101, R329, R333). -/
def State.clusterBusy (s : State) (key : Nat) : Bool :=
  s.teams.any (fun t => t.2.cluster == key)
    || s.cores.any fun c => c.2.spawnQ.any (·.cluster == key) || c.2.children.any (·.any (·.cluster == key))

/-- Messages of a queue's launches whose clusters are not resident move from the cores' incoming queues to the queue's spill ring, as many as it
has room for (R329). (DEDUCED, log 18.) -/
def State.spillOut (s : State) (queue : Nat) : State :=
  let q := s.queue queue
  let out := (s.cores.flatMap fun c => c.2.incoming.filter fun m => s.queueOf m.launch == queue && !s.residentCluster m.cluster).take
    (Config.spillMessages - q.spill.length)
  if out.isEmpty then s else
  let s := out.foldl (fun s m => s.putCore m.core { s.core m.core with incoming := (s.core m.core).incoming.erase m }) s
  s.putQueue queue { q with spill := q.spill ++ out }

/-- A cluster's shared memory and rings are released once its last team has halted (R101). -/
def State.releaseCluster (s : State) (key : Nat) : State :=
  match aget s.clusters key with
  | none => s
  | some c => if s.clusterBusy key then s else
    (State.leaveCores { s with clusters := adel s.clusters key } key c).spillOut (s.queueOf c.launch)

/-- A copy or walk has not ended. -/
def Copy.open (c : Copy) : Bool := c.phase == .held || c.phase == .landing

/-- Work of a launch that must end before its completion event (R215, R282). -/
def State.launchWork (s : State) (l : Nat) : Bool :=
  s.copies.any (fun c => c.2.launch == l && c.2.open) || s.waves.any (fun w => w.2.launch == l)

/-- Every graph that a launch left bound is unbound (R282, R345). -/
def State.unbindGraphs (s : State) (l : Nat) : State :=
  { s with graphs := s.graphs.map fun g =>
      if g.2.live && g.2.launch == l then (g.1, { gen := (g.2.gen + 1) % 256 }) else g }

/-- The launch counts as ended, and its event goes to the host (R339, R341, R345); messages of peers that wait for it are answered with an
error (R330). (DEDUCED, log 33.) -/
def State.endLaunch (s : State) (l : Nat) (code addr : Word) : State :=
  match aget s.launches l with
  | none => s
  | some x =>
    let q := s.queue x.queue
    let waiting := (s.cores.flatMap (·.2.incoming) ++ q.spill).filter fun m => m.launch == l && m.remote
    let s := { s with replies := s.replies ++ waiting.map fun _ => Reply.error "launch ended" }
    let s := s.putQueue x.queue { q with ended := (q.ended + 1) % 2 ^ 56, spill := q.spill.filter (·.launch != l) }
    let s := s.putLaunch l { x with phase := .ended, saved := [], turns := [] }
    let s := { s with cores := s.cores.map fun (c : Nat × Core) => (c.1, { c.2 with incoming := c.2.incoming.filter (·.launch != l) }) }
    (s.spillOut x.queue).sendEvent 1 x.queue x.seq code addr.toNat

/-- A launch that is ending ends once its work has ended (R101, R215, R282). -/
def State.finishLaunch (s : State) (l : Nat) : State :=
  match aget s.launches l with
  | none => s
  | some x => match x.phase with
    | .ending code addr => if s.launchWork l then s else (s.unbindGraphs l).endLaunch l code addr
    | _ => s

/-- Failures of a launch's landings that nothing has read count as read (R199, R278). -/
def State.ackAll (s : State) (l : Nat) : State :=
  { s with ranges := s.ranges.map fun r =>
      let mine : Bool := match r.2.owner with
        | .copy c k => ((aget s.copies (c * 1024 + k)).map (·.launch)) == some l
        | .wave p => ((aget s.waves p).map (·.launch)) == some l
      if mine then (r.1, { r.2 with acked := true }) else r }

/-- After a team has ended: the cluster is released with its last team, and the launch ends with its last cluster
(R101, R199). -/
def State.afterTeam (s : State) (launch cluster : Nat) : State :=
  let s := s.releaseCluster cluster
  match aget s.launches launch with
  | none => s
  | some x =>
    if x.phase == .running && decide (x.hdr.clusters ≤ x.next)
        && !s.clusters.any (fun c => c.2.launch == launch) then
      ((s.ackAll launch).putLaunch launch { x with phase := .ending 0#32 0#32 }).finishLaunch launch
    else s

/-- The ranges of an owner leave: landed .sp bytes stay, as a publication (R345). -/
def State.cancelRanges (s : State) (p : RangeOwner → Bool) : State :=
  let gone := s.ranges.filter fun r => p r.2.owner
  let s := gone.foldl (fun s r => match r.2.dest with
    | .sp d =>
      let cells := r.2.data.filter fun c => !r.2.rewritten.contains c.1
      if r.2.place.isSome || cells.isEmpty then s else s.publish d { kind := .landing, core := none, cells := cells }
    | _ => s) s
  State.dropFills { s with ranges := s.ranges.filter fun r => !p r.2.owner } fun f => match f.who with
    | .range id => gone.any (·.1 == id)
    | _ => false

/-- A launch is aborted by a trap that no handler takes, or by a device loss (R345, R358): its teams stop, its copies,
walks and waves are cancelled without a counter add, its graphs are unbound, and the host gets the event. Unpublished
bytes and dirty stack lines of its teams are dropped (DEDUCED, log 11). -/
def State.abortLaunch (s : State) (l : Nat) (code addr : Word) : State :=
  let mine := s.teams.filter (·.2.launch == l)
  let s := mine.foldl (fun s t => (s.dropUnpub t.2.core t.1).removeTeam t.1) s
  let cancelled := s.copies.filter (·.2.launch == l)
  let s := s.cancelRanges fun o => match o with
    | .copy c k => cancelled.any (·.1 == c * 1024 + k)
    | .wave p => ((aget s.waves p).map (·.launch)) == some l
  let s := { s with
    copies := s.copies.filter (·.2.launch != l)
    waves := s.waves.filter (·.2.launch != l)
    cores := s.cores.map fun (c : Nat × Core) => (c.1, { c.2 with
      spawnQ := c.2.spawnQ.filter (·.launch != l)
      children := c.2.children.filter fun g => !g.any (·.launch == l)
      queue := if c.2.owner == some l then [] else c.2.queue
      arriving := if c.2.owner == some l then [] else c.2.arriving }) }
  let cls := s.clusters.filter (·.2.launch == l)
  let s := cls.foldl (fun (s : State) c => State.leaveCores { s with clusters := adel s.clusters c.1 } c.1 c.2) s
  let s := s.dropFills fun f => match f.who with
    | .wave p => !(aget s.waves p).isSome
    | .save m => m == l
    | _ => false
  (s.unbindGraphs l).endLaunch l code addr

end Sys2Proof.Machine
end

