-- ==== Sys2Proof/Machine/Ops.lean ====
section
/-!
DEFINITION. Executing one instruction of a team: the checks before it, what retiring it does, waiting, taking a trap and
returning from one, publishing before an instruction takes effect. Rules: R35, R42 to R51, R82, R90, R91, R93, R94, R100,
R101, R113, R173, R322, R343 to R348, R356, R365, R417.
-/

namespace Sys2Proof.Machine

/-- What the instruction at its place does. -/
inductive Act
  /-- It retires, and the team goes on with the next word, or with the next clause's header. -/
  | next (s : State)
  /-- It retires, and the team goes on at a clause header (R28, R103). -/
  | goto (off : BitVec 52) (s : State)
  /-- It retires and its body has set the position, or has ended the team. -/
  | done (s : State)
  /-- It is not retired: the team is parked and leaves the issue slot (R93, R94). -/
  | wait (p : Park) (s : State)
  /-- It raises a trap (R343). -/
  | trap (r : Report)
  deriving DecidableEq, Repr

/-- Byte offset from the code base of the word about to execute; of the header before the clause has started. -/
def Team.pcOff (x : Team) : BitVec 52 :=
  if x.started then x.clause + BitVec.ofNat 52 (4 * (x.idx + 1)) else x.clause

/-- The word about to execute. -/
def Team.word (x : Team) : Word := x.words.getD x.idx 0#32

/-- Byte offset of the word that follows the current clause (R45). -/
def Team.nextClause (x : Team) : BitVec 52 := x.clause + BitVec.ofNat 52 (4 * (x.words.length + 1))

/-- The virtual address of a code offset, modulo 2^52 (R28, R85). -/
def State.codeVa (s : State) (launch : Nat) (off : BitVec 52) : Nat :=
  (((s.record? launch).map fun r => r.codeBase.setWidth 52 + off).getD off).toNat

/-- The word at a code offset, as a clause fetch reads it. -/
def State.codeWord (s : State) (launch : Nat) (off : BitVec 52) : Word :=
  leWord (s.vaBytes (s.rootOf launch) .fetch (s.codeVa launch off) 4)

/-- The first translation fault that fetching the whole clause at an offset meets: its kind and address (R49, R417). -/
def State.clauseFault (s : State) (launch : Nat) (off : BitVec 52) : Option (Nat × Nat) :=
  let va := s.codeVa launch off
  let root := s.rootOf launch
  match s.faultIn root va 4 .fetch with
  | some f => some f
  | none =>
    let w := s.codeWord launch off
    if isHeader w then s.faultIn root va (4 * (bits w 7 4 + 2)) .fetch else none

/-- Leaving the current team: it moves to the tail of the age order and another becomes current (R94). A team that is not current
is not left. -/
def State.leave (s : State) (core t : Nat) : State :=
  let c := s.core core
  if c.current != some t then s else
  s.putCore core { c with age := c.age.filter (· != t) ++ [t], current := none, issued := 0 }

/-- The head of a rotation moves to its end (R97). (DEDUCED, log 36.) -/
def State.rotate (s : State) (n : Nat) : State :=
  let c := s.core n
  s.putCore n { c with rotation := c.rotation.drop 1 ++ c.rotation.take 1 }

/-- A step of a team that has no issue slot of its own comes at the team's turn, where its core runs a rotation (R97). -/
def State.itsRotation (s : State) (core t : Nat) : Bool :=
  match (s.core core).rotation with
  | [] => true
  | u :: _ => u == t

/-- Where such a step leaves the team ready to go on, the next team's turn comes (R97). -/
def State.turnTaken (s : State) (core t : Nat) : State :=
  if (aget s.teams t).any (·.park.isNone) && (s.core core).rotation.head? == some t then s.rotate core else s

/-- One issued instruction of the current team; after 64 it is left (R94). An instruction issued beside the current one counts
toward its own team's 64, behind which that team goes to the tail as one that is left (R96; DESIGN CHOICE, log 6). -/
def State.countIssue (s : State) (core t : Nat) : State :=
  let c := s.core core
  if c.current != some t then
    (match aget c.paired t with
      | some n =>
        if 64 ≤ n + 1 then s.putCore core { c with age := c.age.filter (· != t) ++ [t], paired := adel c.paired t }
        else s.putCore core { c with paired := aput c.paired t (n + 1) }
      | none => s)
  else if 64 ≤ c.issued + 1 then s.leave core t
  else s.putCore core { c with issued := c.issued + 1 }

/-- Parking a team with its instruction not retired; it leaves the slot (R93, R94). -/
def State.park (s : State) (t : Nat) (p : Park) : State :=
  match aget s.teams t with
  | none => s
  | some x => (s.putTeam t { x with park := some p }).leave x.core t

/-- A team's fill meets a translation fault: it parks until the host has answered (R163). -/
def State.parkFault (s : State) (t : Nat) (x : Team) (p : Park) (kind va : Nat) : State :=
  (s.raiseFault (dieOf x.core) x.launch (.team t) kind va).park t p

/-- The host has answered unrepairable for the page of an address, for this team's replay (R361). -/
def Team.deniedAt (x : Team) (va : Nat) : Bool := x.denied.contains (va / pageBytes)

/-- The trap registers that a trap writes (R343, R350): the vector and the in-handler bit stay. (DEDUCED, log 12.) -/
def Team.trapRegs (x : Team) (r : Report) : TrapState :=
  { x.trap with
    cause := (0#16 ++ r.cause ++ 0#4 ++ r.sub), pc := x.pcOff.setWidth 32, word := r.word, lane := r.lane,
    info0 := r.info0, info1 := r.info1, info2 := r.info2, info3 := r.info3,
    regPc := x.regionPc, regCnt := x.regionN }

/-- The team's oldest load that has not performed performs: it reads what its bytes hold now (R166, R168). (DESIGN CHOICE, log 6.) -/
def State.performLoad (s : State) (t : Nat) : State :=
  match aget s.teams t with
  | none => s
  | some x => match x.late with
    | [] => s
    | p :: _ =>
      let ea := fun l => (aget p.lanes l).getD 0
      let read := fun (c : (Nat → Nat → Bool) × State) (byte : Bool → Nat → Byte) =>
        c.2.putTeam t (x.arrived p fun l => leNat ((List.range (ldSize p.width)).map fun i => byte (c.1 l i) (ea l + i)))
      match p.dest with
      | .sh k n => read (s.contentions (s.shContended k n) p.bytes) (s.shLoad k n)
      | _ => read (s.contentions (s.contended x.core) p.bytes) (s.spByte x.core)

/-- Every load of a team that has not performed performs, in program order (R168, R343, R353). -/
def State.performLoads (s : State) (t : Nat) : State :=
  ((aget s.teams t).map fun x => x.late.foldl (fun s _ => s.performLoad t) s).getD s

/-- Entry into the handler (R344): the trap registers, the trap shadow, every lane active, the handler's header next, a
fresh clause with empty latches. -/
def Team.enterHandler (x : Team) (r : Report) : Team :=
  Team.stain { x with
    trap := { x.trapRegs r with
      inTrap := true, shadow := x.ctx, regionCtx := x.regionCtx, latch := x.latch, latchN := x.latchN, lits := x.lits,
      idx := x.idx, clause := x.clause, words := x.words, litN := x.litN, setA := x.setA, setB := x.setB,
      longs := x.longs, started := x.started }
    ctx := { x.ctx with mask := fullMask x.lanes }
    clause := x.trap.vec.setWidth 52, started := false, words := [], litN := 0, idx := 0, lits := 0,
    latch := [], latchN := 0, park := none, denied := [], todo := {} }
    ((List.range 4).flatMap fun j => (List.range x.groups).map fun g => 32 * (x.regsN + 36 + j) + g)

/-- Taking a trap, its loads performed (R343 to R345): by the team's handler when it has one, is not in it and the word there is a
clause header; otherwise the launch ends. A fetch of that word that faults parks the team with the trap pending; resumed: the
host has answered for it. -/
def State.enterTrap (s : State) (t : Nat) (r : Report) (resumed : Bool) : State :=
  match aget s.teams t with
  | none => s
  | some x =>
    let abort := s.abortLaunch x.launch (0#16 ++ r.cause ++ 0#4 ++ r.sub) (x.pcOff.setWidth 32)
    if x.trap.vec == 0#32 || x.trap.inTrap then abort else
    let off := x.trap.vec.setWidth 52
    match s.clauseFault x.launch off with
    | some (k, va) =>
      if resumed && x.deniedAt va then abort
      else (s.putTeam t { x with denied := [] }).parkFault t x (.vector r) k va
    | none =>
      if isHeader (s.codeWord x.launch off) then (s.putTeam t (x.enterHandler r)).countIssue x.core t
      else abort

/-- Taking a trap (R343 to R345). The team's loads that have not performed perform first (R343: the trap is precise). -/
def State.takeTrap (s : State) (t : Nat) (r : Report) : State := (s.performLoads t).enterTrap t r false

/-- Return from the handler (R348): the in-handler bit is cleared; 0 re-enters the region at its header, 1 repeats the
trapping instruction, 2 goes on behind it. A literal that the trapping instruction names counts as not taken (DEDUCED, log 12). (DEDUCED, log 27.) -/
def Team.trapReturn (x : Team) (m : Nat) : Team :=
  let tr := x.trap
  let y := { x with trap := { tr with inTrap := false } }
  if m = 0 then
    { y with
      ctx := tr.regionCtx, clause := tr.regPc.setWidth 52, started := false, words := [], litN := 0, idx := 0, lits := 0,
      latch := [], latchN := 0 }
  else
    let y := Team.stain { y with
      ctx := tr.shadow, latch := tr.latch, latchN := tr.latchN, lits := tr.lits, clause := tr.clause, words := tr.words,
      litN := tr.litN, setA := tr.setA, setB := tr.setB, longs := tr.longs, started := tr.started, idx := tr.idx }
      x.latchPlanes
    if m = 1 then y
    else if !tr.started then { y with clause := tr.clause + 4#52 }
    else if y.atLast then
      { y with clause := y.nextClause, started := false, words := [], litN := 0, idx := 0, lits := 0,
               latch := [], latchN := 0 }
    else { y with idx := tr.idx + 1 }

/-- The position behind a retired instruction: the next word, or a clause header not yet started. -/
def Team.move (x : Team) (dest : Option (BitVec 52)) : Team :=
  match dest with
  | none => { x with idx := x.idx + 1 }
  | some off => { x with clause := off, started := false, words := [], litN := 0, idx := 0, lits := 0,
                         latch := [], latchN := 0, late := x.late.map fun p => { p with depth := 4 } }

/-- What retiring counts: the retired count (R113), the literals taken (R48); a denied page is forgotten. -/
def Team.retire (x : Team) (lits : Nat) : Team :=
  { x with retired := x.retired + 1#64, lits := x.lits + lits, denied := [] }

/-- A retired instruction of a team: its counts, its new position, its issue slot. -/
def State.retire (s : State) (t lits : Nat) (dest : Option (BitVec 52)) : State :=
  match aget s.teams t with
  | none => s
  | some x => (s.putTeam t ((x.retire lits).move dest)).countIssue x.core t

/-- A trap of a cause and subcode that names nothing else. -/
def Report.plain (cause : Nat) (sub : Nat) : Report := { cause := BitVec.ofNat 8 cause, sub := BitVec.ofNat 4 sub }

/-- The storage error of a counter that an instruction reads for a lane (R365). (DEDUCED, log 50.) -/
def counterFault (lane : Nat) (e : Nat × Nat) : Report :=
  { cause := 19#8, sub := BitVec.ofNat 4 e.1, lane := BitVec.ofNat 32 lane, info0 := BitVec.ofNat 32 e.2 }

/-- An illegal-instruction trap (R51). -/
def Report.illegal (sub : BitVec 4) : Report := { cause := 1#8, sub := sub }

/-- The local-memory fault of an access of n bytes at an address of a space of a size (R160, R164): spaces 0 .sh, 1 .sp,
2 .st. -/
def localFault (space limit lane a n : Nat) : Option Report :=
  let r := fun (sub : BitVec 4) => ({ cause := 3#8, sub := sub, lane := BitVec.ofNat 32 lane, info0 := BitVec.ofNat 32 space, info1 := BitVec.ofNat 32 a } : Report)
  if a % n ≠ 0 then some (r 1#4) else if limit < a + n then some (r 2#4) else none

/-- The system trap of a clause fetch that the host answers unrepairable (R417). (DEDUCED, log 30.) -/
def Report.fetch (off : BitVec 52) : Report := { cause := 17#8, sub := 6#4, info0 := off.setWidth 32 }

/-- Retiring with control at a clause header: the clause is fetched first, and a fault leaves the instruction not retired
(R417); a trap of that fetch ends the need for more stack lines than the cache has (R18). A transfer is checked for its header (R47).
s: the state before the instruction; s': after its effect. (DESIGN CHOICE, log 13.) -/
def State.retireTo (s s' : State) (t lits : Nat) (x : Team) (w : Word) (off : BitVec 52) (check : Bool) : State :=
  match s'.clauseFault x.launch off with
  | some (k, va) =>
    if x.deniedAt va then (s.takeTrap t { Report.fetch off with word := w }).trimStack x.core else s.parkFault t x .fetch k va
  | none =>
    if check && !isHeader (s'.codeWord x.launch off) then s.takeTrap t { Report.illegal 9#4 with word := w }
    else (s'.cache (s'.rootOf x.launch) (s'.codeVa x.launch off) 4 .fetch).retire t lits (some off)

/-- The state that what an instruction does leads to. -/
def State.settle (s : State) (t lits : Nat) (x : Team) (a : Act) : State :=
  match a with
  | .next s' => if x.atLast then s.retireTo s' t lits x x.word x.nextClause false else s'.retire t lits none
  | .goto off s' => s.retireTo s' t lits x x.word off true
  | .done s' => s'
  | .wait p s' => s'.park t p
  | .trap r => s.takeTrap t { r with word := x.word }

/-- What a class needs of a role (R90): 0 any role, 1 copy, 2 matrix. -/
def classRole : Instr → Nat
  | .cstage _ _ => 1 | .cstageArg _ _ _ => 1 | .cwait _ _ => 1 | .cread _ _ => 1 | .wmread _ _ => 1 | .cstat _ _ => 1
  | .balloc _ _ _ => 1 | .bref _ => 1 | .bfree _ => 1 | .barrive _ _ => 1 | .bexpect _ _ => 1 | .bwait _ _ _ => 1
  | .gbind _ _ => 1 | .gunbind _ => 1 | .mark _ _ => 1 | .clear _ _ => 1 | .prop _ _ => 1 | .propf _ _ => 1
  | .waveq _ _ => 1 | .collect _ _ => 1 | .collectg _ _ => 1 | .ncount _ _ => 1
  | .embed _ _ => 1 | .descend _ _ => 1 | .sideapp _ _ _ => 1 | .sidepub _ => 1 | .scatred _ _ _ => 1
  | .amsend _ _ => 1
  | .mmq _ _ _ => 2 | .mmqs _ _ _ _ => 2 | .mmc _ _ _ => 2 | .mxfence => 2 | .mxzero _ _ => 2 | .mxread _ _ _ => 2
  | .mxwrite _ _ _ => 2 | .mxsmax _ _ _ => 2 | .mxrescale _ _ => 2 | .mxsum _ _ => 2 | .spcmp _ _ _ => 2
  | .mdload _ _ => 2 | .mdread _ _ => 2
  | _ => 0

/-- The role owns the instruction's class (R90, R91): general owns every class. -/
def roleOwns (role : Nat) (i : Instr) : Bool := classRole i == 0 || role == 0 || role == classRole i

/-- Lanes whose registers the instruction reads: every lane for the mask instructions (R105), lane 0 for the transfers
and the yields (R103, R107), else the active ones. -/
def Team.readLanes (x : Team) : Instr → List Nat
  | .mpush _ _ => x.all | .melse _ _ => x.all | .mpop _ => x.all
  | .ret _ => [0] | .callr _ _ => [0] | .br _ => [0] | .yieldF _ _ => [0] | .yieldC _ _ _ => [0]
  | _ => x.active

/-- Storage of a register operand, as StorageErr numbers it. (DESIGN CHOICE, log 42.) -/
def Team.storageNo (x : Team) (o : Opnd) : List Nat :=
  if !o.rd then [] else
  if 120 ≤ o.f.toNat ∧ o.f.toNat < 124 then [264 + (o.f.toNat - 120)] else x.regsOf o

/-- Metadata registers that MMQS reads for a lane (R227): by the element format in the lowest active lane of its quarter. -/
def Team.metaCount (x : Team) (v : Field) (l : Nat) : Nat :=
  let c := bits (x.rd 0 v 1 ((x.active.find? fun k => k / 8 == l / 8).getD l)) 3 0
  if c ≤ 2 then 4 else if c ≤ 6 then 8 else 16

/-- Stream and metadata registers that an instruction reads in a lane, as StorageErr numbers them (R365). -/
def Team.numberedReads (x : Team) (l : Nat) : Instr → List Nat
  | .snext s => [268 + s.toNat] | .sskip s _ => [268 + s.toNat]
  | .sisect _ a b => [268 + a.toNat, 268 + b.toNat] | .sunion _ a b => [268 + a.toNat, 268 + b.toNat]
  | .scrd _ s => [268 + s.toNat] | .spos _ s => [268 + s.toNat]
  | .mmqs j _ _ v => (List.range (x.metaCount v l)).map fun i => 276 + (j.toNat + i) % 16
  | .mdread _ k => [276 + k.toNat]
  | _ => []

/-- An uncorrectable error in a register that the instruction reads: storage error, subcode 1 (R365). (DESIGN CHOICE, log 42.) -/
def State.regError (s : State) (t : Nat) (x : Team) (i : Instr) : Option Report :=
  if s.errors.isEmpty then none else
  let nos := i.operands.flatMap x.storageNo ++ (x.moreRegs i).1
  (x.readLanes i).findSome? fun l =>
    ((nos ++ x.numberedReads l i).find? fun n => s.errors.contains (.reg t n l)).map fun n =>
      { cause := 19#8, sub := 1#4, lane := BitVec.ofNat 32 l, info0 := BitVec.ofNat 32 n }

/-- Stream and metadata registers that an instruction writes, as planes behind the lane registers (R354). -/
def numberedWrites : Instr → List Nat
  | .sopen s _ _ => [12 + s.toNat] | .snext s => [12 + s.toNat] | .sskip s _ => [12 + s.toNat]
  | .sisect _ a b => [12 + a.toNat, 12 + b.toNat] | .sunion _ a b => [12 + a.toNat, 12 + b.toNat]
  | .mdload k _ => [20 + k.toNat]
  | _ => []

/-- An instruction that produces a result, and so shifts the latches (R34, R35): one with a destination, but for those whose registers
are written later. (DEDUCED, log 46.) -/
def shiftsLatches : Instr → Bool
  | .bwait _ _ _ => false
  | .mxsmax _ _ _ => false
  | .mxsum _ _ => false
  | .spcmp _ _ _ => true
  | i => i.operands.any (·.wr)

/-- The instruction writes its registers in every lane of the team (R103). -/
def allLanes : Instr → Bool
  | .call _ => true
  | .callr _ _ => true
  | _ => false

/-- An instruction that gives the latches back: TRET to the trapping instruction or behind it (R348). (DEDUCED, log 26.) -/
def restoresLatches : Instr → Bool
  | .tret m => m == 1#7 || m == 2#7
  | _ => false

/-- Planes that an instruction overwrites (R354, R356): its destinations' in the groups with active lanes, o7's for CALL, its stream and
metadata registers', and the latches' in every group. (DEDUCED, log 26.) -/
def Team.writesPlane (x : Team) (i : Instr) (plane : Nat) : Bool :=
  let r := plane / 32
  let regs := (i.operands.filter (·.wr)).flatMap x.regsOf ++ (x.moreRegs i).2
    ++ (match i with
      | .call _ => [263]
      | _ => [])
  ((allLanes i || x.groupOn (plane % 32))
      && (regs.any (fun n => if n < 256 then n == r else x.regsN + (n - 256) == r)
        || (numberedWrites i).any (fun n => x.regsN + n == r)))
    || ((shiftsLatches i || restoresLatches i) && decide (x.regsN + 8 ≤ r) && decide (r < x.regsN + 12))

/-- What an instruction does when its checks pass. -/
abbrev Body := Nat → Team → State → Act

/-- Ring q of the team's cluster on its core (R92, R109). -/
def State.ring? (s : State) (x : Team) (q : Nat) : Option (Place × Ring) :=
  (s.place? x.cluster x.core).bind fun p => (p.rings[q]?).map fun r => (p, r)

/-- The spans of SPCMP in a lane are legal (R239): in the v registers, and in the allocation. -/
def Team.spanTrap (x : Team) (d a : Field) (code : Nat) : Option (BitVec 4) :=
  match spcmpSpan code with
  | none => none
  | some (src, keep) =>
    if 111 < a.toNat + src - 1 ∨ 111 < d.toNat + keep then some 2#4
    else if x.regsN < x.ctx.win + a.toNat + src ∨ x.regsN < x.ctx.win + d.toNat + keep + 1 then some 11#4
    else none

/-- A code offset in a register is a multiple of 4 below the code length (R103). -/
def State.codeTarget (s : State) (launch : Nat) (v : Word) : Bool :=
  v.toNat % 4 == 0 && decide (v.toNat < ((s.record? launch).map (·.codeLen)).getD 0)

/-- What a transfer to a code offset in a register fails (R47, R103): no such offset, or no header there. A fetch that faults is met by the
transfer itself (R417). (DEDUCED, log 50.) -/
def State.targetTrap (s : State) (x : Team) (a : Field) : Option (BitVec 4) :=
  let v := x.rd 0 a 0 0
  let off := v.setWidth 52
  if !s.codeTarget x.launch v then some 9#4
  else if (s.clauseFault x.launch off).isNone && !isHeader (s.codeWord x.launch off) then some 9#4
  else none

/-- The illegal-instruction checks that need more than the word and the allocation: a ring that the launch does not have (R109), the
spans of SPCMP (R239), the target of a transfer to a register's code offset (R47, R103, R107). (DEDUCED, log 50.) -/
def State.stateCheck (s : State) (x : Team) : Instr → Option (BitVec 4)
  | .ret a => s.targetTrap x a
  | .callr _ a => s.targetTrap x a
  | .br a => s.targetTrap x a
  | .yieldF a _ => s.targetTrap x a
  | .yieldC _ a _ => s.targetTrap x a
  | .stgpost _ q => if (s.ring? x q.toNat).isNone then some 2#4 else none
  | .stgtake _ q => if (s.ring? x q.toNat).isNone then some 2#4 else none
  | .spcmp d a v =>
    let subs := x.active.filterMap fun l => x.spanTrap d a (x.rd 0 v 0 l &&& 15#32).toNat
    if subs.contains 2#4 then some 2#4 else if subs.contains 11#4 then some 11#4 else none
  | _ => none

/-- The illegal-instruction checks of R51, lowest subcode first. -/
def State.issueCheck (s : State) (x : Team) (i : Instr) : Option (BitVec 4) :=
  match x.decodeCheck i, s.stateCheck x i with
  | some a, some b => some (if a ≤ b then a else b)
  | a, b => a.orElse fun _ => b

/-- What a team waits for before its next instruction is looked at (R93): the matrix state of its core, for an instruction of the
matrix class (R220), and registers that it reads. -/
def State.holdBack (s : State) (x : Team) (i : Instr) : Option Park :=
  if classRole i == 2 && (s.core x.core).owner != some x.launch then some (.owner [x.core])
  else if x.pending i then some .result
  else none

/-- The checks in front of an instruction: whether the team is ready for it (R93), illegal instruction (R51), role (R91), storage
errors (R365), planes still to be captured (R356); then its body. -/
def State.attempt (s : State) (t : Nat) (x : Team) (i : Instr) (body : Body) : Act :=
  match s.holdBack x i with
  | some p => .wait p s
  | none =>
    match s.issueCheck x i with
    | some sub => .trap (.illegal sub)
    | none =>
      if !roleOwns x.role i then .trap { cause := 2#8, info0 := BitVec.ofNat 32 x.role } else
      match s.regError t x i with
      | some r => .trap r
      | none => if x.planes.any (x.writesPlane i) then .wait .capture s else body t x s

/-- The team that has the issue slot. -/
def State.focused (s : State) : Option (Nat × Team) :=
  match s.focus with
  | none => none
  | some t => (aget s.teams t).map fun x => (t, x)

/-- Executing an instruction for the team that has the issue slot. A team that waited and is issued again is not parked
any more. (DESIGN CHOICE, log 6.) (DEDUCED, log 31.) -/
def issue (i : Instr) (s : State) (body : Body) : Out :=
  match s.focused with
  | none => .fault .noIssuingTeam
  | some (t, x) =>
    let x := { x with park := none, inFlight := x.returned i }
    let s := s.putTeam t x
    .next (s.settle t (literalsOf i) x (s.attempt t x i body))

/-- An instruction that changes its own team only. -/
def teamAct (f : Team → Team) : Body := fun t x s => .next (s.putTeam t (f x))

/-- A long-latency operation takes its flag (R43): the clause's first SetA, each later one SetB if it names a flag. (DEDUCED, log 47.) -/
def Team.attach (x : Team) (ref : OpRef) : Team :=
  let flag := if x.longs = 0 || x.setB = 0 then x.setA else x.setB
  { x with longs := x.longs + 1, ops := if flag = 0 then x.ops else x.ops ++ [⟨flag, ref⟩] }

/-- Flag fn is set (R43). -/
def Team.flag (x : Team) (n : Nat) : Bool := x.ops.any (·.flag == n)

/-- Every flag of a mask is clear: bit n − 1 stands for fn (R42, R107). -/
def Team.flagsClear (x : Team) (mask : BitVec 12) : Bool :=
  x.ops.all fun o => !mask.getLsbD (o.flag - 1)

/-- An operation is complete: it leaves the flags of every team (R43). -/
def State.complete (s : State) (ref : OpRef) : State :=
  { s with teams := s.teams.map fun t => (t.1, { t.2 with
      ops := t.2.ops.filter fun o => o.ref != ref,
      pendRegs := t.2.pendRegs.filter fun o => o.ref != ref }) }

/-- dusk.die in front of an effect (R173, R176): the team waits in a stall, or its bytes are published. -/
def withDusk (t : Nat) (x : Team) (s : State) (k : State → Act) : Act :=
  if s.duskStalls x.core t then .wait (.dusk []) s else k (s.publishTeam x.core t)

/-- A record of dropped reductions or messages (R319, R330): the trap, and the team with that record cleared. -/
def Team.dropTrap (x : Team) : Option (Report × Team) :=
  let rep := fun (cause : BitVec 8) (d : Dropped) => ({
    cause := cause, sub := BitVec.ofNat 4 d.reason,
    info0 := d.first.setWidth 32, info1 := (d.first >>> 32).setWidth 32,
    info2 := BitVec.ofNat 32 d.reason, info3 := d.count } : Report)
  match x.redDrop, x.msgDrop with
  | some d, _ => some (rep 14#8 d, { x with redDrop := none })
  | none, some d => some (rep 16#8 d, { x with msgDrop := none, peerTold := false })
  | none, none => none

/-- Waiting for the flush acknowledgements of the endpoints that the team has sent to (R322): the markers leave as the wait begins.
Package scope does not wait for peer classes (entries 98 to 113). (DEDUCED, log 18.) -/
def withFlush (sys : Bool) (t : Nat) (x : Team) (s : State) (k : Team → State → Act) : Act :=
  if x.sentTo.any fun e => sys || decide (e.1 < 98) then
    .wait .flush (s.putTeam t { x with markers := x.markers.or (some s.nextId) })
  else
    let x := { x with markers := none }
    k x (s.putTeam t x)

/-- The dusk.die of a release at package or system scope (R173): what the team has published up to here is there for the whole package (R414). (DEDUCED, log 18.) -/
def withPackage (t : Nat) (x : Team) (s : State) (k : Team → State → Act) : Act :=
  withDusk t x s fun s =>
    let x := { x with released := (s.die (dieOf x.core)).pubs.length }
    k x (s.putTeam t x)

/-- A release at package or system scope in front of an effect (R173, R322, R319, R330): the endpoints sent to must have
acknowledged; a record of drops traps, and is cleared; then dusk.die. -/
def withRelease (sys : Bool) (t : Nat) (x : Team) (s : State) (k : Team → State → Act) : Act :=
  withFlush sys t x s fun x s =>
    match x.dropTrap with
    | some (r, y) => .done ((s.putTeam t y).takeTrap t { r with word := x.word })
    | none => withPackage t x s k

/-- No fill of a team waits for the host's answer (R163). -/
def State.noFill (s : State) (t : Nat) : Bool :=
  s.dies.all fun d => !(d.2.faults ++ d.2.waiting).any fun f => f.who == .team t

/-- A team is resident on its core (R93): not while its launch is pre-empted. -/
def State.resident (s : State) (t : Nat) (x : Team) : Bool := (s.core x.core).age.contains t

/-- A waiting team whose condition holds proceeds: its instruction is issued again, or it goes on where it stands. -/
def resume (t : Nat) (p : Team → Park → Bool) (s : State) : Out :=
  ofEvent (match aget s.teams t with
    | none => none
    | some x => match x.park with
      | none => none
      | some w => if s.resident t x && p x w then some (s.putTeam t { x with park := none }) else none)

/-- A value that is the same in every active lane, as an instruction's result. -/
def Team.uniform (x : Team) (d : Field) (v : Word) : Team := x.result d fun _ => v

end Sys2Proof.Machine
end

