-- ==== Sys2Proof/Machine/Send.lean ====
section
/-!
DEFINITION. Packets and send allowances: routers (R416), entries and what they hold (R323), selectors (R324), sending under an
allowance (R325), and the records of what has been dropped (R319, R330).
-/

namespace Sys2Proof.Machine

/-- Power-up values of the send-allowance file (R323). -/
def allowanceReset (e : Nat) : BitVec 8 := if e < 114 then 64#8 else 0#8

/-- The physical core that backs a logical core at bring-up (R16, R17; PRESUMED, log 7: the first eight islands of a die keep a spare
each). -/
def firstPhysical (core : Nat) : Nat :=
  let i := core % 64
  72 * (core / 64) + (if i < 40 then 6 * (i / 5) + i % 5 else 48 + (i - 40))

/-- The physical core that backs a logical core. (PRESUMED, log 7.) -/
def State.physical (s : State) (core : Nat) : Nat := (aget s.coreMap core).getD (firstPhysical core)

/-- A logical core is backed by a working physical core (R87, code 6). -/
def State.backed (s : State) (core : Nat) : Bool := decide (core < Config.cores) && !s.failedCores.contains (s.physical core)

/-- The core island of a logical core: six physical cores each (R25). (PRESUMED, log 7.) -/
def State.islandOf (s : State) (core : Nat) : Nat := s.physical core / 6

/-- An island at power-up: nominal clocks of cores and of base dies (R18, R21); for port and control islands DESIGN CHOICE, log 9. -/
def islandReset (n : Nat) : Island := { mhz := if 48 ≤ n ∧ n < 60 then 1200 else 2000 }

/-- An island (R370). (DESIGN CHOICE, log 9.) -/
def State.island (s : State) (n : Nat) : Island := (aget s.islands n).getD (islandReset n)

/-- The state with an island changed. -/
def State.putIsland (s : State) (n : Nat) (i : Island) : State := { s with islands := aput s.islands n i }

/-- Arriving work wakes an island (R371). (DESIGN CHOICE, log 9.) -/
def State.wake (s : State) (n : Nat) : State :=
  let i := s.island n
  if i.power == .noon then s else s.putIsland n { i with power := .noon }

/-- An access that arrives at a port and reaches main memory wakes ports and base dies (R371). (DESIGN CHOICE, log 9.) -/
def State.wakeOuter (s : State) : State := (s.islands.filter fun i => decide (48 ≤ i.1)).foldl (fun s i => s.wake i.1) s

/-- The router that an endpoint attaches to (R22, R416). -/
def Endpoint.router : Endpoint → Nat
  | .core p => p / 3
  | .slice k => k
  | .engine e => if 384 ≤ e then 8 * (e - 384) else e / 4
  | .port q => 24 * (q / 2) + 1 + q % 2
  | .command d => 24 * d + 3
  | .sequencer => 4
  | .standby => 52
  | .management => 5

/-- The endpoint of a logical core: its current physical core (R16, R416). -/
def State.coreEnd (s : State) (core : Nat) : Endpoint := .core (s.physical core)

/-- The endpoint of a node engine: its spare's once the engine has been replaced (R21, R324). -/
def State.engineEnd (s : State) (e : Nat) : Endpoint :=
  .engine (if e < 384 ∧ s.engines.contains e then 384 + e / 32 else e)

/-- The endpoint of the slice that holds a scratchpad address (R161, R416). -/
def sliceEnd (die a : Nat) : Endpoint := .slice (24 * die + lockOf a / 256)

/-- The router of a logical core's current physical core (R416). -/
def State.coreRouter (s : State) (core : Nat) : Nat := (s.coreEnd core).router

/-- The router of a node engine: its spare's once the engine has been replaced (R324, R416). -/
def State.engineRouter (s : State) (e : Nat) : Nat := (s.engineEnd e).router

/-- The router of the slice that holds a scratchpad address (R161, R416). -/
def sliceRouter (die a : Nat) : Nat := (sliceEnd die a).router

/-- A link of the fabric; every link is in service at reset (DESIGN CHOICE, log 8). -/
def State.link (s : State) (n : Nat) : Link := (aget s.links n).getD {}

/-- The state with a link changed. -/
def State.putLink (s : State) (n : Nat) (l : Link) : State := { s with links := aput s.links n l }

/-- Bytes of payload that a flit carries (R22). -/
def flitBytes : Nat := 32

/-- Flits of a packet: one for 32 bytes of payload, at least one (R22). -/
def PacketKind.flits : PacketKind → Nat
  | .msg _ m _ => max 1 ((4 * m.payload.length + (flitBytes - 1)) / flitBytes)
  | _ => 1

/-- Numbers of endpoints. (DESIGN CHOICE, log 43.) -/
def Endpoint.no : Endpoint → Nat
  | .core p => 8 * p
  | .engine e => 8 * e + 1
  | .slice k => 8 * k + 2
  | .port q => 8 * q + 3
  | .command d => 8 * d + 4
  | .sequencer => 5
  | .standby => 6
  | .management => 7

/-- An endpoint's link, from it (out) or to it; links between routers are numbered below. (DESIGN CHOICE, log 43.) -/
def Endpoint.linkNo (e : Endpoint) (out : Bool) : Nat := 2 ^ 20 + 2 * e.no + (if out then 0 else 1)

/-- The links of a path between two routers: at most two router-to-router hops (R22, R321). -/
def pathLinks (a b k : Nat) : List Nat := ((Config.route a b k).take 2).map (· % 2 ^ 20)

/-- The paths that a router's table lists for another (R321): one to four, less those over a link out of service (R335). (DESIGN CHOICE, log 43.) -/
def State.listed (s : State) (a b : Nat) : List Nat :=
  (List.range (1 + Config.pathCount a b % 4)).filter fun k => (pathLinks a b k).all fun n => (s.link n).up

/-- The links that a packet crosses (R22, R321): its source's, those of its path, its destination's. (DESIGN CHOICE, log 43.) -/
def Packet.links (p : Packet) : List Nat :=
  p.src.linkNo true :: pathLinks p.src.router p.dst.router p.path ++ [p.dst.linkNo false]

/-- The path of a packet, chosen as it is sent (R321). -/
def State.choosePath (s : State) (a b : Nat) : Nat :=
  let l := s.listed a b
  l.getD (Config.freePath s.nextId % l.length) 0

/-- n flits enter a link (R335, R336): they are counted, numbered, and kept in the replay buffer, which holds the last 64; behind a flit that is
missing the receiver holds them. -/
def Link.enter (l : Link) (n : Nat) : Link :=
  let new := (List.range n).map fun i => l.seqNo + BitVec.ofNat 16 i
  let all := l.replay ++ new
  { l with sent := l.sent + BitVec.ofNat 16 n, seqNo := l.seqNo + BitVec.ofNat 16 n, avail := l.avail - BitVec.ofNat 16 n,
           replay := all.drop (all.length - 64), held := if l.missing.isSome then l.held ++ new else l.held, run := l.run + n }

/-- An audit flit that carries S, numbered like any flit, enters a link at a moment (R336). (DESIGN CHOICE, log 43.) -/
def Link.insertAudit (l : Link) (now : Nat) : Link :=
  { l.enter 1 with sent := l.sent, avail := l.avail, audit := some (l.sent, now), beyond := 0#16, run := 0 }

/-- n flits sent at a moment have left a link (R335, R336): they are counted and acknowledged, and their credits come back. -/
def Link.exit (l : Link) (n sentAt : Nat) : Link :=
  let k := BitVec.ofNat 16 n
  { l with recv := l.recv + k, freed := l.freed + k, credits := l.credits + k, avail := l.avail + k, replay := l.replay.drop n,
           beyond := if l.audit.any fun a => decide (a.2 ≤ sentAt) then l.beyond + k else l.beyond }

/-- An audit flit is inserted on a link (R336). (DESIGN CHOICE, log 43.) -/
def State.auditLink (s : State) (n : Nat) : State :=
  State.putLink { s with nextId := s.nextId + 1 } n ((s.link n).insertAudit s.nextId)

/-- n flits enter a link; after every 4,096 an audit flit follows them, once the one before it has been answered (R336). (DESIGN CHOICE, log 43.) -/
def State.enterLink (s : State) (k n : Nat) : State :=
  let l := (s.link k).enter n
  let s := s.putLink k l
  if l.up && l.audit.isNone && decide (4096 ≤ l.run) then s.auditLink k else s

/-- The flits of a packet enter the links that it crosses. -/
def State.enterLinks (s : State) (p : Packet) : State := p.links.foldl (fun s n => s.enterLink n p.kind.flits) s

/-- The flits of a packet have crossed links. (DESIGN CHOICE, log 43.) -/
def State.exitLinks (s : State) (p : Packet) (links : List Nat) : State :=
  links.foldl (fun s n => s.putLink n ((s.link n).exit p.kind.flits p.sentAt)) s

/-- Packets of one source, one destination and one path (R321). (DESIGN CHOICE, log 43.) -/
def Packet.sameWay (p q : Packet) : Bool := q.src == p.src && q.dst == p.dst && q.path == p.path

/-- A packet may arrive (R321, R335): of the packets between its endpoints on its path it was sent first, and every link that it crosses is in
service and waits for no flit to be replayed. Packets to a peer are delivered without order (R337). (DESIGN CHOICE, log 43.) -/
def State.mayArrive (s : State) (id : Nat) (p : Packet) : Bool :=
  (decide (98 ≤ p.entry) || s.packets.all fun q => q.1 == id || !p.sameWay q.2 || decide (p.sentAt < q.2.sentAt))
    && p.links.all fun n => (s.link n).up && (s.link n).missing.isNone

/-- A packet has arrived. -/
def State.arrive (s : State) (id : Nat) (p : Packet) : State :=
  State.exitLinks { s with packets := adel s.packets id } p p.links

/-- Packets in flight of a peer class (R323). -/
def State.classFlight (s : State) (e : Nat) : Nat := (s.packets.filter fun p => p.2.entry == e).length

/-- The value of a send-allowance entry (R323). (DESIGN CHOICE, log 43.) -/
def State.allowance (s : State) (core e : Nat) : Nat :=
  if e < 98 then (tget allowanceReset (s.core core).allow e).toNat
  else if e < 114 then
    match aget s.windows (e - 98) with
    | some w => min 255 (w / 4096 - s.classFlight e)
    | none => 64
  else 0

/-- An entry's count changed by one (R323): it saturates at 255 and at 0. -/
def State.spend (s : State) (core e : Nat) : State :=
  let c := s.core core
  if 98 ≤ e then s else
  s.putCore core { c with allow := tset allowanceReset c.allow e (BitVec.ofNat 8 ((tget allowanceReset c.allow e).toNat - 1)) }

/-- A credit adds 1 (R323). (DESIGN CHOICE, log 43.) -/
def State.credit (s : State) (core e : Nat) : State :=
  let c := s.core core
  s.putCore core
    { c with allow := tset allowanceReset c.allow e (BitVec.ofNat 8 (min 255 ((tget allowanceReset c.allow e).toNat + 1))) }

/-- A packet takes its entry, and leaves a core for an endpoint on one of the listed paths (R321, R323). (DESIGN CHOICE, log 43.) -/
def State.sendPacket (s : State) (t core e : Nat) (dst : Endpoint) (k : PacketKind) : State :=
  let src := s.coreEnd core
  let path := s.choosePath src.router dst.router
  let p := (s.spend core e).take
  let packet : Packet :=
    { team := t, core := core, entry := e, kind := k, src := src, dst := dst, path := path, sentAt := p.1, since := p.1,
      root := ((aget s.teams t).map fun x => s.rootOf x.launch).getD 0#48 }
  State.enterLinks { p.2 with packets := aput p.2.packets p.1 packet } packet

/-- A packet of a team's instruction leaves its core (R323, R325): a later release waits for it (R322). -/
def State.send (s : State) (t : Nat) (x : Team) (e : Nat) (dst : Endpoint) (k : PacketKind) : State :=
  let s := s.sendPacket t x.core e dst k
  match aget s.teams t with
  | some y => s.putTeam t { y with sentTo := if y.sentTo.contains (e, dst) then y.sentTo else y.sentTo ++ [(e, dst)] }
  | none => s

/-- The port that a packet to a peer leaves by: any of the eight that is up (R337, R373). -/
def State.anyPort (s : State) : Endpoint :=
  let up := (List.range 8).filter fun q => !s.downPorts.contains q
  .port (up.getD (Config.freePath s.nextId % up.length) 0)

/-- An entry of a queue's peer table (R338). -/
structure PeerEntry where
  address : BitVec 128
  job     : BitVec 24
  queue   : Nat
  cls     : Nat
  deriving DecidableEq, Repr

/-- The 32 bytes of a peer-table entry (R338). -/
def PeerEntry.parse (bs : List Byte) : PeerEntry :=
  { address := BitVec.ofNat 128 (leNat (bs.take 16)), job := BitVec.ofNat 24 (nat32 bs 16), queue := nat16 bs 20 % 64,
    cls := nat16 bs 22 % 16 }

/-- The peer-table entry of a queue, as main memory holds it (R338). (DESIGN CHOICE, log 25.) -/
def State.peerAt (s : State) (queue index : Nat) : Option PeerEntry :=
  (s.queue queue).cfg.bind fun c =>
    if index < c.peers then some (PeerEntry.parse (bytesAt s.memByte (c.peerTable.toNat + 32 * index) 32)) else none

/-- The peer-table entry of a launch's queue. -/
def State.peer? (s : State) (launch index : Nat) : Option PeerEntry := s.peerAt (s.queueOf launch) index

/-- Peers that the queue of a launch knows. -/
def State.peerCount (s : State) (launch : Nat) : Nat := ((s.cfgOf launch).map (·.peers)).getD 0

/-- A peer of a queue is not unavailable (R338). -/
def State.peerUp (s : State) (queue index : Nat) : Bool :=
  ((s.queue queue).cfg.any fun c => decide (index < c.peers)) && !(s.queue queue).lostPeers.contains index

/-- The entry that a selector names, or the subcode of the fabric trap (R324). -/
def State.selector (s : State) (launch : Nat) (v : Word) : Except Nat Nat :=
  match bits v 31 30 with
  | 0 => if bits v 29 7 ≠ 0 then .error 1 else .ok (bits v 6 0)
  | 1 => if bits v 29 8 ≠ 0 then .error 1 else .ok (s.coreRouter (bits v 7 0))
  | 2 =>
    if bits v 29 8 ≠ 0 then .error 1 else
    match s.peer? launch (bits v 7 0) with
    | some p => .ok (98 + p.cls)
    | none => .error 3
  | _ =>
    let n := bits v 8 0
    if bits v 29 15 ≠ 0 ∨ bits v 13 9 ≠ 0 then .error 1
    else if v.getLsbD 14 then (if 395 < n then .error 1 else .ok (s.engineRouter n))
    else (if 95 < n then .error 1 else .ok n)

/-- A dropped packet recorded (R319, R330): the first one's address and reason stay, the count saturates. (DEDUCED, log 33.) -/
def addDrop (o : Option Dropped) (first : BitVec 64) (reason : Nat) : Option Dropped :=
  match o with
  | none => some ⟨first, reason, 1#32⟩
  | some d => some { d with count := if d.count = Word.ones then d.count else d.count + 1#32 }

/-- A dropped reduction of a team (R319). -/
def State.dropRed (s : State) (t : Nat) (va : BitVec 64) (reason : Nat) : State :=
  match aget s.teams t with
  | some x => s.putTeam t { x with redDrop := addDrop x.redDrop va reason }
  | none => s

/-- A dropped message of a team (R330). The first drop of reason 4 since the record was cleared sends an event of kind 8. -/
def State.dropMsg (s : State) (t : Nat) (launch peer : Nat) (target : BitVec 64) (reason : Nat) : State :=
  match aget s.teams t with
  | none => s
  | some x =>
    let tell : Bool := reason == 4 && !x.peerTold
    let s := s.putTeam t { x with msgDrop := addDrop x.msgDrop target reason, peerTold := x.peerTold || reason == 4 }
    if tell then s.sendEvent 8 (s.queueOf launch) (s.seqOf launch) (BitVec.ofNat 32 peer) target.toNat else s

end Sys2Proof.Machine
end

