-- ==== Sys2Proof/Machine/Barrier.lean ====
section
/-!
DEFINITION. Transaction barriers, major 0x4A, and their events (R211 to R214).
-/

namespace Sys2Proof.Machine

/-- The copy trap for a barrier handle or a reference limit (R194, R212, R214). -/
def barTrap : Act := .trap (.plain 4 3)

/-- A handle that a barrier instruction may name (R212): a live barrier of this module, or one of a peer of the queue. -/
def State.handleOk (s : State) (launch : Nat) (h : Word) : Bool :=
  if barPeer h = 0 then (s.barrier? h).isSome
  else decide (barPeer h ≤ s.peerCount launch)

/-- The body of a barrier instruction (R214): nothing when MZ = 1. -/
def barBody (k : Nat → Team → State → Act) : Body := fun t x s => if x.mz then .next s else k t x s

/-- The handle of a pool entry (R211). -/
def barHandle (gen die index : Nat) : Word := 0#16 ++ BitVec.ofNat 4 gen ++ BitVec.ofNat 2 die ++ BitVec.ofNat 10 index

/-- BALLOC (R214): the lowest free entry of the die's pool (DESIGN CHOICE, log 8). -/
def execBalloc (d a b : Field) (s : State) : Out :=
  issue (.balloc d a b) s <| barBody fun t x s =>
    let die := dieOf x.core
    let pool := (s.die die).barriers
    let free := lowest Config.barriers fun i => !((aget pool i).map (·.live)).getD false
    match free with
    | none => .next (s.putTeam t ((x.uniform d Word.ones).setZ false))
    | some i =>
      if 16 ≤ x.barRefs.length then .next (s.putTeam t ((x.uniform d Word.ones).setZ false)) else
      let gen := ((aget pool i).map (·.gen)).getD 0
      let h := barHandle gen die i
      let n := bits (x.rdFirst 0 a) 15 0
      let bar : Barrier :=
        { gen := gen, live := true, need := if n = 0 then 1 else n, refs := 1, timeout := x.rdFirst (litCount [a]) b }
      let k := s.die die
      .next ((s.putDie die { k with barriers := aput k.barriers i bar }).putTeam t
        (({ x with barRefs := x.barRefs ++ [h] }.uniform d h).setZ true))

/-- BREF (R213, R214). -/
def execBref (a : Field) (s : State) : Out :=
  issue (.bref a) s <| barBody fun t x s =>
    let h := x.rdFirst 0 a
    if decide (16 ≤ x.barRefs.length) || !s.handleOk x.launch h then barTrap else
    let s := match s.barrier? h with
      | some b => s.putBarrier h { b with refs := b.refs + 1 }
      | none => s.tellBarrier h 1 0#32
    .next (s.putTeam t { x with barRefs := x.barRefs ++ [h] })

/-- BFREE (R214). -/
def execBfree (a : Field) (s : State) : Out :=
  issue (.bfree a) s <| barBody fun t x s =>
    let h := x.rdFirst 0 a
    if !x.barRefs.contains h then barTrap else
    .next ((s.dropRef h).putTeam t { x with barRefs := x.barRefs.erase h })

/-- One arrival (R212, R214). -/
def Barrier.arrive (b : Barrier) : Barrier := { b with arrived := b.arrived + 1 }.settle

/-- BARRIVE (R214): on a barrier with Peer = 0 it performs dusk.die, behind the flush of a release at package scope (R322; DEDUCED, log 29);
the phase in which a peer's barrier counts the arrival is a free value. -/
def execBarrive (d a : Field) (s : State) : Out :=
  issue (.barrive d a) s <| barBody fun t x s =>
    let h := x.rdFirst 0 a
    if !s.handleOk x.launch h then barTrap else
    if barPeer h = 0 then
      withFlush false t x s fun x s => withPackage t x s fun x s => match s.barrier? h with
        | some b => .next ((s.putBarrier h b.arrive).putTeam t (x.uniform d b.phase))
        | none => barTrap
    else
      withRelease true t x s fun x s =>
        let v := Config.freeWord s.fresh
        .next ((({ s with fresh := s.fresh + 1 } : State).tellBarrier h 3 0#32).putTeam t (x.uniform d v))

/-- Expected bytes (R212, R214). -/
def Barrier.expectBytes (b : Barrier) (n : Int) : Barrier := { b with pending := b.pending + n }.settle

/-- BEXPECT (R214). -/
def execBexpect (a b : Field) (s : State) : Out :=
  issue (.bexpect a b) s <| barBody fun _ x s =>
    let h := x.rdFirst 0 a
    let v := x.rdFirst (litCount [a]) b
    if !s.handleOk x.launch h then barTrap else
    let s := match s.barrier? h with
      | some b => s.putBarrier h (b.expectBytes v.toInt)
      | none => s.tellBarrier h 4 v
    .next (match s.place? x.cluster x.core with
      | some p => s.putPlace x.cluster { p with bound := some h }
      | none => s)

/-- BWAIT (R214): outstanding until the phase has passed or the barrier is freed; then COUNTER_POLL writes vd. (DEDUCED, log 29.) -/
def execBwait (d a b : Field) (s : State) : Out :=
  issue (.bwait d a b) s <| barBody fun t x s =>
    let h := x.rdFirst 0 a
    if !s.handleOk x.launch h then barTrap else
    let reg := (x.regNo d 0).getD 511
    let ref := OpRef.bwait h (x.rdFirst (litCount [a]) b) reg x.ctx.mask
    let y := x.attach ref
    .next (s.putTeam t { y with pendRegs := if reg = 511 then y.pendRegs else y.pendRegs ++ [⟨reg, ref⟩] })

/-- What a BWAIT that is over writes (R212, R214): nothing while it is outstanding; once the error bit is set every phase completes as it
begins. What a peer's barrier answers is free. (DEDUCED, log 29.) -/
def State.bwaitOver (s : State) (h phase : Word) : Option Word :=
  if barPeer h ≠ 0 then some (Word.ofBool (Config.freeNat s.fresh % 2 == 1)) else
  match s.barrier? h with
  | none => some 0#32
  | some b =>
    let d := (b.phase - phase).toNat
    if 1 ≤ d ∧ d ≤ 2 ^ 31 ∨ b.err.isSome then
      some (match b.err with
        | some p => Word.ofBool (decide (2 ^ 31 ≤ (phase - p).toNat))
        | none => 1#32)
    else none

/-- BARRIER_TIMEOUT (R212): not while an absence is counted, and once. -/
def execBarrierTimeout (die index : Nat) (s : State) : Out :=
  ofEvent (match aget (s.die die).barriers index with
    | none => none
    | some b =>
      if b.live && b.timeout != 0#32 && b.absences == 0 && b.err.isNone then
        some (s.putDie die { s.die die with barriers := aput (s.die die).barriers index b.fail })
      else none)

/-- A token is counted at a barrier of this module, or leaves the module for a peer's (R213, R340). -/
def State.countToken (s : State) (handle : Word) (presence : Bool) : State :=
  if barPeer handle ≠ 0 then { s with replies := s.replies ++ [.tokenToPeer handle presence] } else
  match s.barrier? handle with
  | none => s
  | some b => s.putBarrier handle { b with absences := if presence then b.absences - 1 else b.absences + 1 }

/-- A packet that carries a token. -/
def Packet.isToken (handle : Word) (presence : Bool) (p : Packet) : Bool := p.kind == .token handle presence

/-- BARRIER_TOKEN (R213): a token of this module that is in flight arrives; else one of a peer, for a barrier of this module. -/
def execBarrierToken (handle : Word) (presence : Bool) (s : State) : Out :=
  ofEvent (match s.packets.find? fun q => q.2.isToken handle presence && s.mayArrive q.1 q.2 with
    | some q => some ((s.arrive q.1 q.2).countToken handle presence)
    | none =>
      if s.packets.any (fun q => q.2.isToken handle presence) || (s.barrier? handle).isNone then none
      else some (s.countToken handle presence))

/-- CROSS_MODULE_BARRIER_ACCESS (R211 to R214): a peer's team acts on a barrier of this module; op is the function number of
the instruction, or 7 for a peer's copy with Bar set that has failed (R212). A stale handle is answered with an error. -/
def execCrossModuleBarrierAccess (handle : Word) (op : BitVec 3) (value : Word) (s : State) : Out :=
  ofEvent (match s.barrier? handle with
    | none => some { s with replies := s.replies ++ [.error "barrier handle"] }
    | some b =>
      let answer := fun (s : State) (v : Word) => { s with replies := s.replies ++ [.data (leBytes 4 v.toNat)] }
      match op.toNat with
      | 1 => some (answer (s.putBarrier handle { b with refs := b.refs + 1 }) 0#32)
      | 2 => some (answer (s.dropRef handle) 0#32)
      | 3 => some (answer (s.putBarrier handle b.arrive) b.phase)
      | 4 => some (answer (s.putBarrier handle (b.expectBytes value.toInt)) 0#32)
      | 5 => (s.bwaitOver handle value).map fun v => answer s v
      | 7 => some (answer (s.putBarrier handle b.fail) 0#32)
      | _ => none)

end Sys2Proof.Machine
end

