-- ==== Sys2Proof/Machine/Status.lean ====
section
/-!
DEFINITION. Status words of copies and walks (R207, R299) and of waves (R277), and whose handle and status a range carries.
-/

namespace Sys2Proof.Machine

/-- What a stale handle reads as (R207, R210, R277). -/
def staleWord : Word := Word.ones

/-- The copy is a walk (R299). -/
def Copy.isWalk (c : Copy) : Bool :=
  match c.kind with
  | .copy _ => false
  | .embed _ _ => true
  | .descend _ _ _ => true

/-- The State field of a status word (R207). -/
def CopyPhase.code : CopyPhase → Nat
  | .held => 0
  | .landing => 1
  | .complete => 2
  | .failed => 3

/-- The status word of a copy (R207); of a walk (R299): Error 0 or 1 and Clipped 0. (DEDUCED, log 41.) -/
def Copy.status (c : Copy) : Word :=
  let source := (if c.viaPrim then 1 else 0) + (if c.viaFb then 2 else 0)
  let err := if c.isWalk then (if c.err = 0 then 0 else 1) else c.err
  let clipped := if c.isWalk then 0 else min c.clipped (2 ^ 24 - 1)
  BitVec.ofNat 2 c.phase.code ++ BitVec.ofNat 2 source ++ BitVec.ofNat 4 err ++ BitVec.ofNat 24 clipped

/-- The copy or walk of a core that a handle names (R210): none when the slot is free or holds another. -/
def State.copy? (s : State) (core : Nat) (h : Word) : Option (Nat × Copy) :=
  let key := core * 1024 + h.toNat % 1024
  match aget s.copies key with
  | some c => if c.handle == h then some (key, c) else none
  | none => none

/-- The State field of a wave's status word (R277). -/
def WavePhase.code : WavePhase → Nat
  | .held => 0
  | .running => 1
  | .ended => 2
  | .failed => 3

/-- The status word of a wave (R277). (DEDUCED, log 41.) -/
def Wave.status (w : Wave) : Word :=
  BitVec.ofNat 2 w.phase.code ++ BitVec.ofNat 4 w.err ++ BitVec.ofNat 8 (min w.hops 255) ++ BitVec.ofBool w.limit
    ++ BitVec.ofBool w.trunc ++ 0#16

/-- Handle and status word of the landing that owns a range (R203). -/
def State.ownerStatus (s : State) : RangeOwner → Word × Word
  | .copy core slot => match aget s.copies (core * 1024 + slot) with
    | some c => (c.handle, c.status)
    | none => (staleWord, staleWord)
  | .wave place => match aget s.waves place with
    | some w => (w.handle, w.status)
    | none => (staleWord, staleWord)

/-- The landing fault (R203, R343) of a lane at a byte of a range. (DEDUCED, log 30.) -/
def State.landingReport (s : State) (lane a id : Nat) : Report :=
  let mark := ((aget s.ranges id).map (·.mark)).getD 0
  let o := ((aget s.ranges id).map fun r => s.ownerStatus r.owner).getD (staleWord, staleWord)
  { cause := 5#8, lane := BitVec.ofNat 32 lane, info0 := BitVec.ofNat 32 a, info1 := o.1, info2 := o.2,
    info3 := BitVec.ofNat 32 mark }

end Sys2Proof.Machine
end

