-- ==== Sys2Proof/Machine/CopyEngine.lean ====
section
/-!
DEFINITION. The copy engine and the landing units: copy addresses (R191), schedule entries and their checks (R189, R190,
R192, R193), slots and ranges (R188, R194, R195, R198), reading a source, landing at a destination (R196, R200 to R202,
R204, R205), completion and deregistration (R199, R207, R208).
-/

namespace Sys2Proof.Machine

/-- A copy address resolved for a cluster and an issuing core; none when it is illegal (R191). -/
def State.resolveAddr (s : State) (cluster core : Nat) (v : BitVec 64) : Option Loc :=
  let off := bits v 31 0
  match bits v 63 60 with
  | 0 => if bits v 59 52 = 0 then some ⟨.main, bits v 51 0⟩ else none
  | 1 => if bits v 59 32 = 0 then some ⟨.sh cluster core, off⟩ else none
  | 2 => match aget s.clusters cluster with
    | some c =>
      if bits v 59 40 = 0 && decide (bits v 39 32 < c.width * c.height)
      then some ⟨.sh cluster (rectCore c.die c.x0 c.y0 c.width (bits v 39 32)), off⟩ else none
    | none => none
  | 3 => if bits v 59 34 = 0 then some ⟨.sp (bits v 33 32), off⟩ else none
  | 4 => if bits v 59 32 = 0 then some ⟨.bst core, off⟩ else none
  | 5 => some ⟨.peer (bits v 59 52), bits v 51 0⟩
  | _ => none

/-- Bytes of a space, where the spec bounds it (R159, R219). -/
def State.spaceSize (s : State) (launch : Nat) : Dest → Option Nat
  | .main => none
  | .sh _ _ => some (s.sharedOf launch)
  | .sp _ => some Config.scratchBytes
  | .bst _ => some Config.bstoreBytes
  | .peer _ => none

/-- A range of n bytes at a location lies in its space. -/
def State.inSpace (s : State) (launch : Nat) (l : Loc) (n : Nat) : Bool :=
  match s.spaceSize launch l.dest with
  | some z => decide (l.addr + n ≤ z)
  | none => true

/-- n fields of 4 bytes from an offset. -/
def words32 (bs : List Byte) (o n : Nat) : List Nat := (List.range n).map fun i => nat32 bs (o + 4 * i)

/-- A schedule entry as its 160 bytes give it (R189, R190). -/
def parseEntry (bs : List Byte) : CopyEntry :=
  let c := word32 bs 0
  let d := bits c 7 5 + 1
  { fill := word32 bs 4, src := word64 bs 8, dst := word64 bs 16, fb := word64 bs 24, counter := word32 bs 32,
    incr := word32 bs 36, deadline := word32 bs 40, tag := BitVec.ofNat 16 (nat16 bs 44), contrib := nat8 bs 46,
    rank := nat8 bs 47, size := 2 ^ bits c 4 2, ext := words32 bs 48 (min d 5), sstride := words32 bs 68 (min d 5),
    dstride := words32 bs 88 (min d 5),
    origin := (words32 bs 108 (min d 5)).map fun n => (BitVec.ofNat 32 n).toInt, bound := words32 bs 128 (min d 5),
    acc := c.getLsbD 26, combine := bits c 25 22, bar := c.getLsbD 21, useFb := c.getLsbD 20, clip := c.getLsbD 19 }

/-- Sum of products, index by index. -/
def dot (a b : List Nat) : Nat := (List.zipWith (· * ·) a b).sum

/-- Product of the extents. -/
def CopyEntry.elements (e : CopyEntry) : Nat := e.ext.foldl (· * ·) 1

/-- Bytes of the tile (R192). -/
def CopyEntry.bytes (e : CopyEntry) : Nat := e.size * e.elements

/-- Bytes of the destination range (R192). -/
def CopyEntry.span (e : CopyEntry) : Nat := dot (e.ext.map (· - 1)) e.dstride + e.size

/-- Bytes from the source to the end of the highest element that is read; none when every element is clipped. (DESIGN CHOICE, log 14.) -/
def CopyEntry.reach (e : CopyEntry) : Option Nat :=
  if !e.clip then some (dot (e.ext.map (· - 1)) e.sstride + e.size) else
  let last := (List.zip e.origin (List.zip e.ext e.bound)).map fun q =>
    (min (q.1 + (q.2.1 : Int) - 1) ((q.2.2 : Int) - 1), max q.1 0)
  if last.any fun q => decide (q.1 < q.2) then none
  else some (dot (last.map fun q => q.1.toNat) e.sstride + e.size)

/-- The destination strides keep elements apart (R193). -/
def stridesOk (size : Nat) : List Nat → List Nat → Bool
  | e :: er, d :: d' :: dr => decide (size ≤ d) && decide (d * e ≤ d') && stridesOk size er (d' :: dr)
  | _, [d] => decide (size ≤ d)
  | _, _ => true

/-- A source location does not lie in the B store, and its extent lies in its space (R193). -/
def State.sourceOk (s : State) (launch : Nat) (e : CopyEntry) (l : Loc) : Bool :=
  (match l.dest with
    | .bst _ => false
    | _ => true) && (match e.reach with
    | some n => s.inSpace launch l n
    | none => true)

/-- An entry, with its table fields replaced, is well-formed (R193), which does not bound N by R189's 64. (DESIGN CHOICE, log 14.) -/
def State.entryOk (s : State) (launch cluster core : Nat) (raw : List Byte) (e : CopyEntry) : Bool :=
  let c := word32 raw 0
  bits c 31 27 == 0 && bits c 1 0 == 0 && zeroBytes raw 148 160
    && decide (bits c 7 5 ≤ 4) && decide (bits c 4 2 ≤ 4) && decide (e.combine ≤ 8)
    && e.ext.all (0 < ·) && e.sstride.all (0 < ·) && stridesOk e.size e.ext e.dstride
    && decide (e.bytes ≤ 2 ^ 31)
    && (e.combine == 0 || (e.size == 4 && !e.useFb && decide (e.rank < e.contrib)))
    && (match s.resolveAddr cluster core e.dst with
        | some l => s.inSpace launch l e.span
        | none => false)
    && (match s.resolveAddr cluster core e.src with
        | some l => s.sourceOk launch e l
        | none => false)
    && (!e.useFb || (match s.resolveAddr cluster core e.fb with
        | some l => s.sourceOk launch e l
        | none => false))

/-- The unit in which a destination is registered (R195). -/
def unitOf : Dest → RangeUnit
  | .main => .unregistered
  | .sh _ c => .core c
  | .sp d => .die d
  | .bst c => .core c
  | .peer _ => .unregistered

/-- A unit has a free range (R195). -/
def State.rangeFree (s : State) (u : RangeUnit) : Bool :=
  let n := (s.ranges.filter fun r => r.2.unit == u).length
  match u with
  | .core _ => decide (n < Config.landingRanges)
  | .die _ => decide (n < Config.gazetteerRanges)
  | .unregistered => true

/-- Ranges that a new range is held behind, with the offset that each must reach (R198); together names ranges that do not
hold it. -/
def State.overlaps (s : State) (dest : Dest) (start len : Nat) (together : Nat → Bool) : List (Nat × Nat) :=
  s.ranges.filterMap fun q =>
    let r := q.2
    if r.unit != .unregistered && r.dest == dest && !r.failed && !together q.1
        && decide (r.start + r.mark < r.start + r.len) && decide (start < r.start + r.len)
        && decide (r.start + r.mark < start + len)
    then some (q.1, min (r.start + r.len) (start + len) - r.start) else none

/-- Registering a destination range (R195, R198). Loads of its bytes that have not performed perform before (R168, R197). -/
def State.register (s : State) (owner : RangeOwner) (dest : Dest) (start len : Nat) (bytes : List Byte)
    (together : Nat → Bool) : Nat × State :=
  let behind := s.overlaps dest start len together
  let ready := s.teams.filter fun t => t.2.lateAt dest ((List.range len).map (start + ·))
  let p := (ready.foldl (fun s t => s.performLoads t.1) s).take
  (p.1, p.2.putRange p.1
    { unit := unitOf dest, owner := owner, dest := dest, start := start, len := len, behind := behind, bytes := bytes })

/-- The entry of a copy that combines and has not ended or stopped (R205). -/
def Copy.combining (c : Copy) : Option CopyEntry :=
  match c.kind with
  | .copy e => if e.combine != 0 && c.open && c.err == 0 && decide (c.next < c.total) then some e else none
  | _ => none

/-- Copies that combine, with their slots' keys, in order of registration. -/
def State.combiners (s : State) : List (Nat × Copy × CopyEntry) :=
  s.ranges.filterMap fun r => match r.2.owner with
    | .copy core slot =>
      let key := core * 1024 + slot
      (aget s.copies key).bind fun c => c.combining.map fun e => (key, c, e)
    | .wave _ => none

/-- Two copies have one destination (R205): the same place; in main memory, of one address space; at a peer, of one queue. (DESIGN CHOICE, log 14.) -/
def State.sameDest (s : State) (a b : Copy) : Bool :=
  a.dst == b.dst && (match a.dst.dest with
    | .main => s.rootOf a.launch == s.rootOf b.launch
    | .peer _ => s.queueOf a.launch == s.queueOf b.launch
    | _ => true)

/-- Contributions that match on Tag and Destination (R205). -/
def State.sameTag (s : State) (a b : Copy × CopyEntry) : Bool := a.2.tag == b.2.tag && s.sameDest a.1 b.1

/-- Contributions of one combine group (R205). -/
def State.sameGroup (s : State) (a b : Copy × CopyEntry) : Bool :=
  s.sameTag a b && a.2.combine == b.2.combine && a.2.acc == b.2.acc && a.2.contrib == b.2.contrib && a.2.ext == b.2.ext
    && a.2.dstride == b.2.dstride

/-- How many earlier contributions of its group have a contribution's rank: which group of that key it belongs to. (DESIGN CHOICE, log 14.) -/
def State.turnOf (s : State) (all : List (Nat × Copy × CopyEntry)) (m : Nat × Copy × CopyEntry) : Nat :=
  ((all.takeWhile fun q => q.1 != m.1).filter fun q => s.sameGroup q.2 m.2 && q.2.2.rank == m.2.2.rank).length

/-- The members that a contribution's group has so far. -/
def State.groupOf (s : State) (key : Nat) : List (Nat × Copy × CopyEntry) :=
  let all := s.combiners
  match all.find? (·.1 == key) with
  | none => []
  | some m => all.filter fun q => s.sameGroup q.2 m.2 && s.turnOf all q == s.turnOf all m

/-- A group has its N ranks, and is among the 256 that its landing unit holds open (R205); destinations in main memory and at peers count as one unit.
(DESIGN CHOICE, log 14.) -/
def State.groupReady (s : State) (key : Nat) : Bool :=
  let g := s.groupOf key
  match g with
  | [] => false
  | m :: _ =>
    let all := s.combiners
    let heads := (all.takeWhile fun q => q.1 != m.1).filter fun q =>
      unitOf q.2.1.dst.dest == unitOf m.2.1.dst.dest && (s.groupOf q.1).head?.map (·.1) == some q.1
    g.length == m.2.2.contrib && decide (heads.length < Config.combineGroups)

/-- A copy stops with an error; its completion follows (R201, R207). -/
def Copy.stop (c : Copy) (err : Nat) : Copy := if c.err == 0 then { c with err := err } else c

/-- Contributions that match on Tag and Destination but differ otherwise fail every member, with error 6 (R205). (DESIGN CHOICE, log 14.) -/
def State.combineCheck (s : State) (key : Nat) : State :=
  let all := s.combiners
  match all.find? (·.1 == key) with
  | none => s
  | some m =>
    if all.all fun q => !s.sameTag q.2 m.2 || s.sameGroup q.2 m.2 then s
    else (all.filter fun q => s.sameTag q.2 m.2).foldl (fun s q => s.putCopy q.1 (q.2.1.stop 6)) s

/-- A slot is free, and the range of a copy or walk can be registered (R194, R195). -/
def State.slotReady (s : State) (core : Nat) (c : Copy) : Bool :=
  (aget s.copies (core * 1024 + c.handle.toNat % 1024)).isNone && s.rangeFree (unitOf c.dst.dest)

/-- Ranges of the contributions that form one combine group with a copy that is being released: those of its own turn (R198, R205). -/
def State.groupRanges (s : State) (key : Nat) (c : Copy) : List Nat :=
  match c.combining with
  | none => []
  | some e =>
    let all := s.combiners
    let m := (key, c, e)
    (all.filter fun q => s.sameTag q.2 m.2 && (!s.sameGroup q.2 m.2 || s.turnOf all q == s.turnOf all m)).map
      fun (q : Nat × Copy × CopyEntry) => q.2.1.range

/-- The last team of a launch has halted, and its landings go on to their end (R101, R215). (DEDUCED, log 44.) -/
def State.launchHalted (s : State) (launch : Nat) : Bool :=
  match aget s.launches launch with
  | none => false
  | some x => match x.phase with
    | .ending _ _ => true
    | _ => false

/-- A destination can take bytes for a launch now: the B store only while the launch owns the core (R220), or once the
launch's last team has halted (R215, DEDUCED, log 44). -/
def State.destOpen (s : State) (launch : Nat) : Dest → Bool
  | .bst c => (s.core c).owner == some launch || s.launchHalted launch
  | _ => true

/-- A copy that nothing of R198 holds: a contribution waits until its group lands, and a copy to the B store until its launch owns the core (R205,
R207, R220). -/
def State.begun (s : State) (c : Copy) : CopyPhase :=
  if c.combining.isSome || !s.destOpen c.launch c.dst.dest then .held else .landing

/-- A copy or walk takes its slot and registers its range (R194, R195, R198). Contributions of one combine group do not hold
each other. -/
def State.startCopy (s : State) (core : Nat) (c : Copy) : State :=
  let slot := c.handle.toNat % 1024
  let key := core * 1024 + slot
  let p := s.register (.copy core slot) c.dst.dest c.dst.addr c.len [] (s.groupRanges key c).contains
  let held := ((aget p.2.ranges p.1).map fun r => !r.behind.isEmpty).getD false
  (p.2.putCopy key { c with range := p.1, phase := if held then .held else s.begun c }).combineCheck key

/-- No fill of a range waits for the host's answer. -/
def State.rangeIdle (s : State) (id : Nat) : Bool :=
  s.dies.all fun d => !(d.2.faults ++ d.2.waiting).any fun f => f.who == .range id

/-- A range may land its next element: its landing goes on, and nothing holds it (R196, R198, R201). -/
def State.canLand (s : State) (id : Nat) (r : Range) (launch : Nat) : Bool :=
  !r.done && r.behind.isEmpty && s.rangeIdle id && s.destOpen launch r.dest

/-- Bytes that come from outside the module, or that nothing determines (DESIGN CHOICE, log 3). -/
def State.freeBytes (s : State) (n : Nat) : List Byte × State :=
  ((List.range n).map fun i => BitVec.ofNat 8 (Config.freeNat (s.fresh + i)), { s with fresh := s.fresh + n })

/-- What reading or writing a place gives. -/
inductive Xfer
  | ok (bs : List Byte) (s : State)
  /-- A translation fault that waits for the host. -/
  | fault (kind va : Nat)
  /-- A translation that cannot be repaired: 1 of a source, 2 of a destination; 3 a check mismatch; 5 a peer that is
  unavailable (R207); 7 a peer that reports a check mismatch (R201). -/
  | stop (err : Nat)

/-- Reading n bytes for an engine (R200, R201): main memory, shared memory, scratchpad as its publication order leaves it,
a peer. denied is the page that the host has answered unrepairable. (DEDUCED, log 33.) (DEDUCED, log 54.) -/
def State.engineRead (s : State) (launch : Nat) (denied : Option Nat) (l : Loc) (n : Nat) : Xfer :=
  match l.dest with
  | .main =>
    let root := s.rootOf launch
    match s.faultIn root l.addr n .read with
    | some (k, va) => if denied == some (va / pageBytes) then .stop 1 else .fault k va
    | none =>
      if s.badVa root .read l.addr n then .stop 3
      else .ok (s.vaBytes root .read l.addr n) (s.cache root l.addr n .read)
  | .sh k c =>
    if s.shBad k c l.addr n then .stop 3
    else if (s.place? k c).isNone then
      let p := s.freeBytes n
      .ok p.1 p.2
    else .ok (bytesAt (s.shByte k c) l.addr n) s
  | .sp d => if s.spBad d l.addr n then .stop 3 else .ok (bytesAt (pubByte (s.die d).pubs) l.addr n) s
  | .bst c => .ok (bytesAt (tget zeros (s.core c).bst) l.addr n) s
  | .peer i =>
    if !s.peerUp (s.queueOf launch) i then .stop 5 else
    -- the peer answers with bytes, with an error, or with a check mismatch (R338, R340)
    match s.choose 3 with
    | (0, s) =>
      let p := s.freeBytes n
      .ok p.1 p.2
    | (1, _) => .stop 5
    | _ => .stop 7

/-- Whether n bytes may be written at a place for an engine (R50, R201, R202). (DEDUCED, log 33.) -/
def State.engineCheck (s : State) (launch : Nat) (denied : Option Nat) (l : Loc) (n : Nat) : Xfer :=
  match l.dest with
  | .main =>
    let root := s.rootOf launch
    if (touched l.addr n).any (s.codePage root) then .stop 2 else
    match s.faultIn root l.addr n .write with
    | some (k, va) => if denied == some (va / pageBytes) then .stop 2 else .fault k va
    | none => .ok [] (s.cache root l.addr n .write)
  | .peer i =>
    if !s.peerUp (s.queueOf launch) i then .stop 5 else
    match s.choose 2 with
    | (0, s) => .ok [] s
    | _ => .stop 5
  | _ => .ok [] s

/-- The landed bytes that a registered range remembers (R179, R180). -/
def State.keepLanded (s : State) (id : Nat) (cells : List Host.Cell) : State :=
  match aget s.ranges id with
  | some r => s.putRange id { r with data := r.data ++ cells }
  | none => s

/-- Bytes that land in a core's B store (R219). While an operation of the array is outstanding, the bytes before are kept for its
pass (R232). (DEDUCED, log 23.) -/
def Core.landB (c : Core) (cells : List Host.Cell) : Core :=
  { c with
    bst := tsets zeros c.bst cells
    blog := if c.queue.isEmpty && c.arriving.isEmpty then [] else c.blog ++ [cells.map fun x => (x.1, tget zeros c.bst x.1)] }

/-- Bytes of a landing written where it goes: main memory, the B store (discarded once the launch does not own the core any more, R220,
DEDUCED, log 44), a peer. Bytes of .sh and .sp stand in the range until its completion (R199). -/
def State.landBytes (s : State) (launch : Nat) (id : Nat) (l : Loc) (bs : List Byte) : State :=
  match l.dest with
  | .main => s.writeVa (s.rootOf launch) l.addr bs
  | .sh _ _ => s.keepLanded id (cellsAt l.addr bs)
  | .sp _ => s.keepLanded id (cellsAt l.addr bs)
  | .bst c =>
    if (s.core c).owner == some launch then s.putCore c ((s.core c).landB (cellsAt l.addr bs)) else s
  | .peer i => { s with replies := s.replies ++ [.toPeer i l.addr bs] }

/-- The indices of tile element n, dimension 0 fastest (R192, R193). -/
def indices : Nat → List Nat → List Nat
  | _, [] => []
  | n, e :: r => n % e :: indices (n / e) r

/-- Offset of tile element n in the destination range. -/
def CopyEntry.dstOff (e : CopyEntry) (n : Nat) : Nat := dot (indices n e.ext) e.dstride

/-- Source coordinates of tile element n; none when it is clipped (R192). -/
def CopyEntry.coords (e : CopyEntry) (n : Nat) : Option (List Nat) :=
  let i := indices n e.ext
  if !e.clip then some i else
  let c := List.zipWith (fun (o : Int) (k : Nat) => o + (k : Int)) e.origin i
  if (List.zip c e.bound).any fun q => decide (q.1 < 0) || decide ((q.2 : Int) ≤ q.1) then none
  else some (c.map Int.toNat)

/-- The bytes of a clipped element (R189). -/
def CopyEntry.fillBytes (e : CopyEntry) : List Byte :=
  ((List.range 4).flatMap fun _ => leBytes 4 e.fill.toNat).take e.size

/-- The watermark's offset once n elements have landed (R196). -/
def CopyEntry.markAt (e : CopyEntry) (n : Nat) : Nat := if n < e.elements then e.dstOff n else e.span

/-- An event of kind 8 for a launch's peer (R202, R341). -/
def State.peerEvent (s : State) (launch index : Nat) (addr : BitVec 64) : State :=
  s.sendEvent 8 (s.queueOf launch) (s.seqOf launch) (BitVec.ofNat 32 index) addr.toNat

/-- The peer index of a copy address. -/
def peerIndex (v : BitVec 64) : Nat := bits v 59 52

/-- A trouble of a peer is told to the host (R202): it is unavailable, or reports a check mismatch, which is reported as unavailability
(R201). (DESIGN CHOICE, log 14.) -/
def peerTrouble (err : Nat) : Bool := err == 5 || err == 7

/-- The error code of a trouble (R201, R207): a peer's check mismatch reads 3. -/
def errCode (err : Nat) : Nat := if err == 7 then 3 else err

/-- The choice of what a peer answers has been taken. -/
def State.told (s : State) (err : Nat) : State := if peerTrouble err then { s with fresh := s.fresh + 1 } else s

/-- A source that cannot be read switches the copy to its fallback, once, or fails it (R201, R202, R207). -/
def State.sourceStop (s : State) (key : Nat) (c : Copy) (e : CopyEntry) (err : Nat) : State :=
  let s := s.told err
  if e.useFb && !c.useFb then
    let s := if peerTrouble err then s.peerEvent c.launch (peerIndex e.src) e.src else s
    s.putCopy key { c with useFb := true, denied := none }
  else
    let s := if peerTrouble err && !e.useFb then s.peerEvent c.launch (peerIndex e.src) e.src else s
    s.putCopy key (c.stop (if c.useFb then 4 else errCode err))

/-- A destination that cannot be written fails the copy (R201, R202). -/
def State.destStop (s : State) (key : Nat) (c : Copy) (e : CopyEntry) (err : Nat) : State :=
  let s := if peerTrouble err && !e.useFb then s.peerEvent c.launch (peerIndex e.dst) e.dst else s
  s.putCopy key (c.stop (errCode err))

/-- A batch of a team, at a place of its die's order, that a copy need not see yet (R200, R414): the team has made no release at package scope since,
and no other core of the die has seen it. (DEDUCED, log 18.) -/
def State.mayHide (s : State) (die : Nat) (unseen : List Nat) (place : Nat) (p : Pub) : Bool :=
  p.kind == .batch && p.team.any fun t => unseen.contains t && (aget s.teams t).any fun y =>
    decide (y.released < place)
      && (List.range 64).all fun i => 64 * die + i == y.core || decide ((s.core (64 * die + i)).snap < place)

/-- Publications, newest first, without the newest n that may be hidden. (DEDUCED, log 18.) -/
def hideNewest (p : Nat → Pub → Bool) : Nat → List Pub → List Pub
  | _, [] => []
  | 0, l => l
  | n + 1, q :: r => if p (r.length + 1) q then hideNewest p n r else q :: hideNewest p (n + 1) r

/-- The publications of a die that a copy reads: which of the batches that it need not see are hidden is free (R414). (DESIGN CHOICE, log 3.) (DEDUCED, log 18.) -/
def State.pubsFor (s : State) (unseen : List Nat) (die : Nat) : List Pub × State :=
  let pubs := (s.die die).pubs
  if unseen.isEmpty then (pubs, s) else
  let may := s.mayHide die unseen
  let p := s.choose (1 + pubs.length - (hideNewest may pubs.length pubs).length)
  (hideNewest may p.1 pubs, p.2)

/-- Reading n bytes for a copy (R200). (DEDUCED, log 18.) -/
def State.copyRead (s : State) (c : Copy) (l : Loc) (n : Nat) : Xfer :=
  match l.dest with
  | .sp d =>
    if s.spBad d l.addr n then .stop 3 else
    let p := s.pubsFor c.unseen d
    .ok (bytesAt (pubByte p.1) l.addr n) p.2
  | _ => s.engineRead c.launch c.denied l n

/-- The source of the next element: its bytes, or Fill, with whether it is clipped. -/
def State.elementRead (s : State) (key : Nat) (c : Copy) (e : CopyEntry) : Xfer × Bool :=
  match e.coords c.next with
  | none => (.ok e.fillBytes s, true)
  | some i =>
    match s.resolveAddr c.cluster (key / 1024) (if c.useFb then e.fb else e.src) with
    | none =>
      let p := s.freeBytes e.size
      (.ok p.1 p.2, false)
    | some l => (s.copyRead c { l with addr := l.addr + dot i e.sstride } e.size, false)

/-- A copy behind its next element, landed from a source or clipped (R196, R207). -/
def Copy.landed (c : Copy) (clip : Bool) : Copy :=
  { c with next := c.next + 1, phase := .landing, clipped := c.clipped + (if clip then 1 else 0), denied := none,
           viaPrim := c.viaPrim || (!clip && !c.useFb), viaFb := c.viaFb || (!clip && c.useFb) }

/-- The watermark of a range moves (R196). -/
def State.setMark (s : State) (id mark : Nat) : State :=
  match aget s.ranges id with
  | some r => s.putRange id { r with mark := mark }
  | none => s

/-- The block of 4 KiB, as a virtual address, that landing element n completes: every byte of it has been written (R204). -/
def CopyEntry.blockDone (e : CopyEntry) (dst n : Nat) : Option Nat :=
  let a := dst + e.dstOff n
  let block := (a + e.size) / 4096 * 4096 - 4096
  if a + e.size < 4096 ∨ (a + e.size) / 4096 = a / 4096 then none else
  let k := (a - block + e.size - 1) / e.size
  if n < k then none else
  if dst + e.dstOff (n - k) + k * e.size == a && decide (dst + e.dstOff (n - k) ≤ block) then some block else none

/-- The form of a wholly written block of a page that allows compression is a free choice among those allowed (R204). -/
def State.chooseForm (s : State) (launch : Nat) (va : Nat) : State :=
  match s.xlate (s.rootOf launch) va .write with
  | .fault _ => s
  | .ok e =>
    if !e.c then s else
    let block := e.pa va / 4096
    let ws := (List.range 1024).map fun i => leWord (bytesAt s.memByte (4096 * block + 4 * i) 4)
    let n := if ws.all (· == ws.headD 0#32) then 3 else 2
    let p := s.choose n
    match p.1 with
    | 1 => { p.2 with forms := aput p.2.forms block .compressed }
    | 2 => { p.2 with forms := aput p.2.forms block .constant }
    | _ => p.2

/-- A range takes its place in its die's publication order or its core's order, once, its landed bytes with it (R170, R199); bytes bound for a
released allocation are discarded (R215). (DEDUCED, log 54.) -/
def State.placeRange (s : State) (id : Nat) : State :=
  match aget s.ranges id with
  | none => s
  | some r =>
    if r.place.isSome then s else
    let cells := r.data.filter fun c => !r.rewritten.contains c.1
    let p := s.take
    match r.dest with
    | .sp d =>
      let s := p.2.publish d { kind := .landing, core := none, cells := cells }
      s.putRange id { r with place := some (s.die d).pubs.length, ended := some p.1 }
    | .sh k c => (p.2.shWrite k c cells).putRange id { r with place := some p.1, ended := some p.1 }
    | _ => p.2.putRange id { r with place := some p.1, ended := some p.1 }

/-- The watermark moves behind n elements or units of a copy or walk; behind the last one its range takes its place (R196, R199). -/
def State.advanceMark (s : State) (id mark : Nat) (last : Bool) : State :=
  let s := s.setMark id mark
  if last then s.placeRange id else s

/-- The next element of a copy that does not combine (R196, R200 to R202, R204). (DESIGN CHOICE, log 15.) -/
def State.landElement (s : State) (key : Nat) (c : Copy) (e : CopyEntry) : State :=
  let die := dieOf (key / 1024)
  match s.elementRead key c e with
  | (.fault k va, _) => s.raiseFault die c.launch (.range c.range) k va
  | (.stop err, _) => s.sourceStop key c e err
  | (.ok bs s, clip) =>
    let l := { c.dst with addr := c.dst.addr + e.dstOff c.next }
    match s.engineCheck c.launch c.denied l e.size with
    | .fault k va => s.raiseFault die c.launch (.range c.range) k va
    | .stop err => (s.told err).destStop key c e err
    | .ok _ s =>
      let s := (s.landBytes c.launch c.range l bs).putCopy key (c.landed clip)
      let s := match c.dst.dest, e.blockDone c.dst.addr c.next with
        | .main, some va => s.chooseForm c.launch va
        | _, _ => s
      s.advanceMark c.range (e.markAt (c.next + 1)) (c.next + 1 == c.total)

/-- Combining two values (R205): a gathered value with a contribution. -/
def combineOp (op : Nat) (a c : Word) : Word :=
  match op with
  | 1 => a + c
  | 2 => if a.toInt ≤ c.toInt then a else c
  | 3 => if c.toInt ≤ a.toInt then a else c
  | 4 => if a.toNat ≤ c.toNat then a else c
  | 5 => if c.toNat ≤ a.toNat then a else c
  | 6 => BitVec.ofNat 32 (FFmt.f32.addB .rne false a.toNat c.toNat)
  | 7 => BitVec.ofNat 32 (FFmt.f32.minNumB false false a.toNat c.toNat)
  | _ => BitVec.ofNat 32 (FFmt.f32.minNumB false true a.toNat c.toNat)

/-- The contributions of a group for its next element, by rank; or the first trouble, with the member it meets. -/
def gather (s : State) : List (Nat × Copy × CopyEntry) →
    Except (Nat × Copy × CopyEntry × Xfer) (List (Nat × Word) × State)
  | [] => .ok ([], s)
  | m :: r =>
    match s.elementRead m.1 m.2.1 m.2.2 with
    | (.ok bs s, _) => (gather s r).map fun p => ((m.2.2.rank, leWord bs) :: p.1, p.2)
    | (t, _) => .error (m.1, m.2.1, m.2.2, t)

/-- Every member of a group stops with an error. (DESIGN CHOICE, log 14.) -/
def State.stopGroup (s : State) (g : List (Nat × Copy × CopyEntry)) (err : Nat) : State :=
  g.foldl (fun s m => s.putCopy m.1 (m.2.1.stop err)) s

/-- The destination of a group fails every member; a peer that is unavailable is told for each of them (R202). (DESIGN CHOICE, log 14.) -/
def State.destStopGroup (s : State) (g : List (Nat × Copy × CopyEntry)) (err : Nat) : State :=
  g.foldl (fun s m => s.destStop m.1 m.2.1 m.2.2 err) (s.told err)

/-- The destination's earlier value, rank −1 of a group with Acc set (R205): what has landed there before counts once it has passed the place. (DEDUCED, log 54.) -/
def State.earlier (s : State) (launch : Nat) (denied : Option Nat) (l : Loc) : Xfer :=
  match l.dest with
  | .sh k c => if s.shBad k c l.addr 4 then .stop 3 else .ok (bytesAt (s.shLatest k c) l.addr 4) s
  | .sp d => if s.spBad d l.addr 4 then .stop 3 else .ok (bytesAt (s.spLatest d) l.addr 4) s
  | _ => s.engineRead launch denied l 4

/-- The form of the block that a combined element completes in main memory is free as for any copy (R204). -/
def State.combinedForm (s : State) (c : Copy) (e : CopyEntry) : State :=
  match c.dst.dest, e.blockDone c.dst.addr c.next with
  | .main, some va => s.chooseForm c.launch va
  | _, _ => s

/-- The next element of a combine group (R205): the contributions in the order of their ranks, behind the destination's
earlier value when Acc is set. A contribution that cannot be read fails every member (DESIGN CHOICE, log 14). -/
def State.landCombined (s : State) (key : Nat) : State :=
  let g := s.groupOf key
  match g, gather s g with
  | [], _ => s
  | _, .error (k, c, _, .fault kind va) => s.raiseFault (dieOf (k / 1024)) c.launch (.range c.range) kind va
  | _, .error (_, c, e, .stop err) =>
    (if peerTrouble err then (s.told err).peerEvent c.launch (peerIndex e.src) e.src else s).stopGroup g (errCode err)
  | _, .error (_, _, _, .ok _ _) => s
  | (k, c, e) :: _, .ok (vs, s) =>
    let l := { c.dst with addr := c.dst.addr + e.dstOff c.next }
    match s.engineCheck c.launch c.denied l 4 with
    | .fault kind va => s.raiseFault (dieOf (k / 1024)) c.launch (.range c.range) kind va
    | .stop err => s.destStopGroup g err
    | .ok _ s =>
      match (if e.acc then s.earlier c.launch c.denied l else .ok [] s) with
      | .fault kind va => s.raiseFault (dieOf (k / 1024)) c.launch (.range c.range) kind va
      | .stop err => s.destStopGroup g (if err == 1 then 2 else err)
      | .ok old s =>
        let ranked := (List.range e.contrib).map fun r => ((vs.find? (·.1 == r)).map (·.2)).getD 0#32
        let vals := if e.acc then leWord old :: ranked else ranked
        let v := vals.tail.foldl (combineOp e.combine) (vals.headD 0#32)
        State.combinedForm (g.foldl (fun s m =>
          ((s.landBytes m.2.1.launch m.2.1.range l (leBytes 4 v.toNat)).putCopy m.1
            (m.2.1.landed (m.2.2.coords m.2.1.next).isNone)).advanceMark m.2.1.range (e.markAt (c.next + 1)) (c.next + 1 == c.total)) s) c e

/-- The end of a landing (R199, R201): its place, and a watermark at its end or frozen. A failure that no team can read any
more counts as read. -/
def State.closeRange (s : State) (id launch : Nat) (failed : Bool) : State :=
  let s := s.placeRange id
  match aget s.ranges id with
  | none => s
  | some r =>
    let over_ := match (aget s.launches launch).map (·.phase) with
      | some (.ending _ _) => true
      | some .ended => true
      | _ => false
    s.putRange id { r with done := true, failed := failed, mark := if failed then r.mark else r.len,
                           acked := r.acked || over_ }

/-- A range can be deregistered (R199): its landing has ended, a failure has been read, and in a gazetteer every counted
core has seen its place, and no range with an earlier place is left that has not failed. -/
def State.canDeregister (s : State) (r : Range) : Bool :=
  r.done && (!r.failed || r.acked) && (match r.dest with
    | .sp d => decide (r.place.getD 0 ≤ s.leastSnap d)
        && !s.ranges.any fun q => q.2.dest == r.dest && !q.2.failed && q.2.place.any fun p => decide (p < r.place.getD 0)
    | _ => true)

/-- A range leaves. -/
def State.dropRange (s : State) (id : Nat) : State := { s with ranges := adel s.ranges id }

/-- At completion a range of a landing unit is deregistered unless its failure has to be read, and an unregistered one goes;
with it the slot is free (R199). (DEDUCED, log 41.) -/
def State.retireAt (s : State) (id key : Nat) : State :=
  match aget s.ranges id with
  | none => { s with copies := adel s.copies key }
  | some r => match r.unit with
    | .unregistered => { s.dropRange id with copies := adel s.copies key }
    | .core _ => if s.canDeregister r then { s.dropRange id with copies := adel s.copies key } else s
    | .die _ => s

/-- A copy has landed everything, or has stopped. -/
def Copy.over (c : Copy) : Bool := c.open && !c.frozen && (c.err != 0 || c.next == c.total)

/-- No landing that is to complete landed its last byte before a range did: copies complete in that order (R199). (DEDUCED, log 54.) -/
def State.itsCompletion (s : State) (id : Nat) : Bool :=
  match (aget s.ranges id).bind (·.ended) with
  | none => true
  | some n => s.ranges.all fun q => q.2.done || q.2.ended.all fun m => decide (n ≤ m)

/-- A copy completes or fails (R199, R207, R208, R212): status, place, counter, barrier, slot, and the end of the launch
that waited for it. -/
def State.completeCopy (s : State) (key : Nat) (c : Copy) (bytes : Nat) : State :=
  let failed := c.err != 0
  let s := s.putCopy key { c with phase := if failed then .failed else .complete }
  let s := s.closeRange c.range c.launch failed
  let s := s.counterAdd c.counter (if c.incr == 0#32 then bytes else c.incr.toNat)
  let s := match c.bar with
    | none => s
    | some h => match s.barrier? h with
      | some b => s.putBarrier h (b.copyDone bytes failed)
      | none =>
        if barPeer h = 0 then s else
        let s := s.tellBarrier h 4 (-BitVec.ofNat 32 bytes)
        if failed then s.tellBarrier h 7 0#32 else s
  (s.retireAt c.range key).finishLaunch c.launch

end Sys2Proof.Machine
end

