-- ==== Sys2Proof/Machine/Graph.lean ====
section
/-!
DEFINITION. Graph images as the node engines read and write them (R265 to R269, R294), and the values that waves compute on
them (R284, R286).
-/

namespace Sys2Proof.Machine

/-- What stops an engine's work: a translation fault, with the die whose buffer its fill waits in; an uncorrectable error;
a check mismatch; a record that breaks R268; memory outside the engine's channel; an engine that is lost, with no spare for its channel; a compressed block met by a walk; a
translation that cannot be repaired; an edge weight that PROPF does not allow; a descent that is too deep. -/
inductive Halted
  | fault (die kind va : Nat)
  | column
  | mismatch
  | malformed
  | channel
  | lost
  | compressed
  | denied
  | weight
  | deep
  deriving DecidableEq, Repr

/-- What the engines of a graph see: the state, the graph, its address space, the page the host has answered unrepairable,
and whether block forms are seen (R204: by walks alone). -/
structure Eye where
  st     : State
  g      : Graph
  root   : BitVec 48
  refused : Option Nat
  forms  : Bool

/-- Stack and channel of a physical address, in either half (R20, R360). -/
def channelOf (pa : Nat) : Nat := 32 * (pa / 2 ^ 36 % 16) + pa / 2 ^ 31 % 32

/-- Stack, channel and node half of a physical address (R360), as the engine that serves it, when it lies in a node half. -/
def engineOf (pa : Nat) : Option Nat :=
  if pa / 2 ^ 30 % 2 = 1 then some (channelOf pa) else none

/-- A channel has no engine any more (R21, R294): it is retired, and its stack's spare has failed or serves another channel. (DEDUCED, log 40.) -/
def State.channelLost (s : State) (e : Nat) : Bool :=
  let own := s.engines.filter fun r => decide (r < 384) && r / 32 == e / 32
  if s.engines.contains (384 + e / 32) then own.contains e else own.tail.contains e

/-- An access of an engine meets a lost channel (R294, R301). -/
def State.lostAt (s : State) (root : BitVec 48) (va n : Nat) (a : Access) : Bool :=
  (touched va n).any fun v => ((s.pa? root v a).map fun p => s.channelLost (channelOf p)).getD false

/-- The die that an engine's stack stands beside (R15). -/
def dieOfEngine (e : Nat) : Nat := e / 96

/-- The pages of n bytes translate for an access of engine j; a write to the code region is refused at once (R50, R294). -/
def Eye.translates (y : Eye) (j va n : Nat) (a : Access) : Except Halted Unit :=
  if a == .write && (touched va n).any (y.st.codePage y.root) then .error .denied else
  match y.st.faultIn y.root va n a with
  | some (k, v) => .error (if y.refused == some (v / pageBytes) then .denied else .fault (dieOfEngine (y.g.first + j)) k v)
  | none => .ok ()

/-- A stored error in n bytes that an engine reads (R294, R364). -/
def State.engineError (s : State) (root : BitVec 48) (va n : Nat) (forms : Bool) : Option Halted :=
  let pas := (List.range n).filterMap fun i => s.pa? root (va + i) .read
  if pas.any fun p => s.channelLost (channelOf p) then some .lost
  else if pas.any fun p => s.errors.contains (.column (p / 32)) then some .column
  else if pas.any fun p => s.errors.contains (.main (p / 128)) then some .mismatch
  else if forms && pas.any fun p => aget s.forms (p / 4096) == some .compressed then some .compressed
  else none

/-- A partition of a graph image (R268). -/
structure Partition where
  nodes : Nat
  edges : Nat
  arrivals : Nat
  total : Nat
  bases : List Nat
  deriving DecidableEq, Repr

/-- A partition table entry (R268). -/
def parsePart (bs : List Byte) : Partition :=
  { nodes := (word64 bs 0).toNat, edges := (word64 bs 8).toNat, arrivals := (word64 bs 16).toNat, total := nat32 bs 24,
    bases := (List.range 8).map fun k => (word64 bs (32 + 8 * k)).toNat }

/-- Format and count of a slot (R267). -/
def Graph.slot (g : Graph) (k : Nat) : Nat × Nat := g.slots.getD k (0, 1)

/-- Element bytes of a slot format (R267). -/
def fmtBytes : Nat → Nat
  | 0 => 0 | 1 => 2 | 2 => 2 | _ => 4

/-- Stride of a slot of z vector bytes (R267). -/
def strideOf (z : Nat) : Nat := 32 * max 1 ((z + 31) / 32)

/-- A check that fails: its subcode and the field it concerns (R276). -/
abbrev Bad := Nat × Nat

/-- Failing checks as a list. -/
def failing (cs : List (Bool × Nat × Nat)) : List Bad := (cs.filter fun c => !c.1).map (·.2)

/-- The arrays of partition j: field, address, bytes (R265, R267, R268). -/
def Graph.spans (g : Graph) (j : Nat) (p : Partition) : List (Nat × Nat × Nat) :=
  let local_ := (g.count + g.engines - 1 - j) / g.engines
  [(0, p.nodes, 16 * local_), (8, p.edges, 8 * p.total), (16, p.arrivals, 4 * local_)]
    ++ ((List.range 8).filter fun k => (g.slot k).1 != 0).map fun k =>
      (32 + 8 * k, p.bases.getD k 0, strideOf (fmtBytes (g.slot k).1 * (g.slot k).2) * local_)

/-- The checks of R268 on partition j: reserved bytes and alignment. -/
def Graph.partChecks (g : Graph) (j : Nat) (bs : List Byte) : List Bad :=
  failing ([(zeroBytes bs 28 32, 9, 28), (zeroBytes bs 96 128, 9, 96)]
    ++ (g.spans j (parsePart bs)).map fun q => (q.2.1 % 32 == 0, 9, q.1))

/-- Address of partition j's entry in the partition table. -/
def Graph.partVa (g : Graph) (j : Nat) : Nat := g.table + 128 * j

/-- The bytes of partition j's entry as they are now (R269). -/
def Eye.partBytes (y : Eye) (j : Nat) : List Byte := y.st.vaBytes y.root .read (y.g.partVa j) 128

/-- Partition j of a graph, as its entry holds it now (R269). -/
def Eye.part (y : Eye) (j : Nat) : Partition := parsePart (y.partBytes j)

/-- The entry of partition j can be read, and does not break R268 (R269). -/
def Eye.partOk (y : Eye) (j : Nat) : Except Halted Unit := do
  y.translates j (y.g.partVa j) 128 .read
  match y.st.engineError y.root (y.g.partVa j) 128 y.forms with
  | some e => throw e
  | none => if (y.g.partChecks j (y.partBytes j)).isEmpty then pure () else throw .malformed

/-- The engine of partition j reaches n bytes for an access: its entry is well-formed, and the pages translate and lie in its
channel (R268, R269, R294). -/
def Eye.reach (y : Eye) (j va n : Nat) (a : Access) : Except Halted Unit := do
  y.partOk j
  y.translates j va n a
  if !(touched va n).all fun v => ((y.st.pa? y.root v a).bind engineOf) == some (y.g.first + j) then throw .channel
  if y.st.lostAt y.root va n a then throw .lost

/-- n bytes that the engine of partition j reads. -/
def Eye.read (y : Eye) (j va n : Nat) : Except Halted (List Byte) := do
  y.reach j va n .read
  match y.st.engineError y.root va n y.forms with
  | some e => throw e
  | none => pure (y.st.vaBytes y.root .read va n)

/-- The partition of a node, and its local index (R265). -/
def Graph.home (g : Graph) (n : Nat) : Nat × Nat := (n % g.engines, n / g.engines)

/-- A node table entry (R268). -/
structure GNode where
  kind  : Nat
  pres  : Nat
  prop  : Word
  first : Nat
  count : Nat
  deriving DecidableEq

/-- Address of a node's table entry. -/
def Eye.nodeVa (y : Eye) (n : Nat) : Nat := (y.part (y.g.home n).1).nodes + 16 * (y.g.home n).2

/-- A node's table entry; reserved bits that are set break R268. -/
def Eye.node (y : Eye) (n : Nat) : Except Halted GNode := do
  let bs ← y.read (y.g.home n).1 (y.nodeVa n) 16
  let w := word32 bs 0
  if bits w 31 16 ≠ 0 ∨ bits w 7 4 ≠ 0 then throw .malformed
  pure ⟨bits w 3 0, bits w 15 8, word32 bs 4, nat32 bs 8, nat32 bs 12⟩

/-- A node holds a slot. -/
def GNode.holds (n : GNode) (slot : Nat) : Bool := n.pres / 2 ^ slot % 2 == 1

/-- An edge record (R268). -/
structure GEdge where
  target : Nat
  kind   : Nat
  weight : Nat
  deriving DecidableEq

/-- The edge records in a list of bytes, checked: targets below Nn, reserved bits 0, types ascending from a type. -/
def parseEdges (nn : Nat) : Nat → List (List Byte) → Except Halted (List GEdge)
  | _, [] => .ok []
  | least, b :: r =>
    let v := word64 b 0
    let e : GEdge := ⟨bits v 31 0, bits v 35 32, bits v 63 48⟩
    if bits v 47 36 ≠ 0 ∨ nn ≤ e.target ∨ e.kind < least then .error .malformed
    else (parseEdges nn e.kind r).map (e :: ·)

/-- A node's edges, by edge index. -/
def Eye.edges (y : Eye) (n : Nat) : Except Halted (List GEdge) := do
  let v ← y.node n
  let p := y.part (y.g.home n).1
  if p.total < v.first + v.count then throw .malformed
  let bs ← y.read (y.g.home n).1 (p.edges + 8 * v.first) (8 * v.count)
  parseEdges y.g.count 0 (chunks 8 v.count bs)

/-- A floating slot format. -/
def fmtFloat (f : Nat) : Bool := decide (1 ≤ f) && decide (f ≤ 3)

/-- The floating format of a slot format code. -/
def fmtOf (f : Nat) : FFmt := if f = 1 then .f16 else if f = 2 then .bf16 else .f32

/-- Address of the vector of a node's slot (R268). -/
def Eye.slotVa (y : Eye) (n k : Nat) : Nat :=
  let f := y.g.slot k
  (y.part (y.g.home n).1).bases.getD k 0 + (y.g.home n).2 * strideOf (fmtBytes f.1 * f.2)

/-- The elements of a node's slot, as its vector holds them. -/
def Eye.slot (y : Eye) (n k : Nat) : Except Halted (List Word) := do
  let f := y.g.slot k
  if f.1 = 0 then pure [] else
    let z := fmtBytes f.1
    let bs ← y.read (y.g.home n).1 (y.slotVa n k) (z * f.2)
    pure ((chunks z f.2 bs).map leWord)

/-- A write of an engine: the partition, the address, the bytes. -/
structure GWrite where
  part : Nat
  va   : Nat
  bs   : List Byte

/-- The write of a slot's vector. -/
def Eye.slotWrite (y : Eye) (n k : Nat) (v : List Word) : GWrite :=
  let z := fmtBytes (y.g.slot k).1
  ⟨(y.g.home n).1, y.slotVa n k, v.flatMap fun w => leBytes z w.toNat⟩

/-- The write of a presence bit: the second byte of a node's entry. -/
def Eye.presWrite (y : Eye) (n : Nat) (pres k : Nat) (on : Bool) : GWrite :=
  let b := pres % 256 - (if pres / 2 ^ k % 2 = 1 then 2 ^ k else 0) + (if on then 2 ^ k else 0)
  ⟨(y.g.home n).1, y.nodeVa n + 1, [BitVec.ofNat 8 b]⟩

/-- Address of a node's arrival counter. -/
def Eye.arrivalVa (y : Eye) (n : Nat) : Nat := (y.part (y.g.home n).1).arrivals + 4 * (y.g.home n).2

/-- A node's arrival counter. -/
def Eye.arrivals (y : Eye) (n : Nat) : Except Halted Nat := do
  let bs ← y.read (y.g.home n).1 (y.arrivalVa n) 4
  pure (leNat bs)

/-- The write of an arrival counter, which saturates (R289). -/
def Eye.arrivalWrite (y : Eye) (n v : Nat) : GWrite := ⟨(y.g.home n).1, y.arrivalVa n, leBytes 4 (min v (2 ^ 32 - 1))⟩

/-- Every page that a list of writes reaches translates, and lies in its engine's channel. -/
def Eye.canWrite (y : Eye) (ws : List GWrite) : Except Halted Unit :=
  ws.foldlM (fun _ w => y.reach w.part w.va w.bs.length .write) ()

/-- A list of writes performed at one moment. -/
def State.graphWrite (s : State) (root : BitVec 48) (ws : List GWrite) : State :=
  ws.foldl (fun s w => s.writeVa root w.va w.bs) s

/-- The pattern of a record (R283): hi is the record's, or Nn when that is 0. -/
def WaveRec.top (r : WaveRec) (g : Graph) : Nat := if r.hi = 0 then g.count else r.hi

/-- Nodes of a record's range. -/
def WaveRec.range (r : WaveRec) (g : Graph) : List Nat := (List.range (r.top g - r.lo)).map (r.lo + ·)

/-- A node matches a pattern (R283). -/
def WaveRec.admits (r : WaveRec) (v : GNode) : Bool :=
  r.types / 2 ^ v.kind % 2 == 1 && (v.prop &&& r.pmask) == r.pcmp
    && (BitVec.ofNat 8 v.pres &&& BitVec.ofNat 8 r.present) == BitVec.ofNat 8 r.present
    && (BitVec.ofNat 8 v.pres &&& BitVec.ofNat 8 r.absent) == 0#8

/-- Nodes of a list that a test accepts, with their entries. -/
def Eye.select (y : Eye) (p : GNode → Bool) : List Nat → Except Halted (List (Nat × GNode))
  | [] => .ok []
  | n :: r => do
    let v ← y.node n
    let rest ← y.select p r
    pure (if p v then (n, v) :: rest else rest)

/-- An element widened exactly to FP32; N32 stays (R286). -/
def widen (f : Nat) (e : Word) : Word :=
  if fmtFloat f then BitVec.ofNat 32 ((fmtOf f).convert .f32 .rne false false e.toNat) else e

/-- An FP32 value rounded to a slot format; N32 stays (R286: overflow by R64 under RNE). -/
def narrow (f : Nat) (e : Word) : Word :=
  if fmtFloat f then BitVec.ofNat 32 (FFmt.f32.convert (fmtOf f) .rne false false e.toNat) else e

/-- An element converted between slot formats (R284). -/
def slotConvert (src dst : Nat) (e : Word) : Word :=
  if fmtFloat src then
    if fmtFloat dst then BitVec.ofNat 32 ((fmtOf src).convert (fmtOf dst) .rne false false e.toNat)
    else BitVec.ofInt 32 (((fmtOf src).decode e.toNat).toRange .rne 0 (2 ^ 32 - 1))
  else if fmtFloat dst then BitVec.ofNat 32 ((fmtOf dst).round .rne false (FVal.ofInt e.toNat))
  else e

/-- The contribution of an element along an edge (R286): a NaN by R68, the element first. -/
def transfer (f tr w : Nat) (e : Word) : Word :=
  if !fmtFloat f then e else
  let ww := FFmt.f16.convert .f32 .rne false false w
  match tr with
  | 1 => BitVec.ofNat 32 (FFmt.f32.mulB .rne false e.toNat ww)
  | 2 => BitVec.ofNat 32 (FFmt.f32.addB .rne false e.toNat ww)
  | _ => e

/-- Two gathered elements of a destination format combined (R286). -/
def fold2 (cb f : Nat) (a b : Word) : Word :=
  if fmtFloat f then
    match cb with
    | 0 => BitVec.ofNat 32 (FFmt.f32.addB .rne false a.toNat b.toNat)
    | 1 => BitVec.ofNat 32 (FFmt.f32.minNumB false true a.toNat b.toNat)
    | 2 => BitVec.ofNat 32 (FFmt.f32.minNumB false false a.toNat b.toNat)
    | _ => a
  else
    match cb with
    | 0 => a + b
    | 1 => if b.toNat ≤ a.toNat then a else b
    | 2 => if a.toNat ≤ b.toNat then a else b
    | 3 => a ||| b
    | 4 => a &&& b
    | _ => a

/-- The number of contributions as the result of count (R286): held is the value held under Acc. (DEDUCED, log 32.) -/
def countResult (f n : Nat) (held : Option Word) : Word :=
  if fmtFloat f then
    let h := (held.map fun e => FFmt.f32.decode (widen f e).toNat).getD (.fin false 0 0)
    narrow f (BitVec.ofNat 32 (match h with
      | .nan neg fr => FFmt.f32.nanTo .f32 neg fr
      | h => FFmt.f32.deliver .rne false (h.add false (FVal.ofInt n))))
  else BitVec.ofNat 32 (min ((held.map (·.toNat)).getD 0 + n) (2 ^ 32 - 1))

/-- The combine of a node's contributions in canonical order (R286): f and n are the destination's format and count; held
is the value held when it counts. -/
def combineAll (cb f n : Nat) (got : List (List Word)) (held : Option (List Word)) : List Word :=
  if f = 0 then []
  else if cb = 6 then List.replicate n (countResult f got.length (held.map (·.headD 0#32)))
  else
    let vs := (held.map fun v => v.map (widen f)).toList ++ got
    (List.range n).map fun k =>
      let es := vs.map fun v => v.getD k 0#32
      narrow f (es.tail.foldl (fold2 cb f) (es.headD 0#32))

end Sys2Proof.Machine
end

