-- ==== Sys2Proof/Machine/WaveEngine.lean ====
section
/-!
DEFINITION. The wave sequencer's work: holds between waves (R290, R291), starting a wave, a hop, a delivery, what its ranges
land (R284 to R289, R292, R293), its end and its retirement (R274, R278, R282).
-/

namespace Sys2Proof.Machine

/-- Slot fields of a control word. -/
def WaveRec.slotA (r : WaveRec) : Nat := bits r.control 2 0
def WaveRec.slotB (r : WaveRec) : Nat := bits r.control 5 3
def WaveRec.mode (r : WaveRec) : Nat := bits r.control 4 3
def WaveRec.copySlot (r : WaveRec) : Nat := bits r.control 7 5
def WaveRec.combine (r : WaveRec) : Nat := bits r.control 11 9
def WaveRec.acc (r : WaveRec) : Bool := r.control.getLsbD 12
def WaveRec.flag3 (r : WaveRec) : Bool := r.control.getLsbD 3

/-- The transfer; count ignores it (R285). -/
def WaveRec.transfer (r : WaveRec) : Nat := if r.combine = 6 then 0 else bits r.control 8 6

/-- Slots named by the Present and Absent masks. -/
def WaveRec.maskSlots (r : WaveRec) : List Nat :=
  (List.range 8).filter fun k => r.present / 2 ^ k % 2 == 1 || r.absent / 2 ^ k % 2 == 1

/-- Resources that a wave reads (R290, R310): slots 0 to 7; 8 stands for the arrival counters read. -/
def Wave.reads (w : Wave) : List Nat :=
  let r := w.wrec
  match w.op with
  | .mark => r.maskSlots ++ (if r.mode = 2 then [r.copySlot] else [])
  | .clear => r.maskSlots
  | .prop => r.slotA :: (if r.acc then [r.slotB] else [])
  | .propf => [r.slotA, r.slotB]
  | .collect => r.maskSlots ++ [r.slotA]
  | .collectg => r.maskSlots ++ [r.slotA]
  | .ncount => [8]
  | .descend => [r.slotA]

/-- Resources that a wave writes: 8 the arrival counters cleared, 9 added to. -/
def Wave.writes (w : Wave) : List Nat :=
  let r := w.wrec
  match w.op with
  | .mark => [r.slotA]
  | .clear => [r.slotA]
  | .prop => [r.slotB, 9]
  | .propf => [r.slotB, 9]
  | .collect => []
  | .collectg => []
  | .ncount => [8]
  | .descend => []

/-- A wave conflicts with an earlier one (R291). -/
def Wave.clashes (w v : Wave) : Bool :=
  let slots := fun (l : List Nat) => l.filter (· < 8)
  (slots w.reads).any v.writes.contains
    || (slots w.writes).any (fun k => v.reads.contains k || v.writes.contains k)
    || (w.op == .ncount && (v.writes.contains 9 || v.op == .ncount))
    || (w.writes.contains 9 && v.op == .ncount)

/-- A wave has not ended. -/
def Wave.open (w : Wave) : Bool := w.phase == .held || w.phase == .running

/-- A wave is held behind an earlier unended wave of its graph (R291). -/
def State.waveHeld (s : State) (w : Wave) : Bool :=
  s.waves.any fun v => v.2.graph == w.graph && decide (v.2.seqNo < w.seqNo) && v.2.open && w.clashes v.2

/-- What the engines see for a wave. -/
def State.eye (s : State) (w : Wave) : Eye :=
  { st := s, g := s.graph w.graph, root := s.rootOf w.launch, refused := w.denied, forms := false }

/-- The error field of a wave for what halted it (R277). -/
def Halted.waveError : Halted → Nat
  | .fault _ _ _ => 0
  | .column => 1
  | .mismatch => 1
  | .malformed => 2
  | .channel => 5
  | .lost => 6
  | .compressed => 2
  | .denied => 4
  | .weight => 3
  | .deep => 2

/-- A wave that met a translation fault parks; any other halt ends it in error (R277, R294). -/
def State.waveHalt (s : State) (place : Nat) (w : Wave) (h : Halted) : State :=
  match h with
  | .fault die k va => (s.putWave place { w with parked := true }).raiseFault die w.launch (.wave place) k va
  | h => s.putWave place { w with err := h.waveError, phase := .running }

/-- No fill of a wave waits for the host's answer. -/
def State.waveIdle (s : State) (place : Nat) : Bool :=
  s.dies.all fun d => !(d.2.faults ++ d.2.waiting).any fun f => f.who == .wave place

/-- The result of a piece of engine work on a wave: what it writes, and the wave after it. -/
abbrev Work := Except Halted (List GWrite × Wave)

/-- Engine work performed at one moment: all of its writes or none (R287, DESIGN CHOICE, log 15). -/
def State.perform (s : State) (place : Nat) (w : Wave) (k : Work) : State :=
  match k with
  | .error h => s.waveHalt place w h
  | .ok (ws, w') => match (s.eye w).canWrite ws with
    | .error h => s.waveHalt place w h
    | .ok _ => (s.graphWrite (s.rootOf w.launch) ws).putWave place { w' with parked := false, denied := none }

/-- MARK and CLEAR (R283, R284): matching is decided on the bits at the wave's start. -/
def markWork (y : Eye) (w : Wave) : Work := do
  let r := w.wrec
  let t := r.slotA
  let f := y.g.slot t
  let hits ← y.select r.admits (r.range y.g)
  let ws ← hits.mapM fun q => do
    let pres := y.presWrite q.1 q.2.pres t (w.op == .mark)
    if w.op == .mark && r.mode == 1 then
      pure [pres, y.slotWrite q.1 t (List.replicate f.2 r.fill)]
    else if w.op == .mark && r.mode == 2 then
      let v ← y.slot q.1 r.copySlot
      pure [pres, y.slotWrite q.1 t (v.map (slotConvert (y.g.slot r.copySlot).1 f.1))]
    else pure [pres]
  pure (ws.flatten, w)

/-- Contributions along the enabled edges of a node (R286). weigh refuses a weight (R288). (DEDUCED, log 32.) -/
def Eye.sends (y : Eye) (r : WaveRec) (u slot : Nat) (weigh : Nat → Bool) : Except Halted (List Contribution) := do
  let f := (y.g.slot slot).1
  let v ← y.slot u slot
  let es ← y.edges u
  let on := es.filter fun e => r.edgeMask / 2 ^ e.kind % 2 == 1
  if on.any fun e => weigh e.weight then throw .weight
  pure (on.map fun e => ⟨e.target, (v.map (widen f)).map (transfer f r.transfer e.weight)⟩)

/-- A number put into an ascending list without repeats. -/
def insertNat (n : Nat) : List Nat → List Nat
  | [] => [n]
  | a :: r => if n < a then n :: a :: r else if n = a then a :: r else a :: insertNat n r

/-- One hop of a level-mode wave (R287): the frontier's sends in canonical order, the combine at each receiver, everything
committed at one moment. (DESIGN CHOICE, log 15.) -/
def hopWork (y : Eye) (w : Wave) : Work := do
  let r := w.wrec
  let d := r.slotB
  let f := y.g.slot d
  let sent ← w.frontier.mapM fun u => y.sends r u (if w.hops = 0 then r.slotA else d) fun _ => false
  let got := sent.flatten
  let nodes := (got.map (·.node)).foldr insertNat []
  let res ← nodes.mapM fun v => do
    let e ← y.node v
    let old ← if e.holds d then y.slot v d else pure []
    let n ← y.arrivals v
    let mine := (got.filter (·.node == v)).map (·.elems)
    let new := combineAll r.combine f.1 f.2 mine (if r.acc && e.holds d then some old else none)
    let changed : Bool := !r.acc || !e.holds d || new != old
    pure (v, changed, [y.presWrite v e.pres d true, y.arrivalWrite v (n + mine.length)]
      ++ (if f.1 = 0 then [] else [y.slotWrite v d new]))
  let next := (res.filter (·.2.1)).map (·.1)
  let h := w.hops + 1
  pure ((res.map (·.2.2)).flatten, { w with hops := h, frontier := next, limit := decide (r.hops ≤ h) && !next.isEmpty })

/-- A weight that ends a PROPF in error (R288): under min a negative one, under max a positive one; a NaN in both. -/
def badWeight (r : WaveRec) (w : Nat) : Bool :=
  r.transfer == 2 && (match FFmt.f16.decode w with
    | .nan _ _ => true
    | .inf neg => neg == (r.combine == 2)
    | .fin neg m _ => m != 0 && neg == (r.combine == 2))

/-- The first sends of a PROPF (R288). -/
def freeStart (y : Eye) (w : Wave) : Work := do
  let r := w.wrec
  let start ← y.select (·.holds r.slotA) (List.range y.g.count)
  let sent ← start.mapM fun q => y.sends r q.1 r.slotA (badWeight r)
  pure ([], { w with sends := sent.flatten })

/-- One delivery of a PROPF, or the sends of a node whose slot has changed since it last sent (R288, R289): n chooses. (DESIGN CHOICE, log 15.) -/
def freeWork (y : Eye) (w : Wave) (n : Nat) : Work := do
  let r := w.wrec
  let d := r.slotB
  let f := y.g.slot d
  match w.sends[n]? with
  | some c =>
    let e ← y.node c.node
    let old ← if e.holds d then y.slot c.node d else pure []
    let a ← y.arrivals c.node
    let new := combineAll r.combine f.1 f.2 [c.elems] (if e.holds d then some old else none)
    let changed : Bool := !e.holds d || new != old
    let ws := [y.arrivalWrite c.node (a + 1)] ++ (if !changed then [] else
      [y.presWrite c.node e.pres d true] ++ (if f.1 = 0 then [] else [y.slotWrite c.node d new]))
    pure (ws, { w with sends := w.sends.eraseIdx n, frontier := if changed then insertNat c.node w.frontier else w.frontier })
  | none =>
    match w.frontier[n - w.sends.length]? with
    | some u =>
      let sent ← y.sends r u d (badWeight r)
      pure ([], { w with sends := w.sends ++ sent, frontier := w.frontier.filter (· != u) })
    | none => pure ([], w)

/-- The entries that COLLECT finds, in ascending node order (R292, R293). -/
def collectData (y : Eye) (r : WaveRec) : Except Halted (List (List Byte)) := do
  let t := r.slotA
  let f := y.g.slot t
  let hits ← y.select (fun v => r.admits v && v.holds t) (r.range y.g)
  hits.mapM fun q => do
    if r.flag3 && f.1 != 0 then
      let v ← y.slot q.1 t
      let bs := v.flatMap fun e => leBytes (fmtBytes f.1) e.toNat
      pure (leBytes 4 q.1 ++ bs ++ List.replicate ((4 - bs.length % 4) % 4) 0#8)
    else pure (leBytes 4 q.1)

/-- The sources of each node of the range, in canonical order (R293). -/
def collectgData (y : Eye) (r : WaveRec) : Except Halted (List (List (List Byte))) := do
  let holders ← y.select (·.holds r.slotA) (List.range y.g.count)
  let edges ← holders.mapM fun q => do
    let es ← y.edges q.1
    pure ((es.filter fun e => r.edgeMask / 2 ^ e.kind % 2 == 1).map fun e => (q.1, e))
  let all := edges.flatten
  (r.range y.g).mapM fun v => do
    let e ← y.node v
    pure (if !r.admits e then [] else
      (all.filter fun q => q.2.target == v).map fun q =>
        leBytes 4 q.1 ++ (if r.flag3 then leBytes 4 q.2.weight else []))

/-- Offsets: how many sources stand before each node of the range (R293). -/
def offsetsOf : Nat → List Nat → List Nat
  | n, [] => [n]
  | n, k :: r => n :: offsetsOf (n + k) r

/-- What a wave with landings will land, per range; how much it found; what it writes (R292, R293). -/
def gatherData (y : Eye) (w : Wave) : Except Halted (List (List Byte) × Nat × List GWrite) := do
  let r := w.wrec
  match w.op with
  | .collect =>
    let es ← collectData y r
    pure ([(es.take r.cap).flatten], es.length, [])
  | .collectg =>
    let vs ← collectgData y r
    let all := vs.flatten
    let offs := offsetsOf 0 (vs.map (·.length))
    pure ([(all.take r.cap).flatten, offs.flatMap (leBytes 4)], all.length, [])
  | _ =>
    let ns ← (r.range y.g).mapM fun v => do
      let n ← y.arrivals v
      pure (v, n)
    pure ([ns.flatMap fun q => leBytes 4 q.2], 0, ns.map fun q => y.arrivalWrite q.1 0)

/-- Bytes given to ranges, in order. -/
def State.fillRanges (s : State) : List Nat → List (List Byte) → State
  | id :: r, bs :: br => match aget s.ranges id with
    | some q => (s.putRange id { q with bytes := bs }).fillRanges r br
    | none => s.fillRanges r br
  | _, _ => s

/-- A wave starts (R287, R288, R291): sweeps are performed, frontiers are read, landings are gathered. -/
def State.startWave (s : State) (place : Nat) (w : Wave) : State :=
  let y := s.eye w
  let go := { w with phase := WavePhase.running }
  match w.op with
  | .mark => s.perform place w (markWork y go)
  | .clear => s.perform place w (markWork y go)
  | .prop => s.perform place w (do
      let f ← y.select (·.holds w.wrec.slotA) (List.range y.g.count)
      pure ([], { go with frontier := f.map (·.1) }))
  | .propf => s.perform place w (freeStart y go)
  | .descend => s.putWave place go
  | _ =>
    match gatherData y w with
    | .error h => s.waveHalt place w h
    | .ok (data, found, ws) =>
      let go := { go with found := found, trunc := w.op != WaveOp.ncount && decide (w.wrec.cap < found) }
      match y.canWrite ws with
      | .error h => s.waveHalt place w h
      | .ok _ =>
        ((s.graphWrite y.root ws).putWave place { go with parked := false, denied := none }).fillRanges w.ranges data

/-- The next word of a wave's landing (R293, R196). -/
def State.landWave (s : State) (id : Nat) (r : Range) (launch : Nat) : State :=
  let bs := r.bytes.take 4
  let s := s.landBytes launch id ⟨r.dest, r.start + r.mark⟩ bs
  match aget s.ranges id with
  | some q => s.putRange id { q with mark := q.mark + bs.length, bytes := q.bytes.drop 4 }
  | none => s

/-- Everything that a wave lands has landed. -/
def State.waveLanded (s : State) (w : Wave) : Bool :=
  w.ranges.all fun id => ((aget s.ranges id).map (·.bytes.isEmpty)).getD true

/-- A wave has done its work, or has met an error (R277, R287, R288). -/
def State.waveOver (s : State) (w : Wave) : Bool :=
  w.open && !w.frozen && (w.err != 0 || (w.phase == .running && (match w.op with
    | .mark => true
    | .clear => true
    | .prop => decide (0 < w.hops) && (w.frontier.isEmpty || decide (w.wrec.hops ≤ w.hops))
    | .propf => w.sends.isEmpty && w.frontier.isEmpty
    | .descend => false
    | _ => s.waveLanded w)))

/-- A graph that is to be unbound is, once its waves have been retired (R282). -/
def State.settleUnbind (s : State) (place : Nat) : State :=
  let g := s.graph place
  if g.unbind.isNone || s.waves.any (fun w => w.2.graph == place) then s
  else (s.putGraph place { gen := (g.gen + 1) % 256 }).complete (.gunbind place g.gen)

/-- A wave is retired (R278): its place is free; a graph and a launch may have waited for it. -/
def State.retireWave (s : State) (place : Nat) (w : Wave) : State :=
  (({ s with waves := adel s.waves place }.settleUnbind w.graph).finishLaunch w.launch)

/-- Writing a count (R293): a 64-bit value at a counter's location. -/
def State.counterPut (s : State) (loc : CounterLoc) (n : Nat) : State :=
  match loc with
  | .none => s
  | .sp d a => s.publishAtomic d none false s.nextId (cellsAt a (leBytes 8 n))
  | .sh k c a => s.shStore k c (cellsAt a (leBytes 8 n))

/-- The ranges of a wave that can be deregistered at its end leave (R199, R278). -/
def State.retireRanges (s : State) (ids : List Nat) : State :=
  ids.foldl (fun s id => match aget s.ranges id with
    | some r => match r.unit with
      | .die _ => s
      | _ => if s.canDeregister r then s.dropRange id else s
    | none => s) s

/-- The end of a wave, in the order of R274: landings, count, status, counter add, flag; then its retirement (R278). The
hops of a free-mode wave are a free value (DEDUCED, log 16). -/
def State.endWave (s : State) (place : Nat) (w : Wave) : State :=
  let failed := w.err != 0
  let s := w.ranges.foldl (fun s id => s.closeRange id w.launch failed) s
  let s := s.counterPut w.wrec.countRef w.found
  let free := w.op == .propf
  let w := { w with
    phase := if failed then .failed else .ended
    hops := if free then Config.freeNat s.fresh % 256 else w.hops }
  let s := { s with fresh := if free then s.fresh + 1 else s.fresh }.putWave place w
  let s := s.counterAdd w.counter (if w.incr == 0#32 then 1 else w.incr.toNat)
  let s := (s.complete (.wave w.handle)).retireRanges w.ranges
  if w.ranges.any fun id => (aget s.ranges id).isSome then s else s.retireWave place w

/-- The lowest free wave place (R270, DESIGN CHOICE, log 8). -/
def State.wavePlace (s : State) : Option Nat := lowest 64 fun p => (aget s.waves p).isNone

/-- Ranges in these units are free, counting repeats (R195). -/
def State.rangesFree (s : State) (us : List RangeUnit) : Bool :=
  us.all fun u => match u with
    | .unregistered => true
    | .core _ => decide ((s.ranges.filter fun r => r.2.unit == u).length + (us.filter (· == u)).length ≤ Config.landingRanges)
    | .die _ => decide ((s.ranges.filter fun r => r.2.unit == u).length + (us.filter (· == u)).length ≤ Config.gazetteerRanges)

/-- The graph that a handle names for a launch (R276 subcode 2, R281, R282). -/
def State.graphOf (s : State) (launch : Nat) (h : Word) : Option Nat :=
  let g := s.graph (bits h 5 0)
  if bits h 31 14 = 0 ∧ g.live ∧ g.unbind = none ∧ g.gen = bits h 13 6 ∧ g.launch = launch then some (bits h 5 0) else none

end Sys2Proof.Machine
end

