-- ==== Sys2Proof/Machine/WalkEngine.lean ====
section
/-!
DEFINITION. The walks of the node engines: EMBED (R303 to R305), DESCEND (R306 to R310) with its side list (R311, R315, R316),
their reads and landings (R301), their end (R299, R300).
-/

namespace Sys2Proof.Machine

/-- The error of a completion record for what halted a walk (R300). -/
def Halted.walkError : Halted → Nat
  | .fault _ _ _ => 0
  | .column => 4
  | .mismatch => 3
  | .malformed => 1
  | .channel => 1
  | .lost => 8
  | .compressed => 5
  | .denied => 2
  | .weight => 1
  | .deep => 7

/-- A walk's read of n bytes (R301): an array in .sh or .sp as a copy reads it, main memory with its block forms. An array
element beyond its space breaks the record (DEDUCED, log 17). -/
def State.walkRead (s : State) (c : Copy) (die : Nat) (l : Loc) (n : Nat) : Except Halted (List Byte) :=
  if !s.inSpace c.launch l n then .error .malformed else
  match s.engineRead c.launch c.denied l n with
  | .fault k va => .error (.fault die k va)
  | .stop err => .error (if err = 1 then .denied else .mismatch)
  | .ok bs _ =>
    match l.dest with
    | .main => match s.engineError (s.rootOf c.launch) l.addr n true with
      | some h => .error h
      | none => .ok bs
    | _ => .ok bs

/-- A copy address of a walk record, resolved for its core. -/
def State.walkLoc (s : State) (key : Nat) (c : Copy) (v : BitVec 64) : Loc :=
  (s.resolveAddr c.cluster (key / 1024) v).getD ⟨.main, 2 ^ 52⟩

/-- Table element bytes of an EMBED format (R303). -/
def tblBytes (f : Nat) : Nat := if f = 0 then 4 else if f ≤ 2 then 2 else 1

/-- The format of an EMBED table code (R303). -/
def tblFmt (f : Nat) : FFmt :=
  if f = 0 then .f32 else if f = 1 then .f16 else if f = 2 then .bf16 else if f = 3 then .e4m3 else .e5m2

/-- The format of an EMBED output code (R303). -/
def outFmt (f : Nat) : FFmt := if f = 0 then .f32 else if f = 1 then .f16 else .bf16

/-- Bytes of an output row (R303). -/
def EmbedRec.ob (r : EmbedRec) : Nat := r.n * (if r.ofmt = 0 then 4 else 2)

/-- Bytes of a table row (R303). -/
def EmbedRec.rb (r : EmbedRec) : Nat := r.n * tblBytes r.tfmt

/-- RoundNE(a / m, FP32) for a natural m > 0 (R304): the quotient to 64 more bits, with a sticky bit. -/
def divNat (a m : Nat) : Nat :=
  match FFmt.f32.decode a with
  | .fin neg v e =>
    let q := v * 2 ^ 64 / m
    let sticky := if v * 2 ^ 64 % m = 0 then 0 else 1
    FFmt.f32.round .rne false (.fin neg (2 * q + sticky) (e - 65))
  | .inf neg => FFmt.f32.infBits neg
  | .nan neg fr => FFmt.f32.nanTo .f32 neg fr

/-- An output element from the elements of a bag's rows, in the order of the index list (R304). -/
def poolElement (pool : Nat) (es : List Nat) : Nat :=
  match es with
  | [] => 0
  | e :: r =>
    if pool = 2 then r.foldl (fun a x => FFmt.f32.minNumB false true a x) (FFmt.f32.minNumB false true e e)
    else
      let a := es.foldl (fun a x => FFmt.f32.addB .rne false a x) 0
      if pool = 1 then divNat a es.length else a

/-- The output bytes of bag b (R304), and the offset that it ends at. last is the offset that it starts at, when the bag before has
read it (R305). -/
def State.embedBag (s : State) (key : Nat) (c : Copy) (r : EmbedRec) (last : Option Nat) (b : Nat) :
    Except Halted (List Byte × Nat) := do
  let die := dieOf (key / 1024)
  let at_ := fun (v : BitVec 64) (o : Nat) => let l := s.walkLoc key c v; { l with addr := l.addr + o }
  let lo ← match last with
    | some n => pure n
    | none => (s.walkRead c die (at_ r.offsets (4 * b)) 4).map leNat
  let hi ← (s.walkRead c die (at_ r.offsets (4 * b + 4)) 4).map leNat
  if hi < lo then throw .malformed
  let rows ← (List.range (hi - lo)).mapM fun i => do
    let ib ← s.walkRead c die (at_ r.indices (4 * (lo + i))) 4
    if r.rows ≤ leNat ib then throw .malformed
    let bs ← s.walkRead c die (at_ r.table (leNat ib * r.rb)) r.rb
    pure ((chunks (tblBytes r.tfmt) r.n bs).map fun e => (tblFmt r.tfmt).convert .f32 .rne false false (leNat e))
  pure ((List.range r.n).flatMap fun j =>
    let y := poolElement r.pool (rows.map fun row => row.getD j 0)
    leBytes (if r.ofmt = 0 then 4 else 2) (FFmt.f32.convert (outFmt r.ofmt) .rne false false y), hi)

/-- A candidate of a search: its tie key, its node, its distance as FP32 bits. -/
structure Cand where
  key  : Nat
  node : Nat
  dist : Nat
  deriving DecidableEq

/-- Ranking of distances (R307): ascending, −0 with +0, NaN after +∞. -/
def distBefore (a b : Nat) : Bool :=
  let va := FFmt.f32.decode a
  let vb := FFmt.f32.decode b
  if va.isNan then false else if vb.isNan then true else va.compare vb == some .lt

/-- A candidate ranks before another (R307): by distance, then by the tie key, then by node. (DEDUCED, log 17.) -/
def Cand.before (a b : Cand) : Bool :=
  if distBefore a.dist b.dist then true
  else if distBefore b.dist a.dist then false
  else decide (a.key < b.key) || (a.key == b.key && decide (a.node < b.node))

/-- A candidate put in its place in a ranked list. -/
def insertCand (c : Cand) : List Cand → List Cand
  | [] => [c]
  | a :: r => if c.before a then c :: a :: r else a :: insertCand c r

/-- Candidates in ranking order. -/
def rank (cs : List Cand) : List Cand := cs.foldr insertCand []

/-- The first candidate of each key, in order. -/
def oncePerKey : List Nat → List Cand → List Cand
  | _, [] => []
  | seen, c :: r => if seen.contains c.key then oncePerKey seen r else c :: oncePerKey (c.key :: seen) r

/-- RoundNE(s + a × b, FP32), a NaN by R68 with the running value first (R307). -/
def accumulate (s a b : Nat) : Nat :=
  (FFmt.f32.firstNan [FFmt.f32.decode s]).getD (FFmt.f32.fmaB .rne false false false a b s)

/-- The distance of a query to a vector of FP32 values (R307). (DEDUCED, log 48.) -/
def distance (metric : Nat) (q x : List Nat) : Nat :=
  let s := (List.zip q x).foldl (fun s p =>
    if metric = 0 then
      let t := FFmt.f32.subB .rne false p.1 p.2
      accumulate s t t
    else accumulate s p.1 p.2) 0
  if metric = 0 then s else s ^^^ 2 ^ 31

/-- A node's vector of slot k, widened to FP32; nothing when it does not hold the slot (R308). -/
def Eye.vector (y : Eye) (n k : Nat) : Except Halted (Option (List Nat)) := do
  let v ← y.node n
  if v.holds k then
    let e ← y.slot n k
    pure (some (e.map fun w => (widen (y.g.slot k).1 w).toNat))
  else pure none

/-- Targets of a node's edges of a type. -/
def Eye.targets (y : Eye) (n kind : Nat) : Except Halted (List Nat) := do
  let es ← y.edges n
  pure ((es.filter (·.kind == kind)).map (·.target))

/-- Candidates among nodes that hold the slot (R308); byId ranks them by their property word. -/
def Eye.candidates (y : Eye) (r : DescendRec) (q : List Nat) (byId : Bool) : List Nat → Except Halted (List Cand)
  | [] => .ok []
  | n :: rest => do
    let v ← y.node n
    let x ← y.vector n r.slot
    let cs ← y.candidates r q byId rest
    pure (match x with
      | some x => ⟨if byId then v.prop.toNat else n, n, distance r.metric q x⟩ :: cs
      | none => cs)

/-- Inner nodes and leaves of a beam. -/
def Eye.splitBeam (y : Eye) (child : Nat) : List Cand → Except Halted (List (Cand × List Nat))
  | [] => .ok []
  | c :: r => do
    let t ← y.targets c.node child
    let rest ← y.splitBeam child r
    pure ((c, t) :: rest)

/-- The descent from a beam (R308); fuel counts the levels left. -/
def Eye.descend (y : Eye) (r : DescendRec) (q : List Nat) : Nat → List Cand → Except Halted (List Cand)
  | fuel, beam => do
    let parts ← y.splitBeam r.child beam
    if parts.all fun p => p.2.isEmpty then pure beam else
    match fuel with
    | 0 => throw .deep
    | fuel + 1 =>
      let leaves := (parts.filter fun p => p.2.isEmpty).map (·.1)
      let nodes := (parts.flatMap (·.2)).foldr insertNat []
      let new ← y.candidates r q false (nodes.filter fun n => !leaves.any (·.node == n))
      y.descend r q fuel ((rank (leaves ++ new)).take r.beam)

/-- An entry of a side list (R311). -/
structure SideEntry where
  id   : Nat
  kind : Nat
  vec  : List Byte

/-- A query's side entries: those below the tail it read (R311, R315). An entry with another kind or with reserved bytes set
breaks the record (DEDUCED, log 17). -/
def State.sideEntries (s : State) (c : Copy) (die addr n z : Nat) : Except Halted (List SideEntry) := do
  let hd ← s.walkRead c die ⟨.main, addr⟩ 64
  let eb := nat32 hd 12
  if eb ≠ strideOf z + 32 then throw .malformed
  (List.range n).mapM fun i => do
    let bs ← s.walkRead c die ⟨.main, addr + 64 + i * eb⟩ eb
    if !zeroBytes bs 8 32 || decide (1 < nat32 bs 4) then throw .malformed
    pure ⟨nat32 bs 0, nat32 bs 4, bs.drop 32⟩

/-- The deciding entry of an id: the one of the highest index (R316). -/
def deciding (es : List SideEntry) : List SideEntry :=
  (es.foldl (fun (seen : List SideEntry) e => e :: seen.filter (·.id != e.id)) [])

/-- What the engines see for a walk: block forms too (R301). -/
def State.walkEye (s : State) (c : Copy) (graph : Nat) : Eye :=
  { st := s, g := s.graph graph, root := s.rootOf c.launch, refused := c.denied, forms := true }

/-- The result bytes of query n (R306 to R308, R316), with the tail of the side list that it read. -/
def State.runQuery (s : State) (key : Nat) (c : Copy) (r : DescendRec) (n tail : Nat) : Except Halted (List Byte) := do
  let die := dieOf (key / 1024)
  let y := s.walkEye c (bits r.graph 5 0)
  let f := y.g.slot r.slot
  let ql := s.walkLoc key c r.queries
  let qb ← s.walkRead c die { ql with addr := ql.addr + 4 * f.2 * n } (4 * f.2)
  let q := (chunks 4 f.2 qb).map leNat
  let leaves ← y.descend r q 64 [⟨r.root, r.root, 0⟩]
  let items ← leaves.mapM fun u => y.targets u.node r.item
  let found ← y.candidates r q true items.flatten
  let side ← if r.side = 0#64 then pure [] else s.sideEntries c die (bits r.side 51 0) tail (fmtBytes f.1 * f.2)
  let last := deciding side
  let tree := found.filter fun k => !last.any (·.id == k.key)
  let added := (last.filter (·.kind == 0)).map fun e =>
    let x := (chunks (fmtBytes f.1) f.2 (e.vec.take (fmtBytes f.1 * f.2))).map fun b => (widen f.1 (leWord b)).toNat
    (⟨e.id, 0, distance r.metric q x⟩ : Cand)
  let best := (oncePerKey [] (rank (tree ++ added))).take r.topk
  pure ((best.flatMap fun k => leBytes 4 k.key ++ leBytes 4 k.dist)
    ++ (List.replicate (r.topk - best.length) (leBytes 4 0xFFFFFFFF ++ leBytes 4 0x7FC00000)).flatten)

/-- A walk stops in error, or parks on a translation fault (R300, R301). -/
def State.walkHalt (s : State) (key : Nat) (c : Copy) (h : Halted) : State :=
  match h with
  | .fault die k va => s.raiseFault die c.launch (.range c.range) k va
  | h => s.putCopy key (c.stop h.walkError)

/-- A block that is not plain lies under an output (R300 error 6). -/
def State.notPlain (s : State) (launch : Nat) (l : Loc) (n : Nat) : Bool :=
  match l.dest with
  | .main => (List.range n).any fun i => ((s.pa? (s.rootOf launch) (l.addr + i) .write).bind fun p => aget s.forms (p / 4096)).isSome
  | _ => false

/-- A unit of a walk's output lands whole, and the walk goes on with a kind, or the walk stops (R299, R300, R304). -/
def State.landUnit (s : State) (key : Nat) (c : Copy) (kind : SlotKind) (size : Nat) (bs : List Byte) : State :=
  let l := { c.dst with addr := c.dst.addr + c.next * size }
  match s.engineCheck c.launch c.denied l size with
  | .fault k va => s.raiseFault (dieOf (key / 1024)) c.launch (.range c.range) k va
  | .stop err => s.putCopy key (c.stop err)
  | .ok _ s =>
    if s.notPlain c.launch l size then s.putCopy key (c.stop 6)
    else if l.dest == .main && s.lostAt (s.rootOf c.launch) l.addr size .write then s.putCopy key (c.stop 8) else
    ((s.landBytes c.launch c.range l bs).putCopy key
      { c with kind := kind, next := c.next + 1, phase := .landing, viaPrim := true, denied := none }).advanceMark c.range ((c.next + 1) * size)
      (c.next + 1 == c.total)

/-- The published tail of a side list (R315). -/
def State.publishedTail (s : State) (key : Nat) (c : Copy) (r : DescendRec) : Except Halted Nat :=
  if r.side = 0#64 then .ok 0 else
  (s.walkRead c (dieOf (key / 1024)) ⟨.main, bits r.side 51 0⟩ 64).map fun hd => nat32 hd 8

/-- Queries start, each reading the published tail once: which of them start now is free, but for one at least (R309, R315). -/
def State.startQueries (s : State) (key : Nat) (c : Copy) (r : DescendRec) (place : Nat) (published : List (Nat × Nat)) :
    Except Halted (List (Nat × Nat) × State) :=
  let left := ((List.range c.total).drop c.next).filter fun n => (aget published n).isNone
  let free := left.filter fun n => r.side == 0#64 || Config.freeNat (s.fresh + n) % 2 == 1
  let now := if free.isEmpty then left.take 1 else free
  (s.publishedTail key c r).map fun tail =>
    let pub := now.foldl (fun l n => aput l n tail) published
    (pub, { s with fresh := s.fresh + c.total }.putCopy key { c with kind := .descend r place pub })

/-- The next unit of a walk (R299, R304, R308). -/
def State.landWalk (s : State) (key : Nat) (c : Copy) : State :=
  match c.kind with
  | .copy _ => s
  | .embed r last =>
    match s.embedBag key c r last c.next with
    | .error h => s.walkHalt key c h
    | .ok (bs, hi) => s.landUnit key c (.embed r (some hi)) r.ob bs
  | .descend r place published =>
    match s.startQueries key c r place published with
    | .error h => s.walkHalt key c h
    | .ok (pub, s) =>
      match aget pub c.next with
      | none => s
      | some tail => match s.runQuery key c r c.next tail with
        | .error h => s.walkHalt key { c with kind := .descend r place pub } h
        | .ok bs => s.landUnit key c (.descend r place pub) (8 * r.topk) bs

/-- A walk may run: an embedding at once, a descent once its wave place has started (R310). -/
def State.walkRuns (s : State) (c : Copy) : Bool :=
  match c.kind with
  | .descend _ place _ => ((aget s.waves place).map fun w => w.phase == .running).getD false
  | _ => true

/-- The completion record of a walk (R300). -/
def Copy.record (c : Copy) : List Byte :=
  let state := if c.err = 0 then 2 else 3
  leBytes 8 (c.next * 2 ^ 32 + state * 2 ^ 30 + c.err * 2 ^ 26)

/-- Where a walk's completion record goes, and its wave place. -/
def Copy.statusAddr (c : Copy) : BitVec 64 × Option Nat :=
  match c.kind with
  | .copy _ => (0#64, none)
  | .embed r _ => (r.status, none)
  | .descend r place _ => (r.status, some place)

/-- The end of a walk (R299, R300): its completion record, the counter add, the flag; its range, its slot, its wave place. -/
def State.endWalk (s : State) (key : Nat) (c : Copy) : State :=
  let failed := c.err != 0
  let a := s.walkLoc key c c.statusAddr.1
  let s := s.putCopy key { c with phase := if failed then .failed else .complete }
  let s := s.closeRange c.range c.launch failed
  let s := match a.dest with
    | .sp d => s.publishAtomic d none false s.nextId (cellsAt a.addr c.record)
    | .sh k o => s.shStore k o (cellsAt a.addr c.record)
    | _ => s
  let s := s.counterAdd c.counter (if c.incr == 0#32 then 1 else c.incr.toNat)
  let s := s.complete (.walk (key / 1024) c.handle)
  let s := s.retireAt c.range key
  match c.statusAddr.2 with
  | some place => match aget s.waves place with
    | some w => s.retireWave place w
    | none => s.finishLaunch c.launch
  | none => s.finishLaunch c.launch

end Sys2Proof.Machine
end

