-- ==== Sys2Proof/Machine/Copy.lean ====
section
/-!
DEFINITION. Bulk copy instructions, majors 0x48 and 0x49, and the events of landings, completions and counters (R188 to
R210).
-/

namespace Sys2Proof.Machine

/-- What ends the release of schedule entries early: a trap, or a translation fault of the tables (DESIGN CHOICE, log 14). -/
inductive StageStop
  | trap (r : Report)
  | fault (kind va : Nat)

/-- A copy trap of an entry (R194, R343). (DEDUCED, log 30.) -/
def copyTrap (sub j : Nat) : StageStop :=
  .trap { Report.plain 4 sub with info0 := BitVec.ofNat 32 j }

/-- Bytes of the schedule or of the address table, read through the launch's translation. -/
def State.tableBytes (s : State) (launch va n : Nat) : Except StageStop (List Byte) :=
  let root := s.rootOf launch
  match s.faultIn root va n .read with
  | some (k, v) => .error (.fault k v)
  | none => .ok (s.vaBytes root .read va n)

/-- A field, or the table entry that replaces it (R192): the address, and how many table entries have been taken. -/
def State.tableField (s : State) (launch j : Nat) (hdr : Record) (on : Bool) (base taken : Nat) (v : BitVec 64) :
    Except StageStop (BitVec 64 × Nat) :=
  if !on then .ok (v, taken) else
  if hdr.atabN ≤ base + taken then .error (copyTrap 2 j) else
  (s.tableBytes launch (hdr.atab.toNat + 8 * (base + taken)) 8).map fun bs => (word64 bs 0, taken + 1)

/-- Entry j of a release, checked (R192 to R194), as a copy in its handle's slot to be. -/
def State.stageEntry (s : State) (x : Team) (p : Place) (hdr : Record) (arg j : Nat) : Except StageStop Copy := do
  let va := hdr.sched.toNat + 160 * ((p.cursor + j) % hdr.schedN)
  let raw ← s.tableBytes x.launch va 160
  let c := word32 raw 0
  let base := arg + bits c 15 8
  let src ← s.tableField x.launch j hdr (c.getLsbD 16) base 0 (word64 raw 8)
  let dst ← s.tableField x.launch j hdr (c.getLsbD 18) base src.2 (word64 raw 16)
  let fb ← s.tableField x.launch j hdr (c.getLsbD 17) base dst.2 (word64 raw 24)
  let e := { parseEntry raw with src := src.1, dst := dst.1, fb := fb.1 }
  if !s.entryOk x.launch x.cluster x.core raw e then throw (copyTrap 1 j)
  match s.counterLoc x.launch x.cluster x.core e.counter with
  | none => throw (copyTrap 4 j)
  | some loc =>
    let stale : Bool := e.bar && (match p.bound with
      | none => true
      | some h => !s.handleOk x.launch h)
    if stale then throw (copyTrap 3 j)
    pure
      { handle := 0#32, launch := x.launch, cluster := x.cluster, kind := .copy e,
        dst := (s.resolveAddr x.cluster x.core e.dst).getD ⟨.main, 0⟩, len := e.span, total := e.elements,
        useFb := false, counter := loc, incr := e.incr, bar := if e.bar then p.bound else none, range := 0,
        unseen := x.unseen }

/-- Releasing in order what can be released (R194): what is left, and the state. -/
def State.releaseAll (s : State) (core : Nat) : List Copy → List Copy × State
  | [] => ([], s)
  | c :: r => if s.slotReady core c then (s.startCopy core c).releaseAll core r else (c :: r, s)

/-- Reserving release numbers (R194): the first, and the state. -/
def State.takeHandles (s : State) (core n : Nat) : Word × State :=
  let c := s.core core
  (c.handleNo, s.putCore core { c with handleNo := c.handleNo + BitVec.ofNat 32 n })

/-- Copies with consecutive handles. -/
def numbered (h : Word) (cs : List Copy) : List Copy :=
  ((List.range cs.length).zip cs).map fun q => { q.2 with handle := h + BitVec.ofNat 32 q.1 }

/-- Releasing what is left of an instruction's copies: it completes, or its team waits (R194). -/
def release (t : Nat) (x : Team) (h : Word) (cs : List Copy) (done : State → State) (s : State) : Act :=
  let p := s.releaseAll x.core cs
  match p.1 with
  | [] => .next (done (p.2.putTeam t { x with todo := {} }))
  | left => .wait .slot (p.2.putTeam t { x with todo := { copies := left, handle := h, begun := true } })

/-- CSTAGE (R194): n entries with table argument arg. (DESIGN CHOICE, log 14.) (DEDUCED, log 30.) -/
def stage (d : Field) (n arg : Nat) (t : Nat) (x : Team) (s : State) : Act :=
  match s.record? x.launch, s.place? x.cluster x.core with
  | some hdr, some p =>
    let finish := fun (h : Word) (s : State) =>
      let s := match s.place? x.cluster x.core with
        | some p => s.putPlace x.cluster { p with cursor := (p.cursor + n) % hdr.schedN }
        | none => s
      match aget s.teams t with
      | some x => s.putTeam t (x.uniform d h)
      | none => s
    if x.todo.begun then release t x x.todo.handle x.todo.copies (finish x.todo.handle) s else
    if n < 1 ∨ 64 < n ∨ hdr.schedN = 0 then .trap (.plain 4 5) else
    match (List.range n).mapM (s.stageEntry x p hdr arg) with
    | .error (.trap r) => .trap r
    | .error (.fault k va) =>
      if x.deniedAt va then .trap { Report.plain 3 3 with lane := BitVec.ofNat 32 (x.first.getD 0), info1 := BitVec.ofNat 32 va }
      else .wait .fault (s.raiseFault (dieOf x.core) x.launch (.team t) k va)
    | .ok cs => withDusk t x s fun s =>
      let q := s.takeHandles x.core n
      release t x q.1 (numbered q.1 cs) (finish q.1) q.2
  | _, _ => .trap (.plain 4 5)

/-- CSTAGE (R194). -/
def execCstage (d a : Field) (s : State) : Out :=
  issue (.cstage d a) s fun t x s => if x.mz then .next s else stage d (x.rdFirst 0 a).toNat 0 t x s

/-- CSTAGE.ARG (R194). -/
def execCstageArg (d a b : Field) (s : State) : Out :=
  issue (.cstageArg d a b) s fun t x s =>
    if x.mz then .next s else stage d (x.rdFirst 0 a).toNat (x.rdFirst (litCount [a]) b).toNat t x s

/-- A wave place is there for a descent (R310). -/
def State.placeFor (s : State) (c : Copy) : Bool :=
  match c.kind with
  | .descend _ _ _ => s.wavePlace.isSome
  | _ => true

/-- COPY_RELEASE (R194, R299): the slot and the range that the team waits for are free. -/
def execCopyRelease (team : Nat) (s : State) : Out :=
  resume team (fun x p => p == .slot && (match x.todo.copies with
    | c :: _ => s.slotReady x.core c && s.placeFor c
    | [] => true)) s

/-- COPY_OVERLAP_RELEASE (R198): every range that held this one has passed the overlap, failed or gone. -/
def execCopyOverlapRelease (range : Nat) (s : State) : Out :=
  ofEvent (match aget s.ranges range with
    | none => none
    | some r =>
      let clear := r.behind.all fun b => match aget s.ranges b.1 with
        | none => true
        | some q => q.failed || decide (b.2 ≤ q.mark)
      if r.behind.isEmpty || !clear then none else
      let s := s.putRange range { r with behind := [] }
      some (match r.owner with
        | .copy core slot => match aget s.copies (core * 1024 + slot) with
          | some c => s.putCopy (core * 1024 + slot) { c with phase := if c.phase == .held then s.begun c else c.phase }
          | none => s
        | .wave _ => s))

/-- COPY_LANDING (R196): the next element of a copy, unit of a walk or word of a wave lands in a range, or its landing meets
a fault (R201) or stops. -/
def execCopyLanding (range : Nat) (s : State) : Out :=
  ofEvent (match aget s.ranges range with
    | none => none
    | some r => match r.owner with
      | .copy core slot =>
        let key := core * 1024 + slot
        match aget s.copies key with
        | none => none
        | some c =>
          if !c.open || c.frozen || c.err != 0 || c.next == c.total || !s.canLand range r c.launch then none else
          match c.kind with
          | .copy e =>
            if e.combine = 0 then some (s.landElement key c e)
            else if s.groupReady key && (s.groupOf key).all fun m =>
                !m.2.1.frozen && ((aget s.ranges m.2.1.range).map fun q => s.canLand m.2.1.range q m.2.1.launch).getD false
            then some (s.landCombined key) else none
          | _ => if s.walkRuns c then some (s.landWalk key c) else none
      | .wave place => match aget s.waves place with
        | none => none
        | some w =>
          if w.phase != .running || w.frozen || w.err != 0 || r.bytes.isEmpty || !s.canLand range r w.launch then none
          else some (s.landWave range r w.launch))

/-- COPY_COMPLETION (R199, R207, R208): a copy whose elements have all landed, or that has stopped, ends. -/
def execCopyCompletion (core slot : Nat) (s : State) : Out :=
  let key := core * 1024 + slot
  ofEvent (match aget s.copies key with
    | none => none
    | some c => match c.kind with
      | .copy e => if c.over && s.itsCompletion c.range then some (s.completeCopy key c e.bytes) else none
      | _ => none)

/-- COPY_DEREGISTRATION (R199, R278): the range leaves; its slot or its wave place is free. -/
def execCopyDeregistration (range : Nat) (s : State) : Out :=
  ofEvent (match aget s.ranges range with
    | none => none
    | some r =>
      if !s.canDeregister r then none else
      let s := s.dropRange range
      some (match r.owner with
        | .copy core slot => { s with copies := adel s.copies (core * 1024 + slot) }
        | .wave place => match aget s.waves place with
          | some w => if w.ranges.any fun id => (aget s.ranges id).isSome then s else s.retireWave place w
          | none => s))

/-- COPY_DEADLINE (R202): a copy with Fb that has not completed in time switches to its fallback source. -/
def execCopyDeadline (core slot : Nat) (s : State) : Out :=
  let key := core * 1024 + slot
  ofEvent (match aget s.copies key with
    | none => none
    | some c => match c.kind with
      | .copy e =>
        if e.useFb && e.deadline != 0#32 && c.open && !c.useFb && !c.frozen && c.err == 0 then
          some ((s.putCopy key { c with useFb := true, denied := none }).dropFills fun f => f.who == .range c.range)
        else none
      | _ => none)

/-- A counter that CWAIT or CREAD may name (R208 to R210). -/
def State.counterFor (s : State) (x : Team) (ref : Word) : Option CounterLoc :=
  match s.counterLoc x.launch x.cluster x.core ref with
  | some .none => none
  | o => o

/-- CWAIT (R209). -/
def execCwait (a b : Field) (s : State) : Out :=
  issue (.cwait a b) s fun t x s =>
    if x.mz then .next s else
    match s.counterFor x (x.rdFirst 0 a) with
    | none => .trap (.plain 4 4)
    | some loc => .next (s.putTeam t (x.attach (.cwait loc (x.rdFirst 0 b 1 ++ x.rdFirst 0 b 0))))

/-- Registers written by a BWAIT that is over (R214). -/
def Team.bwaitWrite (x : Team) (reg : Nat) (mask : BitVec 1024) (v : Word) : Team :=
  let cells := fun (r : Nat) => ((List.range x.lanes).filter mask.getLsbD).map fun l => (r * 1024 + l, v)
  if reg < 256 then x.putRegs (cells reg)
  else if reg < 264 then x.putOfile (cells (reg - 256))
  else x

/-- An attached operation that waits for a counter or a barrier is over; what it then writes. -/
def State.pollOp (s : State) : OpRef → Option Word
  | .cwait loc target => if target.toNat ≤ s.counter loc then some 0#32 else none
  | .bwait h phase _ _ => s.bwaitOver h phase
  | _ => none

/-- COUNTER_POLL (R209, R214): the operations of a team whose counter or barrier has got there are complete. -/
def execCounterPoll (team : Nat) (s : State) : Out :=
  ofEvent (match aget s.teams team with
    | none => none
    | some x =>
      let refs := ((x.ops.map (·.ref)) ++ x.pendRegs.map (·.ref)).eraseDups
      let done := refs.filterMap fun r => (s.pollOp r).map fun v => (r, v)
      if done.isEmpty then none else
      let y := done.foldl (fun (x : Team) q => match q.1 with
        | .bwait _ _ reg mask => x.bwaitWrite reg mask q.2
        | _ => x) x
      let over_ := fun (r : OpRef) => done.any (·.1 == r)
      some ({ s with fresh := s.fresh + 1 }.putTeam team
        { y with ops := y.ops.filter fun o => !over_ o.ref, pendRegs := y.pendRegs.filter fun o => !over_ o.ref }))

/-- CREAD (R210). -/
def execCread (d a : Field) (s : State) : Out :=
  issue (.cread d a) s fun t x s =>
    if x.mz then .next (s.putTeam t (x.results d 2 fun _ _ => 0#32)) else
    match s.counterFor x (x.rdFirst 0 a) with
    | none => .trap (.plain 4 4)
    | some loc => match s.counterBad loc with
      | some e => .trap (counterFault (x.first.getD 0) e)
      | none => .next (s.putTeam t (x.results d 2 fun i _ => BitVec.ofNat 32 (s.counter loc / 2 ^ (32 * i))))

/-- WMREAD (R210). -/
def execWmread (d a : Field) (s : State) : Out :=
  issue (.wmread d a) s fun t x s =>
    let v := match s.copy? x.core (x.rdFirst 0 a) with
      | some q => BitVec.ofNat 32 (((aget s.ranges q.2.range).map (·.mark)).getD 0)
      | none => staleWord
    .next (s.putTeam t (x.uniform d v))

/-- A failure that a team has read (R199, R278). -/
def State.ackRange (s : State) (id : Nat) : State :=
  match aget s.ranges id with
  | some r => s.putRange id { r with acked := r.acked || r.failed }
  | none => s

/-- CSTAT (R199, R207, R210): reading a failed status of a copy of the team's cluster acknowledges it, and deregistration is then
decided as at completion. -/
def execCstat (d a : Field) (s : State) : Out :=
  issue (.cstat d a) s fun t x s =>
    match s.copy? x.core (x.rdFirst 0 a) with
    | none => .next (s.putTeam t (x.uniform d staleWord))
    | some q =>
      let s' := if q.2.phase == .failed && q.2.cluster == x.cluster && !x.mz then (s.ackRange q.2.range).retireAt q.2.range q.1
        else s
      .next (s'.putTeam t (x.uniform d q.2.status))

end Sys2Proof.Machine
end

