-- ==== Sys2Proof/Machine/Image.lean ====
section
/-!
DEFINITION. The checkpoint windows of teams (R354): where images A and B lie, their headers and planes, writing them to main memory and
reading them back (R353, R356, R358). The formats that R354 leaves open are DEDUCED, log 19.
-/

namespace Sys2Proof.Machine

/-- The virtual address of a team's checkpoint window (R354). -/
def State.windowVa (s : State) (x : Team) : Nat :=
  match s.record? x.launch with
  | none => 0
  | some r =>
    ((s.cfgOf x.launch).map (·.stackBase.toNat)).getD 0 + 2 ^ 20 * r.clusters * r.teams
      + 2 ^ 22 * (clusterIndex x.cluster * r.teams + x.tm)

/-- Offset of image B in the window (R354). (DEDUCED, log 19.) -/
def imageB : Nat := 2 ^ 21

/-- Only the teams that a launch places have a window: not handler and child teams (R329, R333). -/
def Team.hasWindow (x : Team) : Bool := decide (x.tm < 64)

/-- A mask's words (R354): the summary word, then the group words. -/
def maskWords (m : BitVec 1024) : List Word :=
  let g := (List.range 32).map fun i => (m.extractLsb' (32 * i) 32 : Word)
  BitVec.ofNat 32 (((List.range 32).zip g).foldl (fun n q => n + if q.2 = 0#32 then 0 else 2 ^ q.1) 0) :: g

/-- The mask that group words hold (R354). -/
def maskOfWords (g : Nat → Word) : BitVec 1024 :=
  (List.range 32).foldl (fun m i => m ||| ((g i).setWidth 1024 <<< (32 * i))) 0#1024

/-- The state word at offset 140 (R354). (DEDUCED, log 19.) -/
def Ctx.stateWord (c : Ctx) (lanes lits latchN : Nat) : Word :=
  let on := fun (b : Bool) (n : Nat) => if b then 2 ^ n else 0
  let live := (List.range lanes).filter c.mask.getLsbD
  BitVec.ofNat 32 (on c.cc.z 3 + on c.cc.n 2 + on c.cc.c 1 + on c.cc.v 0 + on live.isEmpty 5
    + on (live.length == lanes) 4 + c.fmode.round.toNat * 2 ^ 8 + on c.fmode.flush 10 + c.win / 16 % 16 * 2 ^ 12
    + lits % 4 * 2 ^ 16 + latchN % 8 * 2 ^ 18)

/-- What a state word and a mask hold (R354). (DEDUCED, log 19.) -/
def Ctx.ofWord (mask : BitVec 1024) (w : Word) : Ctx :=
  { mask := mask, cc := ⟨w.getLsbD 3, w.getLsbD 2, w.getLsbD 1, w.getLsbD 0⟩,
    fmode := ⟨w.extractLsb' 8 2, w.getLsbD 10⟩, win := 16 * bits w 15 12 }

/-- System registers 0 to 11 (R349). -/
def TrapState.regs (r : TrapState) : List Word :=
  [r.vec, Word.ofBool r.inTrap, r.cause, r.pc, r.word, r.lane, r.info0, r.info1, r.info2, r.info3, r.regPc, r.regCnt]

/-- CKSTAT (R349): a capture is pending, and the planes still to write. -/
def Team.ckstat (x : Team) : Word :=
  BitVec.ofNat 32 ((if x.capturing then 2 ^ 31 else 0) + x.planes.length % 2 ^ 16)

/-- Flags f1 to f12 as bits 0 to 11 (R354). -/
def Team.flagWord (x : Team) : Word :=
  BitVec.ofNat 32 (((List.range 12).filter fun i => x.ops.any (·.flag == i + 1)).foldl (fun n i => n + 2 ^ i) 0)

/-- The header of an image (R354): byte offsets with words. The word index is 0 at the clause header, and one more than the number of
instruction words before it within the clause. (DEDUCED, log 19.) -/
def Team.header (x : Team) : List (Nat × List Word) :=
  [(0, [x.clause.setWidth 32, BitVec.ofNat 32 (if x.started then x.idx + 1 else 0)]),
   (8, maskWords x.ctx.mask ++ [x.ctx.stateWord x.lanes x.lits x.latchN, x.flagWord, x.regionPc, x.regionN,
         x.retired.setWidth 32, (x.retired >>> 32).setWidth 32, x.retHi]),
   (192, (x.barRefs ++ List.replicate 16 0#32).take 16),
   (256, x.trap.regs ++ [x.ckstat]),
   (320, maskWords x.trap.shadow.mask ++ [x.trap.shadow.stateWord x.lanes x.trap.lits x.trap.latchN])]

/-- A word of a header, by its byte offset. -/
def headerWord (h : List (Nat × List Word)) (o : Nat) : Word :=
  (h.findSome? fun p => if p.1 ≤ o then p.2[(o - p.1) / 4]? else none).getD 0#32

/-- What the planes of a team hold (R354). -/
inductive PlaneKind
  | reg | ofile | latch | stream | mdata | shadow
  deriving DecidableEq, Repr

/-- Bytes of a plane's element in a lane. -/
def PlaneKind.size : PlaneKind → Nat
  | .stream => 16
  | _ => 4

/-- A plane of a team (R354): what it holds, the number of the register, and its offset in an image. (DEDUCED, log 19.) -/
def Team.spot (x : Team) (plane : Nat) : PlaneKind × Nat × Nat :=
  let k := x.regsN
  let r := plane / 32
  let row := 32 * x.groups
  let at_ := fun (base size i : Nat) => base + size * (row * i + 32 * (plane % 32))
  let ps := 4096 + 4 * (k + 12) * row
  if r < k then (.reg, r, at_ 4096 4 r)
  else if r < k + 8 then (.ofile, r - k, at_ 4096 4 r)
  else if r < k + 12 then (.latch, r - (k + 8), at_ 4096 4 r)
  else if r < k + 20 then (.stream, r - (k + 12), at_ ps 16 (r - (k + 12)))
  else if r < k + 36 then (.mdata, r - (k + 20), at_ (ps + 128 * row) 4 (r - (k + 20)))
  else (.shadow, r - (k + 36), at_ (ps + 192 * row) 4 (r - (k + 36)))

/-- The value of a plane's element, under the key register × 1024 + lane. -/
def Team.planeElem (x : Team) (kind : PlaneKind) (key : Nat) : Nat :=
  match kind with
  | .reg => (tget zeros x.regs key).toNat
  | .ofile => (tget zeros x.ofile key).toNat
  | .latch => (tget zeros x.latch key).toNat
  | .stream => (tget streamDefault x.streams key).toNat
  | .mdata => (tget mdataReset x.mdata key).toNat
  | .shadow => (tget zeros x.trap.latch key).toNat

/-- A plane of a team's registers (R354): its offset in the image and its bytes. (DEDUCED, log 19.) -/
def Team.planeBytes (x : Team) (plane : Nat) : Nat × List Byte :=
  let q := x.spot plane
  (q.2.2, (List.range 32).flatMap fun l => leBytes q.1.size (x.planeElem q.1 (1024 * q.2.1 + 32 * (plane % 32) + l)))

/-- A team with a plane as bytes of an image hold it. -/
def Team.setPlane (x : Team) (plane : Nat) (bs : List Byte) : Team :=
  let q := x.spot plane
  let cell := fun (w l : Nat) => (1024 * q.2.1 + 32 * (plane % 32) + l, BitVec.ofNat w (leNat ((bs.drop (q.1.size * l)).take q.1.size)))
  match q.1 with
  | .reg => { x with regs := tsets zeros x.regs ((List.range 32).map (cell 32)) }
  | .ofile => { x with ofile := tsets zeros x.ofile ((List.range 32).map (cell 32)) }
  | .latch => { x with latch := tsets zeros x.latch ((List.range 32).map (cell 32)) }
  | .stream => { x with streams := tsets streamDefault x.streams ((List.range 32).map (cell 128)) }
  | .mdata => { x with mdata := tsets mdataReset x.mdata ((List.range 32).map (cell 32)) }
  | .shadow => { x with trap := { x.trap with latch := tsets zeros x.trap.latch ((List.range 32).map (cell 32)) } }

/-- Every plane of a team but those of the shadowed latches (R354). -/
def Team.allPlanes (x : Team) : List Nat :=
  (List.range (x.regsN + 36)).flatMap fun r => (List.range x.groups).map fun g => 32 * r + g

/-- A plane that an image of the team holds: the shadowed latches' only while it is in its handler (R354). -/
def Team.imaged (x : Team) (plane : Nat) : Bool := x.trap.inTrap || decide (plane / 32 < x.regsN + 36)

/-- Words as bytes. -/
def wordBytes (ws : List Word) : List Byte := ws.flatMap fun w => leBytes 4 w.toNat

/-- An address of an image or a save area that is written: not one on a page that the host has answered unrepairable, nor one in a
code region (R50, R361). (DEDUCED, log 19.) -/
def State.savable (s : State) (root : BitVec 48) (lost : List Nat) (va : Nat) : Bool :=
  !lost.contains (va / pageBytes) && !s.codePage root va

/-- The first translation fault that writing pieces, each at its address, meets (R361). -/
def State.piecesFault (s : State) (root : BitVec 48) (lost : List Nat) (ps : List (Nat × List Byte)) : Option (Nat × Nat) :=
  ps.findSome? fun p => (touched p.1 p.2.length).findSome? fun v =>
    if !s.savable root lost v then none else match s.xlate root v .write with
      | .ok _ => none
      | .fault k => some (k, v)

/-- The first translation fault that reading spans, each an address and a length, meets. -/
def State.spansFault (s : State) (root : BitVec 48) (lost : List Nat) (ps : List (Nat × Nat)) : Option (Nat × Nat) :=
  ps.findSome? fun p => (touched p.1 p.2).findSome? fun v =>
    if lost.contains (v / pageBytes) then none else match s.xlate root v .read with
      | .ok _ => none
      | .fault k => some (k, v)

/-- Pieces written, each at its virtual address. -/
def State.writePieces (s : State) (root : BitVec 48) (lost : List Nat) (ps : List (Nat × List Byte)) : State :=
  ps.foldl (fun s p => (s.cache root p.1 p.2.length .write).writeCells root ((cellsAt p.1 p.2).filter fun c => s.savable root lost c.1)) s

/-- Pieces of a header in an image at an address. -/
def headerPieces (va : Nat) (h : List (Nat × List Word)) : List (Nat × List Byte) := h.map fun p => (va + p.1, wordBytes p.2)

/-- The team with its registers as its last capture holds them (R356). -/
def Team.captured (x : Team) : Team :=
  match x.capture with
  | none => x
  | some c =>
    { x with regs := c.regs, ofile := c.ofile, streams := c.streams, mdata := c.mdata, latch := [],
             trap := { x.trap with latch := c.shadow } }

/-- The header of the last capture. -/
def Team.capturedHead (x : Team) : List (Nat × List Word) := ((x.capture.map (·.head)).getD x.header)

/-- Image A as a region entry, or the start of the team, captures it (R356): every plane written since the capture before is queued, and
the header. The latches are empty there, and the clause stands at its header. (DEDUCED, log 26.) -/
def Team.captureNow (x : Team) : Team :=
  if !x.hasWindow then x else
  let y := { x with started := false, idx := 0, lits := 0, latch := [], latchN := 0 }
  { x with
    planes := if x.capture.isSome then x.dirty.filter x.imaged else x.allPlanes
    dirty := []
    headQueued := true
    capture := some { head := y.header, regs := x.regs, ofile := x.ofile, streams := x.streams, mdata := x.mdata, shadow := x.trap.latch,
                      trap := x.trap } }

/-- The next piece of a capture that is still to be written to image A: the header, then the queued planes. -/
def Team.nextPieces (x : Team) (va : Nat) : List (Nat × List Byte) :=
  if x.headQueued then headerPieces va x.capturedHead
  else match x.planes with
    | p :: _ => let q := x.captured.planeBytes p; [(va + q.1, q.2)]
    | [] => []

/-- The team once that piece has been written. -/
def Team.pieceDone (x : Team) : Team :=
  if x.headQueued then { x with headQueued := false, lost := [] } else { x with planes := x.planes.drop 1, lost := [] }

/-- The next piece of a team's capture is written to image A, or meets a translation fault: then its fill waits for the host's answer
(R356, R361). (DEDUCED, log 26.) -/
def State.captureStep (s : State) (t : Nat) (x : Team) : State × Team :=
  let root := s.rootOf x.launch
  let ps := x.nextPieces (s.windowVa x)
  match s.piecesFault root x.lost ps with
  | some (k, va) => (s.raiseFault (dieOf x.core) x.launch (.image t) k va, x)
  | none => (s.writePieces root x.lost ps, x.pieceDone)

/-- A fill of a team's capture waits for the host's answer. -/
def State.imageParked (s : State) (t : Nat) : Bool :=
  s.dies.any fun d => (d.2.faults ++ d.2.waiting).any fun f => f.who == .image t

/-- A capture begins: its header is written at once (R356). (DEDUCED, log 26.) -/
def State.beginCapture (s : State) (t : Nat) (x : Team) : State × Team :=
  if x.hasWindow then s.captureStep t x.captureNow else (s, x)

/-- The plane bitmap of an image (R354). -/
def planeBitmap (planes : List Nat) : List Byte :=
  (List.range 1184).map fun i => BitVec.ofNat 8 ((planes.filter (· / 8 == i)).foldl (fun n p => n + 2 ^ (p % 8)) 0)

/-- What is left of a capture, to be written to image A before image B is. -/
def Team.restOfA (x : Team) (va : Nat) : List (Nat × List Byte) :=
  (if x.headQueued then headerPieces va x.capturedHead else [])
    ++ x.planes.map fun p => let q := x.captured.planeBytes p; (va + q.1, q.2)

/-- Image B (R353, R354): its header, the plane bitmap and the planes written since the capture of image A. What a parked team's park
condition is written as is a free value. (DEDUCED, log 19.) -/
def Team.imageBPieces (x : Team) (va fresh : Nat) : List (Nat × List Byte) :=
  let base := va + imageB
  let planes := if x.capture.isSome then x.dirty.filter x.imaged else x.allPlanes
  headerPieces base x.header ++ [(base + 1024, planeBitmap planes)]
    ++ (planes.map fun p => let q := x.planeBytes p; (base + q.1, q.2))
    ++ (if x.park.isNone then [] else [(base + 168, wordBytes ((List.range 6).map fun i => Config.freeWord (fresh + i)))])

/-- Everything that pre-emption writes to a team's window (R353). -/
def State.imagePieces (s : State) (x : Team) : List (Nat × List Byte) :=
  if !x.hasWindow then [] else
  let va := s.windowVa x
  x.restOfA va ++ x.imageBPieces va s.fresh

/-- The team as the header of an image holds it (R354). What the table has no bits for stays as the module keeps it. (DEDUCED, log 19.) -/
def Team.setHeader (x : Team) (w : Nat → Word) : Team :=
  let n := (w 4).toNat
  let refs := (List.range 16).map fun i => w (192 + 4 * i)
  let sh := w 452
  { x with
    clause := if x.clause.setWidth 32 == w 0 then x.clause else (w 0).setWidth 52
    started := n != 0, idx := n - 1
    ctx := Ctx.ofWord (maskOfWords fun i => w (12 + 4 * i)) (w 140)
    lits := bits (w 140) 17 16, latchN := bits (w 140) 20 18
    ops := x.ops.filter fun o => (w 144).getLsbD (o.flag - 1)
    regionPc := w 148, regionN := w 152, retired := w 160 ++ w 156, retHi := w 164
    barRefs := if (x.barRefs ++ List.replicate 16 0#32).take 16 == refs then x.barRefs else refs.filter (· != 0#32)
    trap := { x.trap with
      vec := w 256, inTrap := (w 260).getLsbD 0, cause := w 264, pc := w 268, word := w 272, lane := w 276
      info0 := w 280, info1 := w 284, info2 := w 288, info3 := w 292, regPc := w 296, regCnt := w 300
      shadow := Ctx.ofWord (maskOfWords fun i => w (324 + 4 * i)) sh, lits := bits sh 17 16, latchN := bits sh 20 18 } }

/-- The clause of a team that stands in the middle of one is read again when it is not the one whose words the team holds (R49). -/
def State.reload (s : State) (old x : Team) : Team :=
  if !x.started then { x with words := [], litN := 0 }
  else if old.started && old.clause == x.clause then x
  else match s.clauseFault x.launch x.clause, decodeHeader (s.codeWord x.launch x.clause) with
    | none, .ok (.clauseStart _ a b n k _) =>
      { x with words := (List.range (n.toNat + 1)).map fun i => s.codeWord x.launch (x.clause + BitVec.ofNat 52 (4 * (i + 1)))
               litN := k.toNat, setA := a.toNat, setB := b.toNat, longs := 0 }
    | _, _ => { x with started := false, words := [], litN := 0, idx := 0 }

/-- Bytes of a team's window. -/
def State.windowBytes (s : State) (x : Team) (off n : Nat) : List Byte := s.vaBytes (s.rootOf x.launch) .read (s.windowVa x + off) n

/-- Bit n of the plane bitmap of image B. -/
def State.planeInB (s : State) (x : Team) (plane : Nat) : Bool :=
  ((s.windowBytes x (imageB + 1024 + plane / 8) 1).getD 0 0#8).getLsbD (plane % 8)

/-- Planes that an image of the team may hold, with the shadowed latches'. -/
def Team.planesToRead (x : Team) : List Nat :=
  (List.range (x.regsN + 40)).flatMap fun r => (List.range x.groups).map fun g => 32 * r + g

/-- A team as its window holds it (R353, R354): the header of image B, and each plane from image B where its bit is set, else from image
A. The shadowed latches' planes are read only where image B has them. (DEDUCED, log 19.) -/
def State.fromWindow (s : State) (x : Team) : Team :=
  if !x.hasWindow then x else
  let y := x.planesToRead.foldl (fun y p =>
    let q := x.spot p
    if s.planeInB x p then y.setPlane p (s.windowBytes x (imageB + q.2.2) (32 * q.1.size))
    else if q.1 == .shadow then y
    else y.setPlane p (s.windowBytes x q.2.2 (32 * q.1.size))) x
  s.reload x (y.setHeader fun o => leWord (s.windowBytes x (imageB + o) 4))

/-- The spans of a team's window that restoration reads. -/
def State.windowSpans (s : State) (x : Team) : List (Nat × Nat) :=
  if !x.hasWindow then [] else
  let va := s.windowVa x
  [(va + imageB, 4096)] ++ x.planesToRead.filterMap fun p =>
    let q := x.spot p
    if s.planeInB x p then some (va + imageB + q.2.2, 32 * q.1.size)
    else if q.1 == .shadow then none
    else some (va + q.2.2, 32 * q.1.size)

/-- A team resumes at its last region entry, from image A, with what is still queued from the failed core's copy (R356, R358): its clause
starts anew, and what TRET goes back to is what stood there. A team without a window stays where it stands, and a part of image A that cannot be read is taken from the failed
core's copy too (DESIGN CHOICE, log 21). -/
def State.fromImageA (s : State) (x : Team) : Team :=
  if x.capture.isNone then { x with inFlight := [], late := [] } else
  let root := s.rootOf x.launch
  let va := s.windowVa x
  let readable := fun (o n : Nat) => (s.faultIn root (va + o) n .read).isNone
  let head := if x.headQueued || !readable 0 4096 then headerWord x.capturedHead else fun o => leWord (s.windowBytes x o 4)
  let there := fun (p : Nat) => (x.spot p).1 != .shadow || (head 260).getLsbD 0
  let old := { x with trap := (x.capture.map Capture.trap).getD x.trap }
  let y := (x.planesToRead.filter there).foldl (fun y p =>
    let q := x.spot p
    y.setPlane p (if x.planes.contains p || !readable q.2.2 (32 * q.1.size) then (x.captured.planeBytes p).2
      else s.windowBytes x q.2.2 (32 * q.1.size))) old
  let y := y.setHeader head
  { s.reload x y with
    barRefs := x.barRefs, regionCtx := y.ctx, late := [], inFlight := [], park := none, todo := {}, denied := [], dirty := [],
    pendRegs := x.pendRegs.filter fun r => match r.ref with
      | .bwait _ _ _ _ => y.ops.any (·.ref == r.ref)
      | _ => false }

end Sys2Proof.Machine
end

