-- ==== Sys2Proof/Machine/Flow.lean ====
section
/-!
DEFINITION. The clause header and the team flow instructions, majors 0x00 to 0x0C (R40 to R49, R101 to R114).
-/

namespace Sys2Proof.Machine

/-- The region registers at the start of a region-entry clause (R44, R348). (DEDUCED, log 27.) -/
def Team.enterRegion (x : Team) : Team :=
  { x with regionPc := x.clause.setWidth 32, regionN := x.regionN + 1#32, regionCtx := x.ctx }

/-- The clause that starts: its words, its flags, empty latches (R35, R42, R43, R49). -/
def Team.startClause (x : Team) (ws : List Word) (setA setB lits : Nat) : Team :=
  { x with started := true, words := ws, litN := lits, idx := 0, lits := 0, setA := setA, setB := setB, longs := 0,
           latch := [], latchN := 0, denied := [], park := none, late := x.late.map fun p => { p with depth := 4 } }

/-- The words that follow a header (R42, R49). -/
def State.clauseWords (s : State) (x : Team) (n : Nat) : List Word :=
  let va := s.codeVa x.launch x.clause
  (List.range n).map fun i => leWord (s.vaBytes (s.rootOf x.launch) .fetch (va + 4 * (i + 1)) 4)

/-- CLAUSE_START (R41, R42, R44, R49, R356, R417): for the team whose next clause this header is. A team whose wait mask
is not clear, or whose last capture is not written, is not ready and is left. -/
def execClauseStart (wait : BitVec 12) (setA setB len : BitVec 4) (lits : BitVec 2) (region : Bool) (s : State) : Out :=
  match s.focused with
  | none => .fault .noIssuingTeam
  | some (t, x) =>
    if x.started then .fault .eventNotEnabled else
    let w := s.codeWord x.launch x.clause
    let s := s.putTeam t { x with park := none }
    if !headerFlagsOk setA setB then .next (s.takeTrap t { Report.illegal 5#4 with word := w })
    else if !headerLenOk len lits then .next (s.takeTrap t { Report.illegal 6#4 with word := w })
    else if !(x.flagsClear wait && (!region || (!x.capturing && x.late.isEmpty))) then .next (s.leave x.core t)
    else match s.clauseFault x.launch x.clause with
      | some (k, va) =>
        .next (if x.deniedAt va then s.takeTrap t { Report.fetch x.clause with word := w }
               else s.parkFault t x .fetch k va)
      | none =>
        let n := len.toNat + 1
        let y := x.startClause (s.clauseWords x n) setA.toNat setB.toNat lits.toNat
        let s := s.cache (s.rootOf x.launch) (s.codeVa x.launch x.clause) (4 * (n + 1)) .fetch
        let q := if region then s.beginCapture t y.enterRegion else (s, y)
        .next (q.1.putTeam t q.2)

/-- CLAUSE_FETCH_RESUME (R417): once the host has answered, the fetch is made again, or traps. -/
def execClauseFetchResume (team : Nat) (s : State) : Out :=
  resume team (fun _ p => p == .fetch && s.dies.all fun d =>
    !(d.2.faults ++ d.2.waiting).any fun f => f.who == .team team) s

/-- NOP (R101). -/
def execNop (s : State) : Out := issue .nop s (teamAct fun x => x)

/-- The end of a team at HALT: dirty stack lines are written, everything it holds is released (R101, R163, R186, R214). -/
def State.endTeam (s : State) (t : Nat) (x : Team) : State :=
  ((s.flushStack x.core t).removeTeam t).afterTeam x.launch x.cluster

/-- What HALT does when it is issued, or tried again (R100, R101, R177, R319, R330): dusk.die, then the wait for the
flags, then the wait for every packet, then the records of drops, then the end. -/
def haltBody : Body := fun t x s =>
  withDusk t x s fun s =>
    if !x.ops.isEmpty then .wait .halt s
    else withFlush true t x s fun x s => match x.dropTrap with
      | some (r, y) => .done ((s.putTeam t y).takeTrap t { r with word := x.word })
      | none => .done (s.endTeam t x)

/-- HALT (R101). -/
def execHalt (s : State) : Out := issue .halt s haltBody

/-- TEAM_END (R101): a halting team whose flags have cleared ends, or waits for what HALT waits for next. -/
def execTeamEnd (team : Nat) (s : State) : Out :=
  match aget s.teams team with
  | none => .fault .eventNotEnabled
  | some x =>
    if s.resident team x && x.park == some .halt && x.ops.isEmpty && s.itsRotation x.core team then
      let y := { x with park := none }
      .next (((s.putTeam team y).settle team 0 y (haltBody team y (s.putTeam team y))).turnTaken x.core team)
    else .fault .eventNotEnabled

/-- A branch target: the header offset plus four times the signed word offset (R28). -/
def Team.branchTo (x : Team) (off : BitVec 21) : BitVec 52 := x.clause + (off.signExtend 52 <<< 2)

/-- A branch taken or not (R102). -/
def branch (taken : Team → Bool) (off : BitVec 21) : Body := fun _ x s =>
  if taken x then .goto (x.branchTo off) s else .next s

/-- B (R54, R102). -/
def execBCond (c : Cond) (off : BitVec 21) (s : State) : Out :=
  issue (.bCond c off) s (branch (fun x => condHolds x.ctx.cc c) off)

/-- BM (R54, R102). -/
def execBMask (c : MCond) (off : BitVec 21) (s : State) : Out :=
  issue (.bMask c off) s (branch (fun x => maskHolds x c) off)

/-- The code offset of the header that follows the clause (R103). -/
def Team.returnOffset (x : Team) : Word := x.nextClause.setWidth 32

/-- CALL (R103): o7 of every lane holds the return offset; this is no result. -/
def execCall (off : BitVec 21) (s : State) : Out :=
  issue (.call off) s fun t x s =>
    .goto (x.branchTo off) (s.putTeam t (x.wr x.all 119#7 0 fun _ => x.returnOffset))

/-- RET (R103). -/
def execRet (a : Field) (s : State) : Out := issue (.ret a) s fun _ x s => .goto ((x.rd 0 a 0 0).setWidth 52) s

/-- CALLR (R103): vd of every lane holds the return offset; this is its result. -/
def execCallr (d a : Field) (s : State) : Out :=
  issue (.callr d a) s fun t x s =>
    .goto ((x.rd 0 a 0 0).setWidth 52) (s.putTeam t (x.resultIn x.all d 1 fun _ _ => x.returnOffset))

/-- BR (R103). -/
def execBr (a : Field) (s : State) : Out := issue (.br a) s fun _ x s => .goto ((x.rd 0 a 0 0).setWidth 52) s

/-- CMPU (R104). -/
def execCmpu (c : CmpT) (a b : Field) (s : State) : Out :=
  issue (.cmpu c a b) s (teamAct fun x =>
    match x.first with
    | none => x
    | some l => { x with ctx := { x.ctx with cc := cmpFlags c (x.rd 0 a 0 l) (x.rd (litCount [a]) b 0 l) } })

/-- The team with a mask from a test of its lanes (R83). -/
def Team.withMask (x : Team) (p : Nat → Bool) : Team := { x with ctx := { x.ctx with mask := maskOf x.lanes p } }

/-- MPUSH (R105). (DEDUCED, log 49.) -/
def execMpush (d p : Field) (s : State) : Out :=
  issue (.mpush d p) s (teamAct fun x =>
    (x.resultIn x.all d 1 fun _ l => Word.ofBool (x.act l)).withMask fun l => x.act l && x.rd 0 p 0 l != 0#32)

/-- MELSE (R105). -/
def execMelse (sv p : Field) (s : State) : Out :=
  issue (.melse sv p) s (teamAct fun x =>
    x.withMask fun l => x.rd 0 sv 0 l != 0#32 && x.rd (litCount [sv]) p 0 l == 0#32)

/-- MPOP (R105). -/
def execMpop (sv : Field) (s : State) : Out :=
  issue (.mpop sv) s (teamAct fun x => x.withMask fun l => x.rd 0 sv 0 l != 0#32)

/-- YIELD (R107): the team is left and stays ready. -/
def execYield (s : State) : Out := issue .yield s fun t x s => .next (s.leave x.core t)

/-- A yield to a continuation: at once when the condition holds, else parked; the team is left either way (R107). -/
def yieldTo (t : Nat) (x : Team) (cont : Word) (now : Bool) (p : Park) (s : State) : Act :=
  .goto (cont.setWidth 52) ((s.putTeam t { x with park := if now then none else some p }).leave x.core t)

/-- YIELD.F (R107). -/
def execYieldF (a b : Field) (s : State) : Out :=
  issue (.yieldF a b) s fun t x s =>
    let cont := x.rd 0 a 0 0
    let mask := (x.rd (litCount [a]) b 0 0).setWidth 12
    yieldTo t x cont (x.flagsClear mask) (.flags mask cont) s

/-- YIELD.C (R107): the counter is read as published; a counter that is not ordered in .sp faults as a load there. (DEDUCED, log 50.) -/
def execYieldC (d a b : Field) (s : State) : Out :=
  issue (.yieldC d a b) s fun t x s =>
    let addr := (x.rd 0 d 0 0).toNat
    let cont := x.rd 0 a 0 0
    let target : BitVec 64 := x.rd 0 b 1 0 ++ x.rd 0 b 0 0
    match localFault 1 Config.scratchBytes 0 addr 8 with
    | some r => .trap r
    | none =>
      match s.counterBad (.sp (dieOf x.core) addr) with
      | some e => .trap (counterFault 0 e)
      | none =>
      let now := decide (target.toNat ≤ s.counter (.sp (dieOf x.core) addr))
      yieldTo t x cont now (.counter addr target cont) s

/-- YIELD_PARK_RESUME (R107). -/
def execYieldParkResume (team : Nat) (s : State) : Out :=
  resume team (fun x p => match p with
    | .flags mask _ => x.flagsClear mask
    | .counter addr target _ => decide (target.toNat ≤ s.counter (.sp (dieOf x.core) addr))
    | _ => false) s

/-- WINBASE (R39, R108). -/
def execWinbase (base : BitVec 4) (s : State) : Out :=
  issue (.winbase base) s (teamAct fun x => { x with ctx := { x.ctx with win := 16 * base.toNat } })

/-- A ring put back. -/
def State.putRing (s : State) (x : Team) (p : Place) (q : Nat) (r : Ring) : State :=
  s.putPlace x.cluster { p with rings := p.rings.set q r }

/-- STGPOST (R109): a q that is not below the cluster's Q raises subcode 2. -/
def execStgpost (a q : Field) (s : State) : Out :=
  issue (.stgpost a q) s fun _ x s =>
    match s.ring? x q.toNat with
    | none => .trap (.illegal 2#4)
    | some (p, r) =>
      let slot := r.slots.getD r.post {}
      if slot.full then .wait (.ring q.toNat true) s else
      .next (s.putRing x p q.toNat
        { r with slots := r.slots.set r.post { full := true, phase := !slot.phase, payload := x.rdFirst 0 a },
                 post := (r.post + 1) % r.slots.length })

/-- STGTAKE (R109). -/
def execStgtake (d q : Field) (s : State) : Out :=
  issue (.stgtake d q) s fun t x s =>
    match s.ring? x q.toNat with
    | none => .trap (.illegal 2#4)
    | some (p, r) =>
      let slot := r.slots.getD r.take {}
      if !slot.full then .wait (.ring q.toNat false) s else
      .next ((s.putRing x p q.toNat
        { r with slots := r.slots.set r.take { slot with full := false }, take := (r.take + 1) % r.slots.length }).putTeam t
        ((x.uniform d slot.payload).setC slot.phase))

/-- STAGE_RING_RESUME (R109). -/
def execStageRingResume (team : Nat) (s : State) : Out :=
  resume team (fun x p => match p with
    | .ring q post => match s.ring? x q with
      | none => false
      | some (_, r) => if post then !(r.slots.getD r.post {}).full else (r.slots.getD r.take {}).full
    | _ => false) s

/-- The identity word of an IDR form (R111, R112). -/
def State.identity (s : State) (x : Team) : IdrForm → Word
  | .core => BitVec.ofNat 32 x.core
  | .die => BitVec.ofNat 32 (dieOf x.core)
  | .cluster => BitVec.ofNat 32 (clusterIndex x.cluster)
  | .teams => BitVec.ofNat 32 (((s.record? x.launch).map (·.teams)).getD 0)
  | .groups => BitVec.ofNat 32 x.groups
  | .launch => BitVec.ofNat 6 (s.queueOf x.launch) ++ BitVec.ofNat 26 (s.seqOf x.launch)
  | .arch => 0x00B00401#32

/-- IDR (R111). -/
def execIdr (f : IdrForm) (d : Field) (s : State) : Out :=
  issue (.idr f d) s fun t x s => .next (s.putTeam t (x.uniform d (s.identity x f)))

/-- What RETIRED and RETIRED.HI return: the instructions retired before this one (R113). (DEDUCED, log 28.) -/
def Team.readRetired (x : Team) (hi : Bool) (d : Field) : Team :=
  if hi then x.uniform d x.retHi
  else { x with retHi := (x.retired >>> 32).setWidth 32 }.uniform d (x.retired.setWidth 32)

/-- CYCLES, CYCLES.HI (R98, R113): in a deterministic launch the retired count; else a cycle count that has advanced by a
free amount since it was last read (DESIGN CHOICE, log 5). (DEDUCED, log 28.) -/
def execCycles (hi : Bool) (d : Field) (s : State) : Out :=
  issue (.cycles hi d) s fun t x s =>
    if s.deterministic x.launch then .next (s.putTeam t (x.readRetired hi d))
    else if hi then .next (s.putTeam t (x.uniform d x.cycHi))
    else
      let c := s.core x.core
      let n := c.cycles + 1#64 + BitVec.ofNat 64 (Config.freeCycles s.fresh)
      .next (({ s with fresh := s.fresh + 1 }.putCore x.core { c with cycles := n }).putTeam t
        ({ x with cycHi := (n >>> 32).setWidth 32 }.uniform d (n.setWidth 32)))

/-- RETIRED, RETIRED.HI (R113): the instructions retired before this one. (DEDUCED, log 28.) -/
def execRetired (hi : Bool) (d : Field) (s : State) : Out :=
  issue (.retired hi d) s (teamAct fun x => x.readRetired hi d)

/-- REGION.PC (R114). -/
def execRegionPc (d : Field) (s : State) : Out := issue (.regionPc d) s (teamAct fun x => x.uniform d x.regionPc)

/-- REGION.COUNT (R114). -/
def execRegionCount (d : Field) (s : State) : Out := issue (.regionCount d) s (teamAct fun x => x.uniform d x.regionN)

end Sys2Proof.Machine
end

