-- ==== Sys2Proof/Machine/Start.lean ====
section
/-!
DEFINITION. Teams that start: a core's room (R18, R87, R88), the state of a new team (R82), becoming resident with an implicit
DAWN (R93, R97, R177).
-/

namespace Sys2Proof.Machine

/-- Register rows that a team takes (R18, R87). -/
def Team.rows (x : Team) : Nat := x.groups * x.regsN

/-- Register rows taken on a core. -/
def State.usedRows (s : State) (core : Nat) : Nat :=
  (((s.core core).age.filterMap (aget s.teams)).map Team.rows).sum

/-- A core has room for a number of teams with a number of register rows together (R18). -/
def State.roomFor (s : State) (core teams rows : Nat) : Bool :=
  decide ((s.core core).age.length + teams ≤ Config.residentTeams) && decide (s.usedRows core + rows ≤ Config.registerRows)

/-- A team as it starts (R82): every lane active, everything else at its start value, its next clause at a code offset. Its
region registers name that offset. (DEDUCED, log 26.) (DEDUCED, log 27.) -/
def newTeam (launch cluster core tm role lanes regsN : Nat) (off : Nat) : Team :=
  { launch := launch, cluster := cluster, core := core, tm := tm, role := role, lanes := lanes, regsN := regsN,
    clause := BitVec.ofNat 52 off, ctx := { mask := fullMask lanes }, regionPc := BitVec.ofNat 32 off,
    regionCtx := { mask := fullMask lanes } }

/-- A team becomes resident: the tail of the age order, or the end of the rotation of a deterministic launch; the core performs
an implicit DAWN (R93, R97, R177); an island asleep wakes (R371). -/
def State.startTeam (s : State) (x : Team) : State :=
  let p := s.take
  let s := p.2
  let c := s.core x.core
  let s := s.putCore x.core { c with
    age := c.age ++ [p.1], rotation := if s.deterministic x.launch then c.rotation ++ [p.1] else c.rotation }
  ((s.putTeam p.1 x).dawn x.core).wake (s.islandOf x.core)

/-- The rectangle word of a cluster in its launch's chart (R86). -/
def State.chartWord (s : State) (launch index : Nat) : Word := ((aget s.launches launch).map (·.chart.getD index 0#32)).getD 0#32

/-- The fields of a cluster word (R86). -/
def chartDie (w : Word) : Nat := bits w 1 0
def chartY0 (w : Word) : Nat := bits w 4 2
def chartX0 (w : Word) : Nat := bits w 7 5
def chartHeight (w : Word) : Nat := bits w 11 8
def chartWidth (w : Word) : Nat := bits w 15 12

/-- The core at a position of a cluster word's rectangle (R86). -/
def chartCore (w : Word) (p : Nat) : Nat := rectCore (chartDie w) (chartX0 w) (chartY0 w) (chartWidth w) p

/-- A core lies in the rectangle of a cluster word. -/
def chartHas (w : Word) (core : Nat) : Bool :=
  (List.range (chartWidth w * chartHeight w)).any fun p => chartCore w p == core

/-- A launch declares roles (R85). -/
def Record.declares (r : Record) : Bool := r.flags.getLsbD 2

end Sys2Proof.Machine
end

