-- ==== Sys2Proof/Machine/Wave.lean ====
section
/-!
DEFINITION. Marker and wave instructions, majors 0x5E to 0x62, and the sequencer's events (R270 to R295).
-/

namespace Sys2Proof.Machine

/-- The failing check of the lowest subcode, and of the lowest field among those (R276). -/
def worst : List Bad → Option Bad
  | [] => none
  | b :: r => match worst r with
    | none => some b
    | some c => if b.1 < c.1 ∨ (b.1 = c.1 ∧ b.2 ≤ c.2) then some b else some c

/-- The wave trap (R276, R343). -/
def waveTrap (sub a b c d : Nat) : Report :=
  { Report.plain 12 sub with info0 := BitVec.ofNat 32 a, info1 := BitVec.ofNat 32 b, info2 := BitVec.ofNat 32 c,
                             info3 := BitVec.ofNat 32 d }

/-- Control bits that a wave record may use, and the bytes that must be 0 (R273, R283, R285, R292). -/
def waveReserved : WaveOp → Nat × List (Nat × Nat)
  | .mark => (8, [(40, 64)])
  | .clear => (8, [(40, 64)])
  | .prop => (13, [(19, 64)])
  | .propf => (13, [(19, 64)])
  | .collect => (4, [(36, 40), (56, 64)])
  | .collectg => (4, [(38, 40)])
  | .ncount => (0, [(16, 28), (36, 40), (48, 64)])
  | .descend => (0, [])

/-- The first reserved field that is not 0. -/
def reservedBad (op : WaveOp) (bs : List Byte) : Option Nat :=
  let r := waveReserved op
  if nat32 bs 12 / 2 ^ r.1 ≠ 0 then some 12
  else (r.2.flatMap fun q => (List.range (q.2 - q.1)).map (q.1 + ·)).find? fun i => nat8 bs i != 0

/-- A wave record (R273, R283, R285, R292). -/
def parseWave (op : WaveOp) (bs : List Byte) : WaveRec :=
  { control := word32 bs 12, types := nat16 bs 16, present := nat8 bs 18, absent := nat8 bs 19, pmask := word32 bs 20,
    pcmp := word32 bs 24, lo := nat32 bs 28, hi := nat32 bs 32, fill := word32 bs 36,
    edgeMask := if op == .collectg then nat16 bs 36 else nat16 bs 16, hops := nat8 bs 18, dest := word64 bs 40,
    cap := nat32 bs 48, offs := word64 bs 56 }

/-- Slot use and codes that PROP and PROPF allow (R285): the slots, and the codes. (DEDUCED, log 32.) -/
def propAllowed (cb tr fs fd : Nat) (same : Bool) (nd : Nat) (free : Bool) : Bool × Bool :=
  let fl := fmtFloat fs
  let pair := (fl && fmtFloat fd) || (fs == 4 && fd == 4)
  let ok := decide (tr ≤ 2)
  match cb with
  | 0 => (pair && same, ok && !free && (fl || tr == 0))
  | 1 => (pair && same, ok && (tr == 0 || (fl && (tr == 2 || !free))))
  | 2 => (pair && same, ok && (tr == 0 || (fl && (tr == 2 || !free))))
  | 3 => ((fs == 0 || fs == 4) && (fd == 0 || (fs == 4 && fd == 4 && same)), tr == 0)
  | 4 => ((fs == 0 || fs == 4) && (fd == 0 || (fs == 4 && fd == 4 && same)), tr == 0)
  | 5 => ((pair && same) || (fs == 0 && fd == 0), ok && !free && (tr == 0 || fl))
  | 6 => (fd == 0 || nd == 1, !free)
  | _ => (true, false)

/-- A landing of a wave: its copy address, its field, its bytes. -/
structure WaveDest where
  addr  : BitVec 64
  field : Nat
  len   : Nat

/-- The landings that a wave needs (R292). -/
def waveDests (g : Graph) (op : WaveOp) (r : WaveRec) : List WaveDest :=
  let n := r.top g - r.lo
  match op with
  | .collect =>
    let f := g.slot r.slotA
    let vec := if r.flag3 then (fmtBytes f.1 * f.2 + 3) / 4 * 4 else 0
    [⟨r.dest, 40, r.cap * (4 + vec)⟩]
  | .collectg => [⟨r.dest, 40, r.cap * (if r.flag3 then 8 else 4)⟩, ⟨r.offs, 56, (n + 1) * 4⟩]
  | .ncount => [⟨r.dest, 40, n * 4⟩]
  | _ => []

/-- A landing's destination is legal (R276 subcode 7, R292): space 1, 2 or 3, 4-byte aligned, within its space. -/
def State.waveDestOk (s : State) (x : Team) (d : WaveDest) : Bool :=
  let sp := bits d.addr 63 60
  decide (1 ≤ sp) && decide (sp ≤ 3) && (match s.resolveAddr x.cluster x.core d.addr with
    | some l => l.addr % 4 == 0 && s.inSpace x.launch l d.len
    | none => false)

/-- The checks of a wave instruction behind the record and the handle (R276, subcodes 3 to 8). -/
def State.waveChecks (s : State) (x : Team) (g : Graph) (op : WaveOp) (bs : List Byte) (r : WaveRec) : List Bad :=
  let fa := g.slot r.slotA
  let fb := g.slot r.slotB
  let pattern := [(decide (r.lo ≤ r.top g), 8, 28), (decide (r.top g ≤ g.count), 8, 32)]
  let counter := ((s.counterLoc x.launch x.cluster x.core (word32 bs 4)).isSome, 6, 4)
  let cref := ((s.counterLoc x.launch x.cluster x.core (word32 bs 52)).isSome, 6, 52)
  let dests := (waveDests g op r).map fun d => (s.waveDestOk x d, 7, d.field)
  failing (counter :: (match op with
    | .mark =>
      let fc := g.slot r.copySlot
      [(r.mode != 3, 4, 12),
       (!(r.mode == 1 || r.mode == 2) || (fa.1 != 0 && (r.mode != 2 || (fc.1 != 0 && fc.2 == fa.2))), 3, 12)] ++ pattern
    | .clear => (r.mode == 0, 4, 12) :: pattern
    | .prop =>
      let p := propAllowed r.combine r.transfer fa.1 fb.1 (fa.2 == fb.2) fb.2 false
      [(p.1, 3, 12), (p.2, 4, 12), (r.edgeMask != 0, 5, 16), (r.hops != 0, 5, 18)]
    | .propf =>
      let p := propAllowed r.combine r.transfer fa.1 fb.1 (fa.2 == fb.2) fb.2 true
      [(p.1, 3, 12), (p.2, 4, 12), (r.edgeMask != 0, 5, 16), (r.hops == 0, 5, 18)]
    | .collect => pattern ++ [cref, (r.cap != 0, 7, 48)] ++ dests
    | .collectg => pattern ++ [cref, (r.cap != 0, 7, 48), (r.edgeMask != 0, 5, 36)] ++ dests
    | .ncount => pattern ++ dests
    | .descend => []))

/-- n bytes read from the cluster's .sh as a load reads them (R168, R179, R273, R299, R328): it waits behind a watermark, and
meets the errors of a load. -/
def withShared (x : Team) (s : State) (off n : Nat) (k : List Byte → Act) : Act :=
  let dest := Dest.sh x.cluster x.core
  let bytes := (List.range n).map (off + ·)
  match bytes.findSome? fun a => match s.landingLoad dest a with
    | .fault id => some { s.landingReport 0 a id with lane := Word.ones }
    | _ => none with
  | some r => .trap r
  | none =>
    if bytes.any fun a => s.landingLoad dest a == .wait then .wait (.landing dest bytes) s
    else if decide (0 < n) && s.shBad x.cluster x.core off n then .trap { Report.plain 19 2 with info0 := BitVec.ofNat 32 off }
    else k (bytesAt (s.shLoad x.cluster x.core true) off n)

/-- A record of 64 bytes. -/
def withRecord (x : Team) (s : State) (off : Nat) (k : List Byte → Act) : Act := withShared x s off 64 k

/-- The record offset is aligned, and the record lies within the shared bytes (R273). -/
def State.recordAt (s : State) (x : Team) (off : Nat) : Bool :=
  off % 64 == 0 && decide (off + 64 ≤ s.sharedOf x.launch)

/-- A count reference: none for waves without one. -/
def State.countRefOf (s : State) (x : Team) (op : WaveOp) (bs : List Byte) : CounterLoc :=
  if op == .collect || op == .collectg then (s.counterLoc x.launch x.cluster x.core (word32 bs 52)).getD .none else .none

/-- Registering the landings of a wave (R274, R293). -/
def State.registerAll (s : State) (place : Nat) : List (Loc × Nat) → List Nat × State
  | [] => ([], s)
  | q :: r =>
    let p := s.register (.wave place) q.1.dest q.1.addr q.2 [] fun _ => false
    let rest := p.2.registerAll place r
    (p.1 :: rest.1, rest.2)

/-- A wave is accepted (R270, R274): its place, its number, its landings; the handle is the instruction's result and its
flag is taken. (DEDUCED, log 46.) -/
def State.acceptWave (s : State) (t : Nat) (x : Team) (d : Field) (place : Nat) (op : WaveOp) (graph : Nat) (bs : List Byte)
    (r : WaveRec) (dests : List (Loc × Nat)) : State :=
  let h : Word := BitVec.ofNat 26 s.waveNo ++ BitVec.ofNat 6 place
  let p := s.registerAll place dests
  let w : Wave :=
    { seqNo := s.waveNo, handle := h, op := op, graph := graph, launch := x.launch, cluster := x.cluster, core := x.core,
      wrec := { r with countRef := s.countRefOf x op bs },
      counter := (s.counterLoc x.launch x.cluster x.core (word32 bs 4)).getD .none, incr := word32 bs 8, ranges := p.1 }
  ({ p.2 with waveNo := s.waveNo + 1 }.putWave place w).putTeam t ((x.uniform d h).attach (.wave h))

/-- A wave instruction (R272 to R276): its checks, the wait for a place and for ranges, dusk.die, acceptance. -/
def waveBody (op : WaveOp) (d a : Field) : Body := fun t x s =>
  if x.mz then .next s else
  let off := (x.rdFirst 0 a).toNat
  if !s.recordAt x off then .trap (waveTrap 1 off 0 0 0) else
  withRecord x s off fun bs =>
    match reservedBad op bs with
    | some f => .trap (waveTrap 1 off f 0 0)
    | none =>
      match s.graphOf x.launch (word32 bs 0) with
      | none => .trap (waveTrap 2 off 0 0 0)
      | some graph =>
        let g := s.graph graph
        let r := parseWave op bs
        match worst (s.waveChecks x g op bs r) with
        | some b => .trap (waveTrap b.1 off b.2 0 0)
        | none =>
          let dests := (waveDests g op r).filterMap fun q => (s.resolveAddr x.cluster x.core q.addr).map fun l => (l, q.len)
          let units := dests.map fun q => unitOf q.1.dest
          match s.wavePlace with
          | none => .wait (.wave units) s
          | some place =>
            if !s.rangesFree units then .wait (.wave units) s else
            withDusk t x s fun s => .next (s.acceptWave t x d place op graph bs r dests)

/-- WAVE_ACCEPTANCE (R195, R270): a place and the ranges that a wave instruction waits for are free. -/
def execWaveAcceptance (team : Nat) (s : State) : Out :=
  resume team (fun _ p => match p with
    | .wave units => s.wavePlace.isSome && s.rangesFree units
    | _ => false) s

/-- MARK (R283, R284). -/
def execMark (d a : Field) (s : State) : Out := issue (.mark d a) s (waveBody .mark d a)

/-- CLEAR (R283, R284). -/
def execClear (d a : Field) (s : State) : Out := issue (.clear d a) s (waveBody .clear d a)

/-- PROP (R285 to R287). -/
def execProp (d a : Field) (s : State) : Out := issue (.prop d a) s (waveBody .prop d a)

/-- PROPF (R285, R288). -/
def execPropf (d a : Field) (s : State) : Out := issue (.propf d a) s (waveBody .propf d a)

/-- COLLECT (R292, R293). -/
def execCollect (d a : Field) (s : State) : Out := issue (.collect d a) s (waveBody .collect d a)

/-- COLLECTG (R292, R293). -/
def execCollectg (d a : Field) (s : State) : Out := issue (.collectg d a) s (waveBody .collectg d a)

/-- NCOUNT (R292, R293). -/
def execNcount (d a : Field) (s : State) : Out := issue (.ncount d a) s (waveBody .ncount d a)

/-- The failure of a wave has been read (R278): its ranges leave as at completion, and with the last one the wave. -/
def State.ackWave (s : State) (place : Nat) (w : Wave) : State :=
  let s := (w.ranges.foldl (fun s id => s.ackRange id) s).retireRanges w.ranges
  if w.ranges.any fun id => (aget s.ranges id).isSome then s else s.retireWave place w

/-- WAVEQ (R277 to R279): reading a failed status by a team of the launch acknowledges it. (DEDUCED, log 41.) -/
def execWaveq (d a : Field) (s : State) : Out :=
  issue (.waveq d a) s fun t x s =>
    if x.mz then .next s else
    let h := x.rdFirst 0 a
    match aget s.waves (bits h 5 0) with
    | some w =>
      if w.handle != h then .next (s.putTeam t (x.uniform d staleWord)) else
      let s := if w.phase == .failed && w.launch == x.launch then s.ackWave (bits h 5 0) w else s
      .next (s.putTeam t (((aget s.teams t).getD x).uniform d w.status))
    | none => .next (s.putTeam t (x.uniform d staleWord))

/-- Main-memory bytes that GBIND reads: nothing while a page of them faults. -/
def State.graphBytes (s : State) (root : BitVec 48) (va n : Nat) : Except (Nat × Nat) (List Byte) :=
  match s.faultIn root va n .read with
  | some f => .error f
  | none => .ok (s.vaBytes root .read va n)

/-- The header's checks (R266, R267), by field. -/
def headerChecks (bs : List Byte) : List Bad :=
  let slot := fun (k : Nat) =>
    let d := word32 bs (16 + 4 * k)
    let f := bits d 2 0
    let n := bits d 15 8 + 1
    (bits d 31 16 == 0 && bits d 7 3 == 0 && decide (f ≤ 4) && (f != 0 || n == 1) && decide (fmtBytes f * n ≤ 256), 9, 16 + 4 * k)
  failing ([(nat32 bs 0 == 1, 9, 0), (decide (1 ≤ nat32 bs 4) && decide (nat32 bs 4 ≤ 2 ^ 32 - 2), 9, 4),
    (decide (nat16 bs 8 ≤ 383), 9, 8), (decide (1 ≤ nat16 bs 10) && decide (nat16 bs 8 + nat16 bs 10 ≤ 384), 9, 10),
    (zeroBytes bs 12 16, 9, 12), (nat32 bs 48 % 128 == 0, 9, 48), (zeroBytes bs 56 128, 9, 56)]
    ++ (List.range 8).map slot)

/-- A graph as its header gives it (R266, R267). -/
def parseGraph (launch queue : Nat) (bs : List Byte) : Graph :=
  { live := true, launch := launch, queue := queue, count := nat32 bs 4, first := nat16 bs 8, engines := nat16 bs 10,
    table := (word64 bs 48).toNat,
    slots := (List.range 8).map fun k =>
      let d := word32 bs (16 + 4 * k)
      (bits d 2 0, bits d 15 8 + 1) }

/-- Where the base of an array, or a page of the array, does not lie in its engine's channel, or does not translate (R268, R280). (DEDUCED, log 41.) -/
def State.spanCheck (s : State) (root : BitVec 48) (engine : Nat) (q : Nat × Nat × Nat) : Option (Nat × Option (Nat × Nat)) :=
  match s.faultIn root q.2.1 (max 1 q.2.2) .read with
  | some f => some (q.1, some f)
  | none =>
    if (touched q.2.1 (max 1 q.2.2)).all fun v => ((s.pa? root v .read).bind engineOf) == some engine then none
    else some (q.1, none)

/-- GBIND (R280): the header, the partition table, their checks, the lowest free place (DESIGN CHOICE, log 8). -/
def execGbind (d a : Field) (s : State) : Out :=
  issue (.gbind d a) s fun t x s =>
    if x.mz then .next s else
    let v : BitVec 64 := x.rdFirst 0 a 1 ++ x.rdFirst 0 a 0
    let va := v.toNat
    let root := s.rootOf x.launch
    let trap := fun (sub field k : Nat) => Act.trap (waveTrap sub (bits v 31 0) field (bits v 63 32) k)
    let park := fun (f : Nat × Nat) (field k : Nat) =>
      if x.deniedAt f.2 then trap 10 field k
      else Act.wait .fault (s.raiseFault (dieOf x.core) x.launch (.team t) f.1 f.2)
    if va % 128 ≠ 0 then trap 9 0 0 else
    match s.graphBytes root va 128 with
    | .error f => park f 0 0
    | .ok hd =>
      match worst (headerChecks hd) with
      | some b => trap b.1 b.2 0
      | none =>
        let g := parseGraph x.launch (s.queueOf x.launch) hd
        match s.graphBytes root g.table (128 * g.engines) with
        | .error f => park f 48 0
        | .ok pb =>
          let raw := chunks 128 g.engines pb
          let parts := (List.range g.engines).zip raw
          match parts.findSome? fun q => (worst (g.partChecks q.1 q.2)).map fun b => (q.1, b) with
          | some (j, b) => trap b.1 b.2 (1 + j)
          | none =>
            match parts.findSome? fun q =>
              ((g.spans q.1 (parsePart q.2)).findSome? (s.spanCheck root (g.first + q.1))).map fun b => (q.1, b) with
            | some (j, field, some f) => park f field (1 + j)
            | some (j, field, none) => trap 10 field (1 + j)
            | none =>
              match lowest 64 fun p => !(s.graph p).live with
              | none => .next (s.putTeam t ((x.uniform d Word.ones).setZ false))
              | some p =>
                let gen := (s.graph p).gen
                let h : Word := 0#18 ++ BitVec.ofNat 8 gen ++ BitVec.ofNat 6 p
                .next ((s.putGraph p { g with gen := gen }).putTeam t
                  ((x.uniform d h).setZ true))

/-- GUNBIND (R282): accepted into the sequencer order; the graph is unbound once its waves have been retired. -/
def execGunbind (a : Field) (s : State) : Out :=
  issue (.gunbind a) s fun t x s =>
    if x.mz then .next s else
    match s.graphOf x.launch (x.rdFirst 0 a) with
    | none => .trap (waveTrap 2 0 0 0 0)
    | some p =>
      let g := s.graph p
      let s := { s with waveNo := s.waveNo + 1 }.putGraph p { g with unbind := some s.waveNo }
      .next ((s.putTeam t (x.attach (.gunbind p g.gen))).settleUnbind p)

/-- WAVE_START (R291): a wave that nothing holds any more begins. -/
def execWaveStart (place : Nat) (s : State) : Out :=
  ofEvent (match aget s.waves place with
    | none => none
    | some w =>
      if w.phase != .held || w.frozen || w.err != 0 || s.waveHeld w || !s.waveIdle place then none
      else some (s.startWave place w))

/-- WAVE_HOP_COMMIT (R287): the next hop of a level-mode wave. -/
def execWaveHopCommit (place : Nat) (s : State) : Out :=
  ofEvent (match aget s.waves place with
    | none => none
    | some w =>
      if w.op != .prop || w.phase != .running || w.frozen || s.waveOver w || !s.waveIdle place then none
      else some (s.perform place w (hopWork (s.eye w) w)))

/-- PROPF_DELIVERY (R288, R289): one of the deliveries or sends of a free-mode wave, whichever. -/
def execPropfDelivery (place : Nat) (s : State) : Out :=
  ofEvent (match aget s.waves place with
    | none => none
    | some w =>
      if w.op != .propf || w.phase != .running || w.frozen || s.waveOver w || !s.waveIdle place then none
      else
        let p := s.choose (w.sends.length + w.frontier.length)
        some (p.2.perform place w (freeWork (p.2.eye w) w p.1)))

/-- WAVE_END (R274, R278). -/
def execWaveEnd (place : Nat) (s : State) : Out :=
  ofEvent (match aget s.waves place with
    | none => none
    | some w => if s.waveOver w then some (s.endWave place w) else none)

/-- A graph uses an engine's channel. -/
def Graph.uses (g : Graph) (engine : Nat) : Bool := decide (g.first ≤ engine) && decide (engine < g.first + g.engines)

/-- A running wave on a graph that uses an engine ends with error 6 (R294). (DEDUCED, log 40.) -/
def State.loseWave (s : State) (engine : Nat) (q : Nat × Wave) : Nat × Wave :=
  if q.2.phase == .running && q.2.op != .descend && (s.graph q.2.graph).uses engine && q.2.err == 0
  then (q.1, { q.2 with err := 6 }) else q

/-- ENGINE_RESIDUE_MISMATCH (R21, R294, R301): a first mismatch is recomputed; a second retires the engine, whose channel the
stack's spare takes over, with an event of kind 5. With the spare in use the channel is lost: the running waves of its graphs end in
error, and so does every later access of a wave or a walk to it. (DEDUCED, log 40.) -/
def execEngineResidueMismatch (engine : Nat) (second : Bool) (s : State) : Out :=
  if 384 ≤ engine then .fault .eventNotEnabled
  else if !second then .next s
  else
    let s := { s with engines := s.engines ++ [engine] }
    if s.channelLost engine then .next { s with waves := s.waves.map (s.loseWave engine) }
    else .next (s.sendEvent 5 0 0 (BitVec.ofNat 32 engine) 0)

/-- Launches that have a graph bound. -/
def State.boundLaunches (s : State) : List Nat := ((s.graphs.filter fun g => g.2.live).map fun g => g.2.launch).eraseDups

/-- SEQUENCER_TAKEOVER (R271, R358): the standby takes over without loss, with an event of kind 6. When it fails too, every
launch with a bound graph ends with Code 0x1403. (DEDUCED, log 40.) -/
def execSequencerTakeover (s : State) : Out :=
  match s.seqUnit with
  | .active => .next ({ s with seqUnit := .standby }.sendEvent 6 0 0 0#32 0)
  | .standby => .next (s.boundLaunches.foldl (fun s l => s.abortLaunch l 0x1403#32 0#32) { s with seqUnit := .lost })
  | .lost => .fault .eventNotEnabled

end Sys2Proof.Machine
end

