-- ==== Sys2Proof/Machine/Fabric.lean ====
section
/-!
DEFINITION. Messages, allowances, child teams, majors 0x68 to 0x6A, and the events of the fabric and its links (R321 to R337).
-/

namespace Sys2Proof.Machine

/-- The fabric trap (R331, R343). -/
def fabricTrap (sub : Nat) (v : Word) : Report := { Report.plain 15 sub with info0 := v }

/-- Fields of a message's target (R327). -/
def tgtHandler (lo : Word) : Nat := bits lo 29 22
def tgtCluster (lo : Word) : Nat := bits lo 21 8
def tgtCore (lo : Word) : Nat := bits lo 7 0

/-- Cluster and core, or the handler, that a message names do not exist in a launch: the reason of R330. -/
def State.msgReason (s : State) (launch : Nat) (lo : Word) : Option Nat :=
  match s.record? launch with
  | none => some 3
  | some r =>
    if r.clusters ≤ tgtCluster lo ∨ !chartHas (s.chartWord launch (tgtCluster lo)) (tgtCore lo) then some 1
    else if r.handlers ≤ tgtHandler lo then some 2
    else none

/-- The checks of AMSEND (R327, R331): the first failing subcode with the value that failed. -/
def State.sendTrap (s : State) (x : Team) (lo hi off len : Word) : Option Report :=
  let peer := bits hi 8 0
  let peers := s.peerCount x.launch
  if bits lo 31 30 ≠ 0 then some (fabricTrap 1 lo)
  else if bits hi 31 9 ≠ 0 then some (fabricTrap 1 hi)
  else if peer = 0 ∧ (s.msgReason x.launch lo).isSome then some (fabricTrap 2 lo)
  else if peer ≠ 0 ∧ peers < peer then some (fabricTrap 3 hi)
  else if 256 < len.toNat ∨ len.toNat % 4 ≠ 0 then some (fabricTrap 4 len)
  else if off.toNat % 4 ≠ 0 ∨ s.sharedOf x.launch < off.toNat + len.toNat then some (fabricTrap 4 off)
  else none

/-- Teams of other dies whose last batches a copy that the handler of a message releases need not see yet (R414): those of the sender, and
the sender itself where the handler runs on another die. (DEDUCED, log 18.) -/
def Team.behind (x : Team) (t core : Nat) : List Nat := if dieOf core == dieOf x.core then x.unseen else t :: x.unseen

/-- Sending a message through its entry, or waiting for its allowance with the payload as it was read (R323, R325, R328). -/
def sendMsg (t : Nat) (x : Team) (lo hi : Word) (payload : List Word) (s : State) : Act :=
  let peer := bits hi 8 0
  let e := if peer = 0 then s.coreRouter (tgtCore lo) else 98 + ((s.peer? x.launch (peer - 1)).map (·.cls)).getD 0
  if s.allowance x.core e = 0 then
    .wait (.allowance e) (s.putTeam t { x with todo := { packets := payload.map fun w => (0, [w]), begun := true } })
  else
    let m : Msg :=
      { launch := x.launch, cluster := clusterKey x.launch (tgtCluster lo), core := tgtCore lo, handler := tgtHandler lo,
        payload := payload, unseen := x.behind t (tgtCore lo) }
    let s := s.putTeam t { x with todo := {} }
    .next (s.send t x e (if peer = 0 then s.coreEnd (tgtCore lo) else s.anyPort) (.msg peer m (hi ++ lo)))

/-- AMSEND (R327, R328): the team's batch is published, then the payload is read and sent. -/
def execAmsend (a b : Field) (s : State) : Out :=
  issue (.amsend a b) s fun t x s =>
    if x.mz then .next s else
    let lo := x.rdFirst 0 a 0
    let hi := x.rdFirst 0 a 1
    let off := x.rdFirst (litCount [a]) b 0
    let len := x.rdFirst (litCount [a]) b 1
    if x.todo.begun then sendMsg t x lo hi (x.todo.packets.flatMap (·.2)) s else
    match s.sendTrap x lo hi off len with
    | some r => .trap r
    | none => withDusk t x s fun s =>
        withShared x s off.toNat len.toNat fun bs => sendMsg t x lo hi ((chunks 4 64 bs).map leWord) s

/-- SAREAD (R326). -/
def execSaread (d a : Field) (s : State) : Out :=
  issue (.saread d a) s fun t x s =>
    let sel := fun l => s.selector x.launch (x.rd 0 a 0 l)
    match x.active.findSome? fun l => match sel l with
      | .error sub => some (fabricTrap sub (x.rd 0 a 0 l))
      | .ok _ => none with
    | some r => .trap r
    | none => .next (s.putTeam t (x.result d fun l => match sel l with
      | .ok e => BitVec.ofNat 32 (s.allowance x.core e)
      | .error _ => 0#32))

/-- SATEST (R326). -/
def execSatest (a : Field) (s : State) : Out :=
  issue (.satest a) s fun t x s =>
    if x.mz then .next s else
    let v := x.rdFirst 0 a
    match s.selector x.launch v with
    | .error sub => .trap (fabricTrap sub v)
    | .ok e => .next (s.putTeam t (x.setZ (s.allowance x.core e == 0)))

/-- Items of one key (R332). -/
def sameKey (a b : SpawnItem) : Bool := a.cluster == b.cluster && a.target == b.target && a.role == b.role

/-- Up to n items of a key taken from a queue: the items, and what is left. -/
def takeItems (k : SpawnItem) (n : Nat) (q : List SpawnItem) : List SpawnItem × List SpawnItem :=
  let own := (q.filter (sameKey k)).take n
  let rest := q.foldl (fun (p : List SpawnItem × Nat) i =>
    if sameKey k i && decide (p.2 < n) then (p.1, p.2 + 1) else (p.1 ++ [i], p.2)) ([], 0)
  (own, rest.1)

/-- Child teams of 1,024 items form as soon as as many of one key wait (R333); fuel bounds how many form. -/
def Core.formFull : Nat → Core → Core
  | 0, c => c
  | fuel + 1, c =>
    match c.spawnQ.find? fun k => decide (1024 ≤ (c.spawnQ.filter (sameKey k)).length) with
    | none => c
    | some k =>
      let p := takeItems k 1024 c.spawnQ
      Core.formFull fuel { c with spawnQ := p.2, children := c.children ++ [p.1] }

/-- A SPAWN target is no code offset of a clause header (R331 subcode 5). -/
def State.spawnBad (s : State) (launch : Nat) (v : Word) : Bool :=
  !s.codeTarget launch v || !isHeader (s.codeWord launch (v.setWidth 52))

/-- SPAWN (R332): every target is checked; then dusk.die, room for all the items, and the items. -/
def execSpawn (a b : Field) (s : State) : Out :=
  issue (.spawn a b) s fun t x s =>
    if x.mz then .next s else
    let n := litCount [a]
    let tgt := fun l => x.rd 0 a 0 l
    let bad := fun l => !s.codeTarget x.launch (tgt l)
    match x.active.find? bad with
    | some l => .trap (fabricTrap 5 (tgt l))
    | none =>
      let root := s.rootOf x.launch
      match x.active.findSome? fun l => (s.faultIn root (s.codeVa x.launch ((tgt l).setWidth 52)) 4 .fetch).map fun f => (l, f) with
      | some (l, k, va) =>
        if x.deniedAt va then .trap (Report.fetch ((tgt l).setWidth 52))
        else .wait .fault (s.raiseFault (dieOf x.core) x.launch (.team t) k va)
      | none =>
        match x.active.find? fun l => s.spawnBad x.launch (tgt l) with
        | some l => .trap (fabricTrap 5 (tgt l))
        | none => withDusk t x s fun s =>
          let c := s.core x.core
          if Config.spawnItems < c.spawnQ.length + x.active.length then .wait .spawn s else
          let items := x.active.map fun l =>
            ({ launch := x.launch, cluster := x.cluster, target := tgt l, role := x.role,
               words := (List.range 4).map fun i => x.rd n b i l } : SpawnItem)
          .next (s.putCore x.core (Core.formFull 4 { c with spawnQ := c.spawnQ ++ items }))

/-- SPAWN_TIMEOUT (R333): the waiting items of the oldest item's key form one team. -/
def execSpawnTimeout (core : Nat) (s : State) : Out :=
  let c := s.core core
  ofEvent (match c.spawnQ with
    | [] => none
    | k :: _ =>
      let p := takeItems k 1024 c.spawnQ
      some (s.putCore core { c with spawnQ := p.2, children := c.children ++ [p.1] }))

/-- A child team (R333): lane i takes item i. -/
def childTeam (s : State) (core : Nat) (k : SpawnItem) (items : List SpawnItem) : Team :=
  let x := newTeam k.launch k.cluster core 65 k.role items.length (((s.record? k.launch).map (·.regs)).getD 16) k.target.toNat
  { x with regs := tsets zeros [] ((List.range 4).flatMap fun r => (List.range items.length).map fun l =>
      (r * 1024 + l, ((items[l]?).map fun i => i.words.getD r 0#32).getD 0#32)) }

/-- CHILD_TEAM_START (R333): the oldest formed team whose cluster is resident and that the core has room for. -/
def execChildTeamStart (core : Nat) (s : State) : Out :=
  let c := s.core core
  let fits := fun (g : List SpawnItem) => match g with
    | [] => false
    | k :: _ => s.residentCluster k.cluster && s.roomFor core 1 (childTeam s core k g).rows
  ofEvent (match c.children.find? fits with
    | some (k :: r) =>
      let rest := c.children.erase (k :: r)
      some ((s.putCore core { c with children := rest }).startTeam (childTeam s core k (k :: r)))
    | _ => none)

/-- The oldest launch of a queue that has not ended (R338). -/
def State.oldestLaunch (s : State) (queue : Nat) : Option Nat :=
  (s.launches.find? fun l => l.2.queue == queue && l.2.phase != .ended).map (·.1)

/-- The core of a message does not belong to its cluster, which may have been restored elsewhere (R330, R353). (DEDUCED, log 37.) -/
def State.strayMsg (s : State) (m : Msg) : Bool := (aget s.clusters m.cluster).any fun c => (c.place? m.core).isNone

/-- A message reaches its core (R329): the incoming queue while its cluster is resident, else the spill ring; nothing when the
place it needs is taken, since the router then withholds credit. -/
def State.deliver (s : State) (m : Msg) : Option State :=
  if s.residentCluster m.cluster then
    let c := s.core m.core
    if Config.incomingMessages ≤ c.incoming.length then none
    else some (s.putCore m.core { c with incoming := c.incoming ++ [m] })
  else
    let n := s.queueOf m.launch
    let q := s.queue n
    if Config.spillMessages ≤ q.spill.length then none else some (s.putQueue n { q with spill := q.spill ++ [m] })

/-- Messages that this module rejects for a peer are answered with the reason (R330). (DEDUCED, log 18.) -/
def State.rejectMsg (s : State) (why : String) : State := { s with replies := s.replies ++ [.error why] }

/-- A message of this module (R329, R330): for a peer it leaves the module, unless the peer is unavailable or drops it; an error that the peer
replies with makes it unavailable for this message (R338). (DEDUCED, log 33.) -/
def State.msgArrives (s : State) (id : Nat) (p : Packet) (peer : Nat) (m : Msg) (target : BitVec 64) : Option State :=
  let gone := s.arrive id p
  if !s.mayArrive id p then none
  else if peer ≠ 0 then
    if !s.peerUp (s.queueOf m.launch) (peer - 1) then some (gone.dropMsg p.team m.launch (peer - 1) target 4)
    else
      let k := gone.choose 5
      if k.1 = 0 then some { k.2 with replies := k.2.replies ++ [.msgToPeer (peer - 1) target m.payload] }
      else some (k.2.dropMsg p.team m.launch (peer - 1) target k.1)
  else if (aget s.launches m.launch).all (fun l => l.phase == .ended) then some (gone.dropMsg p.team m.launch 0 target 3)
  else if s.strayMsg m then some (gone.dropMsg p.team m.launch 0 target 1)
  else gone.deliver m

/-- ACTIVE_MESSAGE_ARRIVAL (R329, R330): a packet of this module, or a message of a peer to a queue of this module. (DEDUCED, log 33.) -/
def execActiveMessageArrival (src : MsgSource) (s : State) : Out :=
  ofEvent (match src with
    | .packet id => match aget s.packets id with
      | none => none
      | some p => match p.kind with
        | .msg peer m target => s.msgArrives id p peer m target
        | _ => none
    | .peer queue target payload =>
      match s.oldestLaunch queue with
      | none => some (s.rejectMsg "no launch")
      | some l =>
        if (s.msgReason l target).isSome || decide (64 < payload.length) then some (s.rejectMsg "message") else
        s.deliver { launch := l, cluster := clusterKey l (tgtCluster target), core := tgtCore target,
                    handler := tgtHandler target, payload := payload, remote := true })

/-- The handler team of a message (R329). -/
def handlerTeam (r : Record) (m : Msg) (off : Nat) : Team :=
  let x := newTeam m.launch m.cluster m.core 64 (if r.declares then 1 else 0) 32 r.regs off
  { x with unseen := m.unseen, regs := tsets zeros [] ((List.range m.payload.length).flatMap fun j => (List.range 32).map fun l =>
      (j * 1024 + l, m.payload.getD j 0#32)) }

/-- A message's handler can start on its core (R329): its cluster is resident, and the core has room. -/
def State.handlerFits (s : State) (m : Msg) : Bool :=
  match s.record? m.launch with
  | some r => s.residentCluster m.cluster && s.roomFor m.core 1 r.regs
  | none => false

/-- Messages that wait for a core: in its incoming queue, then in the spill rings. -/
def State.messagesFor (s : State) (core : Nat) : List Msg :=
  (s.core core).incoming ++ s.queues.flatMap fun q => q.2.spill.filter (·.core == core)

/-- A message leaves its queue; a place that it leaves in the spill ring goes to a message that waits for one (R329). -/
def State.takeMsg (s : State) (core : Nat) (m : Msg) : State :=
  let c := s.core core
  if c.incoming.contains m then s.putCore core { c with incoming := c.incoming.erase m }
  else
    let n := s.queueOf m.launch
    let q := s.queue n
    (s.putQueue n { q with spill := q.spill.erase m }).spillOut n

/-- HANDLER_TEAM_START (R329): the first waiting message whose handler can start. Its handler table entry is read through the
launch's translation: a fault waits for the host (DEDUCED, log 18). -/
def execHandlerTeamStart (core : Nat) (s : State) : Out :=
  let busy := fun (l : Nat) => s.dies.any fun d => (d.2.faults ++ d.2.waiting).any fun f => f.who == .message core l
  ofEvent (match (s.messagesFor core).find? fun m => s.handlerFits m && !busy m.launch with
    | none => none
    | some m => (s.record? m.launch).map fun r =>
      let va := r.htab.toNat + 4 * m.handler
      let root := s.rootOf m.launch
      match s.faultIn root va 4 .read with
      | some (k, v) => s.raiseFault (dieOf core) m.launch (.message core m.launch) k v
      | none =>
        let off := leNat (s.vaBytes root .read va 4)
        ((s.cache root va 4 .read).takeMsg core m).startTeam (handlerTeam r m off))

/-- A team held by an allowance entry of its core proceeds (R325). -/
def Team.allowed (core entry : Nat) (x : Team) : Team :=
  if x.core == core && x.park == some (.allowance entry) then { x with park := none } else x

/-- The teams that an entry held are issued again. -/
def State.releaseHeld (s : State) (core entry : Nat) : State :=
  { s with teams := s.teams.map fun t => (t.1, t.2.allowed core entry) }

/-- ALLOWANCE_CREDIT (R323, R325): a credit for a packet whose place has been freed; a congestion window that the transport sets
for a class; or a class whose allowance has returned. (DESIGN CHOICE, log 43.) -/
def execAllowanceCredit (core entry : Nat) (window : Option Nat) (s : State) : Out :=
  ofEvent (match window with
    | some w =>
      if 98 ≤ entry ∧ entry < 114 then
        let s := { s with windows := aput s.windows (entry - 98) w }
        some (if s.allowance core entry = 0 then s else s.releaseHeld core entry)
      else none
    | none =>
      if entry < 98 then
        let flight := (s.packets.filter fun p => p.2.core == core && p.2.entry == entry).length
        if s.allowance core entry + flight < 64 then some ((s.credit core entry).releaseHeld core entry) else none
      else if s.allowance core entry != 0 && s.teams.any fun t => t.2.core == core && t.2.park == some (.allowance entry)
      then some (s.releaseHeld core entry) else none)

/-- A packet has to perform before its endpoint acknowledges the markers of a team's release (R322): the team's own, and what its core sent there
before the markers. (DEDUCED, log 18.) -/
def Packet.ahead (p : Packet) (team : Nat) (x : Team) : Bool :=
  p.team == team || (p.core == x.core && x.markers.any fun m => decide (p.sentAt < m))

/-- FLUSH_MARKER_ACK (R322): the endpoints of a waiting team acknowledge that have performed every packet ahead of its markers. (DEDUCED, log 18.) -/
def execFlushMarkerAck (team : Nat) (s : State) : Out :=
  ofEvent (match aget s.teams team with
    | none => none
    | some x =>
      let left := x.sentTo.filter fun e => s.packets.any fun p => p.2.dst == e.2 && p.2.ahead team x
      if x.park == some .flush && left.length < x.sentTo.length
      then some (s.putTeam team { x with sentTo := left, park := none }) else none)

/-- LINK_REPLAY_REQUEST (R335): the receiver finds the oldest unacknowledged flit lost or corrupt and requests that one sequence
number; the later flits are held in its reorder store. When the replayed flit arrives, which the replay buffer must still hold, they are
delivered in order. (DESIGN CHOICE, log 43.) -/
def execLinkReplayRequest (link : Nat) (s : State) : Out :=
  let l := s.link link
  ofEvent (if !l.up then none else
    match l.missing, l.replay with
    | some q, r => if r.contains q then some (s.putLink link { l with missing := none, held := [] }) else none
    | none, q :: r =>
      some { s.putLink link { l with missing := some q, held := r } with replies := s.replies ++ [.replay link q.toNat] }
    | none, [] => none)

/-- A packet in flight over a link that is out of service is resent on another listed path (R335); it leaves the other links of the old one. (DESIGN CHOICE, log 43.) -/
def State.resend (s : State) (link : Nat) (q : Nat × Packet) : State :=
  if !q.2.links.contains link then s else
  let s := s.exitLinks q.2 (q.2.links.filter (· != link))
  let p : Packet := { q.2 with path := s.choosePath q.2.src.router q.2.dst.router, sentAt := s.nextId }
  State.enterLinks { s with packets := aput s.packets q.1 p, nextId := s.nextId + 1 } p

/-- A link is taken out of service (R335, R341): its paths leave every table, since a table lists no path over it; packets in flight
on it are resent in the order in which they were sent; an event of kind 7. -/
def State.linkDown (s : State) (n : Nat) : State :=
  let s := s.putLink n { s.link n with up := false, audit := none, missing := none, held := [], replay := [] }
  (s.packets.foldl (fun s q => s.resend n q) s).sendEvent 7 0 0 (BitVec.ofNat 32 n) 0

/-- LINK_OUT_OF_SERVICE (R335): the missing flit of a link has left the replay buffer before it was repaired. (DESIGN CHOICE, log 43.) -/
def execLinkOutOfService (link : Nat) (s : State) : Out :=
  let l := s.link link
  ofEvent (if l.up && l.missing.any fun q => !l.replay.contains q then some (s.linkDown link) else none)

/-- AUDIT_FLIT (R336): the sender inserts an audit flit when no flit has been sent for long; a clock decides. After every 4,096 flits
State.enterLink inserts one. (DESIGN CHOICE, log 43.) -/
def execAuditFlit (link : Nat) (s : State) : Out :=
  let l := s.link link
  ofEvent (if l.up && l.audit.isNone then some (s.auditLink link) else none)

/-- A soft error in a link's counts (R336): the sender misses a credit, or the receiver's count of flits is wrong. (DESIGN CHOICE, log 42.) -/
def State.upset (s : State) (link : Nat) (credit : Bool) : State :=
  let l := s.link link
  s.putLink link (if credit then { l with credits := l.credits - 1#16, avail := l.avail - 1#16 } else { l with recv := l.recv - 1#16 })

/-- AUDIT_REPLY (R336): once the flits sent before it have been received, S is checked against Rv, and lost credits come back; a
failed check takes the link out of service. (DESIGN CHOICE, log 43.) -/
def execAuditReply (link : Nat) (s : State) : Out :=
  let l := s.link link
  ofEvent (match l.audit with
    | none => none
    | some (v, sentAt) =>
      if l.missing.isSome || s.packets.any fun p => p.2.links.contains link && decide (p.2.sentAt < sentAt) then none
      else if v != l.recv - l.beyond then some (s.linkDown link)
      else some (s.putLink link { l with avail := l.avail + (l.freed - l.credits), credits := l.freed, audit := none }))

/-- PEER_INGRESS_FLUSH (R322): what the peer's packets do here they do as they arrive, so the confirmation returns. -/
def execPeerIngressFlush (flush : Nat) (s : State) : Out :=
  .next { s with replies := s.replies ++ [.flushed flush] }

/-- OTHER_DELIVERY_MODE_PACKET (R337): discarded and counted. (DEDUCED, log 33.) -/
def execOtherDeliveryModePacket (port : Nat) (s : State) : Out :=
  ofEvent (if port < 8 then some { s with dropped := tset zeros s.dropped port (tget zeros s.dropped port + 1#32) } else none)

end Sys2Proof.Machine
end

