-- ==== Sys2Proof/Machine/Integer.lean ====
section
/-!
DEFINITION. The integer class, majors 0x10 to 0x21 (R115 to R138): the words each form computes, then the meanings, each
one the form's word in every active lane.
-/

namespace Sys2Proof.Machine

/-- Sat() to the signed 32-bit range (R59, R64). -/
def satI32 (n : Int) : Word := BitVec.ofInt 32 (max (-2147483648) (min 2147483647 n))

/-- Sat() to the natural 32-bit range. -/
def satN32 (n : Int) : Word := BitVec.ofInt 32 (max 0 (min 4294967295 n))

/-- ADDS (R121). -/
def addsWord (t : Sgn) (a b : Word) : Word :=
  match t with
  | .i32 => satI32 (a.toInt + b.toInt)
  | .n32 => satN32 ((a.toNat : Int) + b.toNat)

/-- SUBS (R121). -/
def subsWord (t : Sgn) (a b : Word) : Word :=
  match t with
  | .i32 => satI32 (a.toInt - b.toInt)
  | .n32 => satN32 ((a.toNat : Int) - b.toNat)

/-- ADDC (R122): the carry out, with bit 0 of c carried in. -/
def addcWord (c a b : Word) : Word := Word.ofBool (decide (2 ^ 32 ≤ a.toNat + b.toNat + c.toNat % 2))

/-- SUBC (R122): the borrow out, with bit 0 of c borrowed in. -/
def subcWord (c a b : Word) : Word := Word.ofBool (decide (a.toNat < b.toNat + c.toNat % 2))

/-- The exact signed product modulo 2^64 (R123). -/
def prodI (a b : Word) : BitVec 64 := BitVec.ofInt 64 (a.toInt * b.toInt)

/-- The exact natural product (R123). -/
def prodN (a b : Word) : BitVec 64 := BitVec.ofNat 64 (a.toNat * b.toNat)

/-- Bits 31:0 and 63:32 of a doubleword. -/
def loWord (p : BitVec 64) : Word := p.extractLsb' 0 32
def hiWord (p : BitVec 64) : Word := p.extractLsb' 32 32

/-- One restoring step on quotient bits and remainder, the remainder held in 33 bits (R125). -/
def divStep (a q rm : Nat) : Nat × Nat :=
  let r := (2 * rm + q / 2 ^ 31 % 2) % 2 ^ 33
  let q := 2 * q % 2 ^ 32
  if a ≤ r then (q + 1, r - a) else (q, r)

/-- Four restoring steps (R125): the words written to vd and vd + 1, of a remainder that needs 33 bits its low 32. (DEDUCED, log 56.) -/
def divStep4 (a q rm : Word) : Word × Word :=
  let s1 := divStep a.toNat q.toNat rm.toNat
  let s2 := divStep a.toNat s1.1 s1.2
  let s3 := divStep a.toNat s2.1 s2.2
  let s4 := divStep a.toNat s3.1 s3.2
  (BitVec.ofNat 32 s4.1, BitVec.ofNat 32 s4.2)

/-- SHL, SHR (R128): a shift by 32 or more leaves no bit, or copies of the sign. -/
def shlWord (a b : Word) : Word := a <<< b.toNat
def shrNWord (a b : Word) : Word := a >>> b.toNat
def shrIWord (a b : Word) : Word := a.sshiftRight b.toNat

/-- ROTL, ROTR by b mod 32 places (R128). -/
def rotlWord (a b : Word) : Word := a.rotateLeft (b.toNat % 32)
def rotrWord (a b : Word) : Word := a.rotateRight (b.toNat % 32)

/-- The lesser and the greater of two words under a reading (R129). -/
def minI (a b : Word) : Word := if a.toInt ≤ b.toInt then a else b
def maxI (a b : Word) : Word := if a.toInt ≤ b.toInt then b else a
def minN (a b : Word) : Word := if a.toNat ≤ b.toNat then a else b
def maxN (a b : Word) : Word := if a.toNat ≤ b.toNat then b else a

/-- ABS.I32 (R129). -/
def absWord (a : Word) : Word := if a.msb then 0#32 - a else a

/-- The relation of SETC (R130). -/
def setcHolds (c : SetCond) (a b : Word) : Bool :=
  match c with
  | .eq => a == b
  | .ne => a != b
  | .ltI => decide (a.toInt < b.toInt)
  | .leI => decide (a.toInt ≤ b.toInt)
  | .gtI => decide (b.toInt < a.toInt)
  | .geI => decide (b.toInt ≤ a.toInt)
  | .ltN => decide (a.toNat < b.toNat)
  | .leN => decide (a.toNat ≤ b.toNat)
  | .gtN => decide (b.toNat < a.toNat)
  | .geN => decide (b.toNat ≤ a.toNat)

/-- POPC (R132). -/
def popcWord (a : Word) : Word := BitVec.ofNat 32 ((List.range 32).filter a.getLsbD).length

/-- CLZ (R132): the 0 bits above the highest 1 bit; 32 for 0. -/
def clzWord (a : Word) : Word := BitVec.ofNat 32 (((List.range 32).find? fun i => a.getLsbD (31 - i)).getD 32)

/-- CTZ (R132): the 0 bits below the lowest 1 bit; 32 for 0. -/
def ctzWord (a : Word) : Word := BitVec.ofNat 32 (((List.range 32).find? a.getLsbD).getD 32)

/-- BREV (R132): bit i moves to bit 31 − i. -/
def brevWord (a : Word) : Word := a.reverse

/-- Position and width of a BFX or BFI control word (R132): a width above 32 acts as 32. -/
def fieldPos (b : Word) : Nat := bits b 4 0
def fieldWidth (b : Word) : Nat := min 32 (bits b 13 8)

/-- BFX.N32 (R132). -/
def bfxNWord (a b : Word) : Word := BitVec.ofNat 32 (a.toNat / 2 ^ fieldPos b % 2 ^ fieldWidth b)

/-- BFX.I32 (R132): the field of a, extended with copies of its sign, sign-extended from its highest bit. -/
def bfxIWord (a b : Word) : Word :=
  let w := fieldWidth b
  let f := (a.toInt / (2 ^ fieldPos b : Nat) % (2 ^ w : Nat)).toNat
  if w = 0 then 0#32
  else if f / 2 ^ (w - 1) = 1 then BitVec.ofInt 32 ((f : Int) - (2 ^ w : Nat)) else BitVec.ofNat 32 f

/-- BFI (R132): bits p to min(p + w, 32) − 1 of c replaced by the low bits of a. -/
def bfiWord (c a b : Word) : Word :=
  let mask : Word := BitVec.ofNat 32 ((2 ^ fieldWidth b - 1) * 2 ^ fieldPos b)
  (c &&& ~~~mask) ||| ((a <<< fieldPos b) &&& mask)

/-- Byte j of the 8-byte value whose bytes 0 to 3 are a and 4 to 7 are b (R133). -/
def prmByte (a b : Word) (j : Nat) : Byte := (b ++ a).extractLsb' (8 * j) 8

/-- Result byte i of PRM (R133). -/
def prmPick (c a b : Word) (i : Nat) : Byte :=
  let n := (c.extractLsb' (4 * i) 4).toNat
  let v := prmByte a b (n % 8)
  if n < 8 then v else if v.msb then 0xFF#8 else 0#8

/-- PRM (R133). -/
def prmWord (c a b : Word) : Word := prmPick c a b 3 ++ prmPick c a b 2 ++ prmPick c a b 1 ++ prmPick c a b 0

/-- MOVHI (R135): bits 31:18 replaced. -/
def movhiWord (c : Word) (imm : BitVec 14) : Word := imm ++ c.extractLsb' 0 18

/-- The source lane of SHFL (R136) for a lane and its selector; bcast is handled apart. -/
def shflSrc (f : ShflForm) (l : Nat) (b : Word) : Nat :=
  let g := l / 32 * 32
  let i := l % 32
  match f with
  | .idx => g + b.toNat % 32
  | .xor => g + (i ^^^ b.toNat % 32)
  | .up => if b.toNat ≤ i then g + i - b.toNat else l
  | .down => if i + b.toNat ≤ 31 then g + i + b.toNat else l
  | .bcast => b.toNat % 1024

/-- An operator of RED (R138). -/
def redWord : RedOp → Word → Word → Word
  | .addI32, a, b => a + b
  | .minI32, a, b => minI a b
  | .maxI32, a, b => maxI a b
  | .minN32, a, b => minN a b
  | .maxN32, a, b => maxN a b
  | .and, a, b => a &&& b
  | .or, a, b => a ||| b
  | .xor, a, b => a ^^^ b

/-- The operator of a SCAN (R138). -/
def scanWord : ScanOp → Word → Word → Word
  | .addIncl, a, b => a + b
  | .addExcl, a, b => a + b
  | .maxI32Incl, a, b => maxI a b
  | .minI32Incl, a, b => minI a b
  | .orIncl, a, b => a ||| b

/-- A nonempty list combined from the left; 0 for none. -/
def combine (f : Word → Word → Word) : List Word → Word
  | [] => 0#32
  | v :: r => r.foldl f v

/-- A one-source instruction: its word in every active lane (R118). -/
def lane1 (i : Instr) (d a : Field) (f : Word → Word) (s : State) : Out :=
  issue i s (teamAct fun x => x.result d fun l => f (x.rd 0 a 0 l))

/-- A two-source instruction. -/
def lane2 (i : Instr) (d a b : Field) (f : Word → Word → Word) (s : State) : Out :=
  issue i s (teamAct fun x => x.result d fun l => f (x.rd 0 a 0 l) (x.rd (litCount [a]) b 0 l))

/-- A three-source instruction: its destination is read as c, before the write (R116). -/
def lane3 (i : Instr) (d a b : Field) (f : Word → Word → Word → Word) (s : State) : Out :=
  issue i s (teamAct fun x => x.result d fun l => f (x.rd 0 d 0 l) (x.rd 0 a 0 l) (x.rd (litCount [a]) b 0 l))

/-- A two-source instruction that writes a pair (R117). -/
def lanePair (i : Instr) (d a b : Field) (f : Word → Word → Word × Word) (s : State) : Out :=
  issue i s (teamAct fun x => x.results d 2 fun k l =>
    let p := f (x.rd 0 a 0 l) (x.rd (litCount [a]) b 0 l)
    if k = 0 then p.1 else p.2)

/-- ADD (R121). -/
def execAdd (d a b : Field) (s : State) : Out := lane2 (.add d a b) d a b (fun a b => a + b) s

/-- SUB (R121). -/
def execSub (d a b : Field) (s : State) : Out := lane2 (.sub d a b) d a b (fun a b => a - b) s

/-- ADDC (R122). -/
def execAddc (d a b : Field) (s : State) : Out := lane3 (.addc d a b) d a b addcWord s

/-- SUBC (R122). -/
def execSubc (d a b : Field) (s : State) : Out := lane3 (.subc d a b) d a b subcWord s

/-- ADDS (R121). -/
def execAdds (t : Sgn) (d a b : Field) (s : State) : Out := lane2 (.adds t d a b) d a b (addsWord t) s

/-- SUBS (R121). -/
def execSubs (t : Sgn) (d a b : Field) (s : State) : Out := lane2 (.subs t d a b) d a b (subsWord t) s

/-- MUL (R123). -/
def execMul (d a b : Field) (s : State) : Out := lane2 (.mul d a b) d a b (fun a b => loWord (prodN a b)) s

/-- MULH.I32 (R123). -/
def execMulhI32 (d a b : Field) (s : State) : Out := lane2 (.mulhI32 d a b) d a b (fun a b => hiWord (prodI a b)) s

/-- MULH.N32 (R123). -/
def execMulhN32 (d a b : Field) (s : State) : Out := lane2 (.mulhN32 d a b) d a b (fun a b => hiWord (prodN a b)) s

/-- MULW.I32 (R123). -/
def execMulwI32 (d a b : Field) (s : State) : Out :=
  lanePair (.mulwI32 d a b) d a b (fun a b => (loWord (prodI a b), hiWord (prodI a b))) s

/-- MULW.N32 (R123). -/
def execMulwN32 (d a b : Field) (s : State) : Out :=
  lanePair (.mulwN32 d a b) d a b (fun a b => (loWord (prodN a b), hiWord (prodN a b))) s

/-- MAD (R124). -/
def execMad (d a b : Field) (s : State) : Out := lane3 (.mad d a b) d a b (fun c a b => loWord (prodN a b) + c) s

/-- MADH.I32 (R124). -/
def execMadhI32 (d a b : Field) (s : State) : Out := lane3 (.madhI32 d a b) d a b (fun c a b => hiWord (prodI a b) + c) s

/-- MADH.N32 (R124). -/
def execMadhN32 (d a b : Field) (s : State) : Out := lane3 (.madhN32 d a b) d a b (fun c a b => hiWord (prodN a b) + c) s

/-- DIVSTEP.N32 (R125). -/
def execDivstepN32 (d a : Field) (s : State) : Out :=
  issue (.divstepN32 d a) s (teamAct fun x => x.results d 2 fun k l =>
    let p := divStep4 (x.rd 0 a 0 l) (x.rd 0 d 0 l) (x.rd 0 d 1 l)
    if k = 0 then p.1 else p.2)

/-- DIVSTEP.I32 (R126). -/
def execDivstepI32 (d a b : Field) (s : State) : Out :=
  issue (.divstepI32 d a b) s (teamAct fun x => x.results d 2 fun k l =>
    let av := x.rd 0 a 0 l
    let bv := x.rd (litCount [a]) b 0 l
    if k = 0 then (if av.msb != bv.msb then 0#32 - x.rd 0 d 0 l else x.rd 0 d 0 l)
    else (if bv.msb then 0#32 - x.rd 0 d 1 l else x.rd 0 d 1 l))

/-- AND (R127). -/
def execAnd (d a b : Field) (s : State) : Out := lane2 (.and d a b) d a b (fun a b => a &&& b) s

/-- OR (R127). -/
def execOr (d a b : Field) (s : State) : Out := lane2 (.or d a b) d a b (fun a b => a ||| b) s

/-- XOR (R127). -/
def execXor (d a b : Field) (s : State) : Out := lane2 (.xor d a b) d a b (fun a b => a ^^^ b) s

/-- ANDN (R127). -/
def execAndn (d a b : Field) (s : State) : Out := lane2 (.andn d a b) d a b (fun a b => a &&& ~~~b) s

/-- ORN (R127). -/
def execOrn (d a b : Field) (s : State) : Out := lane2 (.orn d a b) d a b (fun a b => a ||| ~~~b) s

/-- XNOR (R127). -/
def execXnor (d a b : Field) (s : State) : Out := lane2 (.xnor d a b) d a b (fun a b => ~~~(a ^^^ b)) s

/-- NOT (R127). -/
def execNot (d a : Field) (s : State) : Out := lane1 (.not d a) d a (fun a => ~~~a) s

/-- SHL (R128). -/
def execShl (d a b : Field) (s : State) : Out := lane2 (.shl d a b) d a b shlWord s

/-- SHR.N32 (R128). -/
def execShrN32 (d a b : Field) (s : State) : Out := lane2 (.shrN32 d a b) d a b shrNWord s

/-- SHR.I32 (R128). -/
def execShrI32 (d a b : Field) (s : State) : Out := lane2 (.shrI32 d a b) d a b shrIWord s

/-- ROTL (R128). -/
def execRotl (d a b : Field) (s : State) : Out := lane2 (.rotl d a b) d a b rotlWord s

/-- ROTR (R128). -/
def execRotr (d a b : Field) (s : State) : Out := lane2 (.rotr d a b) d a b rotrWord s

/-- MIN.I32 (R129). -/
def execMinI32 (d a b : Field) (s : State) : Out := lane2 (.minI32 d a b) d a b minI s

/-- MAX.I32 (R129). -/
def execMaxI32 (d a b : Field) (s : State) : Out := lane2 (.maxI32 d a b) d a b maxI s

/-- MIN.N32 (R129). -/
def execMinN32 (d a b : Field) (s : State) : Out := lane2 (.minN32 d a b) d a b minN s

/-- MAX.N32 (R129). -/
def execMaxN32 (d a b : Field) (s : State) : Out := lane2 (.maxN32 d a b) d a b maxN s

/-- ABS.I32 (R129). -/
def execAbsI32 (d a : Field) (s : State) : Out := lane1 (.absI32 d a) d a absWord s

/-- SETC (R130). -/
def execSetc (c : SetCond) (d a b : Field) (s : State) : Out :=
  lane2 (.setc c d a b) d a b (fun a b => Word.ofBool (setcHolds c a b)) s

/-- SEL (R131). -/
def execSel (d a b : Field) (s : State) : Out := lane3 (.sel d a b) d a b (fun c a b => if c = 0#32 then b else a) s

/-- POPC (R132). -/
def execPopc (d a : Field) (s : State) : Out := lane1 (.popc d a) d a popcWord s

/-- CLZ (R132). -/
def execClz (d a : Field) (s : State) : Out := lane1 (.clz d a) d a clzWord s

/-- CTZ (R132). -/
def execCtz (d a : Field) (s : State) : Out := lane1 (.ctz d a) d a ctzWord s

/-- BREV (R132). -/
def execBrev (d a : Field) (s : State) : Out := lane1 (.brev d a) d a brevWord s

/-- BFX.N32 (R132). -/
def execBfxN32 (d a b : Field) (s : State) : Out := lane2 (.bfxN32 d a b) d a b bfxNWord s

/-- BFX.I32 (R132). -/
def execBfxI32 (d a b : Field) (s : State) : Out := lane2 (.bfxI32 d a b) d a b bfxIWord s

/-- BFI (R132). -/
def execBfi (d a b : Field) (s : State) : Out := lane3 (.bfi d a b) d a b bfiWord s

/-- PRM (R133). -/
def execPrm (d a b : Field) (s : State) : Out := lane3 (.prm d a b) d a b prmWord s

/-- LEA (R134). -/
def execLea (sc : Fin 5) (d a b : Field) (s : State) : Out :=
  lane2 (.lea sc d a b) d a b (fun a b => a + (b <<< sc.val)) s

/-- MOV (R135). -/
def execMov (d a : Field) (s : State) : Out := lane1 (.mov d a) d a (fun a => a) s

/-- MOVI (R135). -/
def execMovi (d : Field) (imm : BitVec 14) (s : State) : Out :=
  issue (.movi d imm) s (teamAct fun x => x.result d fun _ => imm.signExtend 32)

/-- MOVHI (R135). -/
def execMovhi (d : Field) (imm : BitVec 14) (s : State) : Out :=
  issue (.movhi d imm) s (teamAct fun x => x.result d fun l => movhiWord (x.rd 0 d 0 l) imm)

/-- A source read in another lane (R119, R136): active or not; at or beyond S it reads 0. -/
def Team.rdAcross (x : Team) (a : Field) (src : Nat) : Word := if src < x.lanes then x.rd 0 a 0 src else 0#32

/-- The selector that SHFL uses in a lane (R136): its own, or for bcast the lowest active lane's. -/
def Team.selector (x : Team) (f : ShflForm) (a b : Field) (l : Nat) : Word :=
  if f = .bcast then x.rdFirst (litCount [a]) b else x.rd (litCount [a]) b 0 l

/-- SHFL (R136). -/
def execShfl (f : ShflForm) (d a b : Field) (s : State) : Out :=
  issue (.shfl f d a b) s (teamAct fun x => x.result d fun l => x.rdAcross a (shflSrc f l (x.selector f a b l)))

/-- The word of a VOTE form for a lane (R137). -/
def Team.voteWord (x : Team) (f : VoteForm) (a : Field) (l : Nat) : Word :=
  match f with
  | .any => Word.ofBool (x.active.any fun m => x.rd 0 a 0 m != 0#32)
  | .all => Word.ofBool (x.active.all fun m => x.rd 0 a 0 m != 0#32)
  | .uni => Word.ofBool (x.active.all fun m => x.rd 0 a 0 m == x.rdFirst 0 a)
  | .ballot =>
    BitVec.ofNat 32 (((List.range 32).filter fun i =>
      x.act (l / 32 * 32 + i) && x.rd 0 a 0 (l / 32 * 32 + i) != 0#32).foldl (fun m i => m + 2 ^ i) 0)

/-- VOTE (R137): any, all and uni set Z from the value written, unless MZ = 1. -/
def execVote (f : VoteForm) (d a : Field) (s : State) : Out :=
  issue (.vote f d a) s (teamAct fun x =>
    let y := x.result d (x.voteWord f a)
    match x.first with
    | none => y
    | some l => if f = .ballot then y else y.setZ (x.voteWord f a l == 0#32))

/-- RED (R138). -/
def execRed (op : RedOp) (d a : Field) (s : State) : Out :=
  issue (.red op d a) s (teamAct fun x =>
    x.uniform d (combine (redWord op) (x.active.map fun l => x.rd 0 a 0 l)))

/-- SCAN (R138): the lanes up to its own, or for excl the lanes before it. -/
def execScan (op : ScanOp) (d a : Field) (s : State) : Out :=
  issue (.scan op d a) s (teamAct fun x => x.result d fun l =>
    combine (scanWord op) ((x.active.filter fun m => if op = .addExcl then decide (m < l) else decide (m ≤ l)).map
      fun m => x.rd 0 a 0 m))

end Sys2Proof.Machine
end

