-- ==== Sys2Proof/Machine/FloatOps.lean ====
section
/-!
DEFINITION. The float class, majors 0x28 to 0x32 (R140 to R157), in the team's float mode (R62, R63).
-/

namespace Sys2Proof.Machine

/-- The team's rounding mode (R62). -/
def Team.rnd (x : Team) : Rnd := Rnd.ofCode x.ctx.fmode.round

/-- The team's flush bit (R62). -/
def Team.flush (x : Team) : Bool := x.ctx.fmode.flush

/-- A pattern as a word. -/
def ofBits (n : Nat) : Word := BitVec.ofNat 32 n

/-- A one-source instruction whose word depends on the float mode. -/
def fp1 (i : Instr) (d a : Field) (f : Rnd → Bool → Word → Word) (s : State) : Out :=
  issue i s (teamAct fun x => x.result d fun l => f x.rnd x.flush (x.rd 0 a 0 l))

/-- A two-source instruction whose word depends on the float mode. -/
def fp2 (i : Instr) (d a b : Field) (f : Rnd → Bool → Word → Word → Word) (s : State) : Out :=
  issue i s (teamAct fun x => x.result d fun l =>
    f x.rnd x.flush (x.rd 0 a 0 l) (x.rd (litCount [a]) b 0 l))

/-- A three-source instruction whose word depends on the float mode; c comes first (R116, R140). -/
def fp3 (i : Instr) (d a b : Field) (f : Rnd → Bool → Word → Word → Word → Word) (s : State) : Out :=
  issue i s (teamAct fun x => x.result d fun l =>
    f x.rnd x.flush (x.rd 0 d 0 l) (x.rd 0 a 0 l) (x.rd (litCount [a]) b 0 l))

/-- FADD, FSUB, FMUL (R143, R144). -/
def faddWord (md : Rnd) (fl : Bool) (a b : Word) : Word := ofBits (FFmt.f32.addB md fl a.toNat b.toNat)
def fsubWord (md : Rnd) (fl : Bool) (a b : Word) : Word := ofBits (FFmt.f32.subB md fl a.toNat b.toNat)
def fmulWord (md : Rnd) (fl : Bool) (a b : Word) : Word := ofBits (FFmt.f32.mulB md fl a.toNat b.toNat)

/-- The fused forms (R143, R144): which of product and addend are negated. -/
def fmaWord (negP negC : Bool) (md : Rnd) (fl : Bool) (c a b : Word) : Word :=
  ofBits (FFmt.f32.fmaB md fl negP negC a.toNat b.toNat c.toNat)

/-- FADD (R143). -/
def execFadd (d a b : Field) (s : State) : Out := fp2 (.fadd d a b) d a b faddWord s

/-- FSUB (R143). -/
def execFsub (d a b : Field) (s : State) : Out := fp2 (.fsub d a b) d a b fsubWord s

/-- FMUL (R143). -/
def execFmul (d a b : Field) (s : State) : Out := fp2 (.fmul d a b) d a b fmulWord s

/-- FFMA (R143). -/
def execFfma (d a b : Field) (s : State) : Out := fp3 (.ffma d a b) d a b (fmaWord false false) s

/-- FFMS (R143). -/
def execFfms (d a b : Field) (s : State) : Out := fp3 (.ffms d a b) d a b (fmaWord false true) s

/-- FFNMA (R143). -/
def execFfnma (d a b : Field) (s : State) : Out := fp3 (.ffnma d a b) d a b (fmaWord true true) s

/-- FFNMS (R143). -/
def execFfnms (d a b : Field) (s : State) : Out := fp3 (.ffnms d a b) d a b (fmaWord true false) s

/-- FMIN, FMAX (R73, R145). -/
def fminWord (big : Bool) (_ : Rnd) (fl : Bool) (a b : Word) : Word :=
  ofBits (FFmt.f32.minNumB fl big a.toNat b.toNat)

/-- FMINM, FMAXM (R145). -/
def fminmWord (big : Bool) (_ : Rnd) (fl : Bool) (a b : Word) : Word :=
  ofBits (FFmt.f32.minB fl big a.toNat b.toNat)

/-- FMIN (R145). -/
def execFmin (d a b : Field) (s : State) : Out := fp2 (.fmin d a b) d a b (fminWord false) s

/-- FMAX (R145). -/
def execFmax (d a b : Field) (s : State) : Out := fp2 (.fmax d a b) d a b (fminWord true) s

/-- FMINM (R145). -/
def execFminm (d a b : Field) (s : State) : Out := fp2 (.fminm d a b) d a b (fminmWord false) s

/-- FMAXM (R145). -/
def execFmaxm (d a b : Field) (s : State) : Out := fp2 (.fmaxm d a b) d a b (fminmWord true) s

/-- FABS (R146): bit 31 cleared, on every pattern. -/
def execFabs (d a : Field) (s : State) : Out := lane1 (.fabs d a) d a (fun v => v &&& 0x7FFFFFFF#32) s

/-- FNEG (R146): bit 31 inverted, on every pattern. -/
def execFneg (d a : Field) (s : State) : Out := lane1 (.fneg d a) d a (fun v => v ^^^ 0x80000000#32) s

/-- FCMP (R147). -/
def fcmpWord (c : FCond) (_ : Rnd) (fl : Bool) (a b : Word) : Word :=
  Word.ofBool (fcondHolds c (((FFmt.f32.decode a.toNat).flush fl).compare ((FFmt.f32.decode b.toNat).flush fl)))

/-- FCMP (R147). -/
def execFcmp (c : FCond) (d a b : Field) (s : State) : Out := fp2 (.fcmp c d a b) d a b (fcmpWord c) s

/-- FRCP (R148, R149). -/
def execFrcp (d a : Field) (s : State) : Out := fp1 (.frcp d a) d a (fun md fl v => ofBits (frcpB md fl v.toNat)) s

/-- FRSQ (R148, R149). -/
def execFrsq (d a : Field) (s : State) : Out := fp1 (.frsq d a) d a (fun _ fl v => ofBits (frsqB fl v)) s

/-- FSQRT (R148, R149). -/
def execFsqrt (d a : Field) (s : State) : Out := fp1 (.fsqrt d a) d a (fun md fl v => ofBits (fsqrtB md fl v.toNat)) s

/-- FEXP2 (R148, R149). -/
def execFexp2 (d a : Field) (s : State) : Out := fp1 (.fexp2 d a) d a (fun _ fl v => ofBits (fexp2B fl v)) s

/-- FLOG2 (R148, R149). -/
def execFlog2 (d a : Field) (s : State) : Out := fp1 (.flog2 d a) d a (fun _ fl v => ofBits (flog2B fl v)) s

/-- FTANH (R148, R149). -/
def execFtanh (d a : Field) (s : State) : Out := fp1 (.ftanh d a) d a (fun _ fl v => ofBits (ftanhB fl v)) s

/-- The 16-bit elements of a word (R150). -/
def elem0 (w : Word) : Nat := (w.extractLsb' 0 16).toNat
def elem1 (w : Word) : Nat := (w.extractLsb' 16 16).toNat

/-- A word of two elements, each computed on its own (R150). -/
def pack2 (e1 e0 : Nat) : Word := BitVec.ofNat 16 e1 ++ BitVec.ofNat 16 e0

/-- A two-source packed operation (R150). -/
def packed2 (f : Rnd → Bool → Nat → Nat → Nat) (md : Rnd) (fl : Bool) (a b : Word) : Word :=
  pack2 (f md fl (elem1 a) (elem1 b)) (f md fl (elem0 a) (elem0 b))

/-- The packed fused multiply-add (R150). -/
def packedFma (fmt : FFmt) (md : Rnd) (fl : Bool) (c a b : Word) : Word :=
  pack2 (fmt.fmaB md fl false false (elem1 a) (elem1 b) (elem1 c))
    (fmt.fmaB md fl false false (elem0 a) (elem0 b) (elem0 c))

/-- HADD2.F16 (R150). -/
def execHadd2F16 (d a b : Field) (s : State) : Out := fp2 (.hadd2F16 d a b) d a b (packed2 FFmt.f16.addB) s

/-- HMUL2.F16 (R150). -/
def execHmul2F16 (d a b : Field) (s : State) : Out := fp2 (.hmul2F16 d a b) d a b (packed2 FFmt.f16.mulB) s

/-- HFMA2.F16 (R150). -/
def execHfma2F16 (d a b : Field) (s : State) : Out := fp3 (.hfma2F16 d a b) d a b (packedFma .f16) s

/-- HADD2.BF16 (R150). -/
def execHadd2Bf16 (d a b : Field) (s : State) : Out := fp2 (.hadd2Bf16 d a b) d a b (packed2 FFmt.bf16.addB) s

/-- HMUL2.BF16 (R150). -/
def execHmul2Bf16 (d a b : Field) (s : State) : Out := fp2 (.hmul2Bf16 d a b) d a b (packed2 FFmt.bf16.mulB) s

/-- HFMA2.BF16 (R150). -/
def execHfma2Bf16 (d a b : Field) (s : State) : Out := fp3 (.hfma2Bf16 d a b) d a b (packedFma .bf16) s

/-- HMIN2.F16 (R150). -/
def execHmin2F16 (d a b : Field) (s : State) : Out :=
  fp2 (.hmin2F16 d a b) d a b (packed2 fun _ fl => FFmt.f16.minNumB fl false) s

/-- HMAX2.F16 (R150). -/
def execHmax2F16 (d a b : Field) (s : State) : Out :=
  fp2 (.hmax2F16 d a b) d a b (packed2 fun _ fl => FFmt.f16.minNumB fl true) s

/-- HMIN2.BF16 (R150). -/
def execHmin2Bf16 (d a b : Field) (s : State) : Out :=
  fp2 (.hmin2Bf16 d a b) d a b (packed2 fun _ fl => FFmt.bf16.minNumB fl false) s

/-- HMAX2.BF16 (R150). -/
def execHmax2Bf16 (d a b : Field) (s : State) : Out :=
  fp2 (.hmax2Bf16 d a b) d a b (packed2 fun _ fl => FFmt.bf16.minNumB fl true) s

/-- Which bits of a word a conversion names (R151, R152): format, lowest bit, width; none for the whole-word forms. -/
def cvtSlot : CvtSel → Option (FFmt × Nat × Nat)
  | .f16lo => some (.f16, 0, 16)
  | .f16hi => some (.f16, 16, 16)
  | .bf16lo => some (.bf16, 0, 16)
  | .bf16hi => some (.bf16, 16, 16)
  | .e4m3b0 => some (.e4m3, 0, 8)
  | .e4m3b1 => some (.e4m3, 8, 8)
  | .e4m3b2 => some (.e4m3, 16, 8)
  | .e4m3b3 => some (.e4m3, 24, 8)
  | .e5m2b0 => some (.e5m2, 0, 8)
  | .e5m2b1 => some (.e5m2, 8, 8)
  | .e5m2b2 => some (.e5m2, 16, 8)
  | .e5m2b3 => some (.e5m2, 24, 8)
  | .i32 => none
  | .n32 => none

/-- CVT to FP32 (R151): exact from a narrow element, never flushed; rounded from an integer. -/
def cvtToWord (sel : CvtSel) (md : Rnd) (fl : Bool) (a : Word) : Word :=
  match cvtSlot sel with
  | some (fmt, lo, w) => ofBits (fmt.convert .f32 md false false (a.toNat / 2 ^ lo % 2 ^ w))
  | none =>
    ofBits (FFmt.f32.round md fl (FVal.ofInt (if sel = .i32 then a.toInt else (a.toNat : Int))))

/-- CVT from FP32 (R152): one field of c replaced, or the whole word saturated. -/
def cvtFromWord (sel : CvtSel) (md : Rnd) (fl : Bool) (c a : Word) : Word :=
  match cvtSlot sel with
  | some (fmt, lo, w) =>
    let e := FFmt.f32.convert fmt md fl fl a.toNat
    let mask : Word := ofBits ((2 ^ w - 1) * 2 ^ lo)
    (c &&& ~~~mask) ||| ofBits (e * 2 ^ lo)
  | none =>
    let v := (FFmt.f32.decode a.toNat).flush fl
    if sel = .i32 then BitVec.ofInt 32 (v.toRange md (-2147483648) 2147483647)
    else BitVec.ofInt 32 (v.toRange md 0 4294967295)

/-- CVT, major 0x2F (R151). -/
def execCvtToF32 (sel : CvtSel) (d a : Field) (s : State) : Out := fp1 (.cvtToF32 sel d a) d a (cvtToWord sel) s

/-- CVT, major 0x30 (R152). -/
def execCvtFromF32 (sel : CvtSel) (d a : Field) (s : State) : Out :=
  issue (.cvtFromF32 sel d a) s (teamAct fun x => x.result d fun l =>
    cvtFromWord sel x.rnd x.flush (x.rd 0 d 0 l) (x.rd 0 a 0 l))

/-- Element width of a QPACK type (R153). -/
def qWidth : QType → Nat
  | .i8 => 8
  | .n8 => 8
  | .i4 => 4
  | .n4 => 4

/-- Range of a QPACK type (R59). -/
def qRange : QType → Int × Int
  | .i8 => (-128, 127)
  | .n8 => (0, 255)
  | .i4 => (-8, 7)
  | .n4 => (0, 15)

/-- The quantised element of QPACK (R153): one rounding of the exact product; a NaN gives 0. -/
def qpackElem (t : QType) (md : Rnd) (fl : Bool) (a b : Word) : Int :=
  let va := (FFmt.f32.decode a.toNat).flush fl
  let vb := (FFmt.f32.decode b.toNat).flush fl
  if va.isNan || vb.isNan then 0 else
  match va.mul vb with
  | .error _ => 0
  | .ok v => v.toRange md (qRange t).1 (qRange t).2

/-- QPACK (R153): the element enters from the top. -/
def qpackWord (t : QType) (md : Rnd) (fl : Bool) (c a b : Word) : Word :=
  let w := qWidth t
  BitVec.ofNat 32 (c.toNat / 2 ^ w + lowBits w (qpackElem t md fl a b) * 2 ^ (32 - w))

/-- The element that QUNPACK reads (R154). -/
def qunpackElem (t : QType) (a : Word) : Int :=
  let w := qWidth t
  let n := a.toNat % 2 ^ w
  if (qRange t).1 < 0 ∧ 2 ^ (w - 1) ≤ n then (n : Int) - (2 ^ w : Nat) else n

/-- QUNPACK (R154). -/
def qunpackWord (t : QType) (md : Rnd) (fl : Bool) (a b : Word) : Word :=
  let vb := (FFmt.f32.decode b.toNat).flush fl
  ofBits ((FFmt.f32.firstNan [vb]).getD (FFmt.f32.deliver md fl ((FVal.ofInt (qunpackElem t a)).mul vb)))

/-- QPACK (R153). -/
def execQpack (t : QType) (d a b : Field) (s : State) : Out := fp3 (.qpack t d a b) d a b (qpackWord t) s

/-- QUNPACK (R154). -/
def execQunpack (t : QType) (d a b : Field) (s : State) : Out := fp2 (.qunpack t d a b) d a b (qunpackWord t) s

/-- The float mode as a format word's Round and Flush fields (R155, R156). -/
def FloatMode.word (m : FloatMode) : Word := 0#15 ++ m.round ++ BitVec.ofBool m.flush ++ 0#14

/-- FMTSET (R155): Round and Flush replaced by the team's; 0 when a check of R77 fails. -/
def fmtsetWord (m : FloatMode) (a : Word) : Word :=
  let w := (a &&& 0xFFFE3FFF#32) ||| m.word
  if fmtCheck w = 0 then w else 0#32

/-- FMTSET (R155). -/
def execFmtset (d a : Field) (s : State) : Out :=
  issue (.fmtset d a) s (teamAct fun x => x.result d fun l => fmtsetWord x.ctx.fmode (x.rd 0 a 0 l))

/-- FMODE (R156): the old mode is the result; the new one comes from the lowest active lane. -/
def execFmode (d a : Field) (s : State) : Out :=
  issue (.fmode d a) s (teamAct fun x =>
    let y := x.uniform d x.ctx.fmode.word
    match x.first with
    | none => y
    | some l =>
      let v := x.rd 0 a 0 l
      { y with ctx := { y.ctx with fmode := { round := v.extractLsb' 15 2, flush := v.getLsbD 14 } } })

end Sys2Proof.Machine
end

