-- ==== Sys2Proof/Machine/Launch.lean ====
section
/-!
DEFINITION. Launches: the message (R339), the check of its record and chart (R85 to R87), admission (R88, R89, R92, R97, R339), and
what the ports do for hosts and peers (R338, R340).
-/

namespace Sys2Proof.Machine

/-- A reply to the outside. -/
def State.reply (s : State) (r : Reply) : State := { s with replies := s.replies ++ [r] }

/-- LAUNCH_MESSAGE (R339): 144 bytes sent to a queue; a queue that is not configured answers with an error response. -/
def execLaunchMessage (queue : Nat) (payload : List Byte) (s : State) : Out :=
  ofEvent (if queue < 64 ∧ payload.length = 144 ∧ s.phase = .ready then
    let q := s.queue queue
    if q.cfg.isNone then some (s.reply (.error "queue not configured")) else
    let dep := fun (o : Nat) =>
      let d := word64 payload o
      if d.getLsbD 63 then [(bits d 61 56, bits d 55 0)] else []
    some (s.putQueue queue { q with waiting := q.waiting ++ [{ deps := dep 0 ++ dep 8, header := payload.drop 16 }] })
  else none)

/-- The launch record header (R85). -/
def parseRecord (bs : List Byte) : Record :=
  { version := nat32 bs 0, flags := word32 bs 4, codeBase := word64 bs 8, codeLen := nat32 bs 16, entry := nat32 bs 20,
    argAddr := word64 bs 24, argLen := nat32 bs 32, clusters := nat16 bs 36, teams := nat16 bs 38, lanes := nat16 bs 40,
    regs := nat16 bs 42, shared := nat32 bs 44, rings := nat8 bs 48, chart := word64 bs 56,
    ringSlots := (List.range 16).map fun q => nat8 bs (64 + q), roles := word64 bs 80, sched := word64 bs 88,
    schedN := nat32 bs 96, atabN := nat32 bs 100, atab := word64 bs 104, htab := word64 bs 112, handlers := nat16 bs 120 }

/-- Check 1 of R87. -/
def recordReserved (bs : List Byte) (r : Record) : Bool :=
  r.version == 1 && bits r.flags 31 3 == 0 && zeroBytes bs 49 56 && zeroBytes bs 122 128

/-- Check 2 of R87. -/
def Record.inRange (r : Record) : Bool :=
  decide (1 ≤ r.clusters) && decide (r.clusters ≤ 16384) && decide (1 ≤ r.teams) && decide (r.teams ≤ 64)
    && decide (1 ≤ r.lanes) && decide (r.lanes ≤ 1024) && decide (16 ≤ r.regs) && decide (r.regs ≤ 256) && r.regs % 16 == 0
    && r.shared % 4096 == 0 && decide (r.shared ≤ 524288) && decide (r.rings ≤ 16)
    && (r.ringSlots.take r.rings).all (fun n => decide (1 ≤ n) && decide (n ≤ 16))
    && r.entry % 4 == 0 && decide (r.entry < r.codeLen)
    && r.codeBase.toNat % 65536 == 0 && bits r.codeBase 63 52 == 0
    && (r.schedN == 0 || r.sched.toNat % 32 == 0) && (r.atabN == 0 || r.atab.toNat % 8 == 0)
    && (r.handlers == 0 || r.htab.toNat % 4 == 0) && decide (r.handlers ≤ 256) && r.argLen % 16 == 0

/-- Register rows of one team of a launch (R18, R87). -/
def Record.rowsEach (r : Record) : Nat := (r.lanes + 31) / 32 * r.regs

/-- Check 4 of R87 for a cluster word; a width or a height of 0, which R86 does not allow, fails it too. (DEDUCED, log 35.) -/
def chartWordOk (w : Word) : Bool :=
  bits w 31 16 == 0 && decide (1 ≤ chartWidth w) && decide (1 ≤ chartHeight w)
    && decide (chartX0 w + chartWidth w ≤ 8) && decide (chartY0 w + chartHeight w ≤ 8)
    && decide (chartWidth w * chartHeight w ≤ 12)

/-- Cores of a cluster word's rectangle (R86). -/
def chartCores (w : Word) : List Nat := (List.range (chartWidth w * chartHeight w)).map (chartCore w)

/-- Cores at which a cluster's teams are placed, a core for each team (R86). -/
def teamCores (r : Record) (w : Word) (places : List Nat) (c : Nat) : List Nat :=
  ((places.drop (c * r.teams)).take r.teams).map (chartCore w)

/-- Check 7 of R87 for a number of teams on a core. -/
def Record.fits (r : Record) (n : Nat) : Bool :=
  decide (n ≤ Config.residentTeams) && decide (n * r.rowsEach ≤ Config.registerRows)

/-- Check 10 of R87: clusters of a deterministic launch that name a core fit there together. -/
def fitsTogether (r : Record) (chart : List Word) (places : List Nat) (core : Nat) : Bool :=
  let on := ((List.range chart.length).zip chart).filter fun c => chartHas c.2 core
  let teams := on.flatMap fun c => (teamCores r c.2 places c.1).filter (· == core)
  r.fits teams.length && decide (r.shared * on.length ≤ 524288) && decide (r.rings * on.length ≤ 16)

/-- What a launch check comes to. -/
inductive Checked
  | code (n : Nat)
  | fault (kind va : Nat)
  | good (chart : List Word) (places roles : List Nat) (args : List Byte)
  deriving DecidableEq, Repr

/-- A read of the check (R87): the bytes, or code 12, or a translation fault. -/
def State.checkRead (s : State) (q : Queue) (root : BitVec 48) (va n : Nat) : Except Checked (List Byte) :=
  match s.faultIn root va n .read with
  | some (k, v) => .error (if q.denied == some (v / pageBytes) then .code 12 else .fault k v)
  | none => if s.badVa root .read va n then .error (.code 12) else .ok (s.vaBytes root .read va n)

/-- A check that rejects with a code. -/
def checkThat (ok : Bool) (code : Nat) : Except Checked Unit := if ok then .ok () else .error (.code code)

/-- The checks of R87 in their order; each read comes right before the first check that needs its bytes. (DEDUCED, log 35.) -/
def State.checkRecord (s : State) (q : Queue) (root : BitVec 48) (bs : List Byte) : Except Checked Checked := do
  let r := parseRecord bs
  checkThat (recordReserved bs r) 1
  checkThat r.inRange 2
  checkThat (decide (r.argLen ≤ r.shared)) 3
  let raw ← s.checkRead q root r.chart.toNat (4 * r.clusters + r.clusters * r.teams)
  let chart := (List.range r.clusters).map fun c => word32 raw (4 * c)
  let places := (raw.drop (4 * r.clusters)).map (·.toNat)
  let each := (List.range r.clusters).zip chart
  checkThat (chart.all chartWordOk) 4
  checkThat (each.all fun c =>
    ((places.drop (c.1 * r.teams)).take r.teams).all fun p => decide (p < chartWidth c.2 * chartHeight c.2)) 5
  checkThat (chart.all fun w => (chartCores w).all s.backed) 6
  checkThat (each.all fun c =>
    let on := teamCores r c.2 places c.1
    (chartCores c.2).all fun n => r.fits (on.filter (· == n)).length) 7
  let roles ← if r.declares then s.checkRead q root r.roles.toNat r.teams else .ok []
  checkThat (roles.all fun b => decide (1 ≤ b.toNat) && decide (b.toNat ≤ 3)) 8
  checkThat (!r.flags.getLsbD 1 || decide (r.lanes ≤ 64)) 9
  checkThat (!r.flags.getLsbD 0 || chart.all fun w => (chartCores w).all (fitsTogether r chart places)) 10
  checkThat (r.handlers == 0 || decide (64 ≤ r.regs)) 11
  let args ← s.checkRead q root r.argAddr.toNat r.argLen
  .ok (.good chart places (roles.map (·.toNat)) args)

/-- What a dependence of a waiting launch asks for has happened (R339). -/
def State.depsHold (s : State) (w : Waiting) : Bool := w.deps.all fun d => decide (d.2 ≤ (s.queue d.1).ended)

/-- The launch that a check accepts (R87, R339). (DEDUCED, log 35.) -/
def State.acceptLaunch (s : State) (queue : Nat) (q : Queue) (w : Waiting) (chart : List Word) (places roles : List Nat)
    (args : List Byte) : State :=
  let p := s.take
  (p.2.putQueue queue { q with waiting := q.waiting.drop 1, nextSeq := q.nextSeq + 1, denied := none }).putLaunch p.1
    { queue := queue, seq := q.nextSeq, hdr := parseRecord w.header, chart := chart, places := places, roles := roles,
      args := args }

/-- LAUNCH_CHECK (R87, R339): the first waiting launch of a queue, once its dependences hold. A rejected launch counts as
ended, and the host gets an event of kind 2; a translation fault parks the check. (DEDUCED, log 35.) -/
def execLaunchCheck (queue : Nat) (s : State) : Out :=
  let q := s.queue queue
  ofEvent (match q.cfg, q.waiting with
    | some cfg, w :: rest =>
      if q.parked || !s.depsHold w then none else
      match s.checkRecord q cfg.root w.header with
      | .ok (.good chart places roles args) => some (s.acceptLaunch queue q w chart places roles args)
      | .error (.fault k va) =>
        some ((s.putQueue queue { q with parked := true }).raiseFaultIn 0 cfg.root queue q.nextSeq (.check queue) k va)
      | .error (.code n) =>
        let q := { q with waiting := rest, nextSeq := q.nextSeq + 1, ended := (q.ended + 1) % 2 ^ 56, denied := none }
        some ((s.putQueue queue q).sendEvent 2 queue (q.nextSeq - 1) (BitVec.ofNat 32 n) 0)
      | _ => none
    | _, _ => none)

/-- Shared bytes and rings that resident clusters take on a core (R18, R88). -/
def State.takenOn (s : State) (core : Nat) : Nat × Nat :=
  (s.core core).residents.foldl (fun n k => match s.record? (clusterLaunch k) with
    | some r => (n.1 + r.shared, n.2 + r.rings)
    | none => n) (0, 0)

/-- A core has room for teams and clusters of a launch (R18, R88). -/
def State.hasRoom (s : State) (r : Record) (core teams clusters : Nat) : Bool :=
  let taken := s.takenOn core
  s.roomFor core teams (teams * r.rowsEach) && decide (taken.1 + r.shared * clusters ≤ 524288)
    && decide (taken.2 + r.rings * clusters ≤ 16)

/-- A core that a deterministic launch other than this one holds until it ends (R88). (DEDUCED, log 36.) -/
def State.reserved (s : State) (launch core : Nat) : Bool :=
  s.launches.any fun l => l.1 != launch && l.2.phase != .ended && l.2.hdr.flags.getLsbD 0
    && (l.2.chart.take l.2.next).any fun w => chartHas w core

/-- Teams of other launches are on a core. -/
def State.othersOn (s : State) (launch core : Nat) : Bool :=
  (s.core core).age.any fun t => ((aget s.teams t).map (·.launch)) != some launch

/-- The clusters of a launch that are admitted together (R88): the next one; in a deterministic launch the next ones up to
where no later one shares a core with them. (DEDUCED, log 36.) -/
def Launch.batch (l : Launch) : List (Nat × Word) :=
  let rest := ((List.range l.chart.length).zip l.chart).drop l.next
  if !l.hdr.flags.getLsbD 0 then rest.take 1 else
  let closed := fun (n : Nat) => (rest.drop (n + 1)).all fun later =>
    !(rest.take (n + 1)).any fun c => (chartCores c.2).any (chartHas later.2)
  rest.take (((lowest rest.length closed).getD rest.length) + 1)

/-- Cores that a batch of clusters names. -/
def batchCores (b : List (Nat × Word)) : List Nat := (b.flatMap fun c => chartCores c.2).eraseDups

/-- The batch fits on all its cores (R88). (DEDUCED, log 36.) -/
def State.batchFits (s : State) (launch : Nat) (l : Launch) (b : List (Nat × Word)) : Bool :=
  (batchCores b).all fun n =>
    let teams := (b.flatMap fun c => teamCores l.hdr c.2 l.places c.1).filter (· == n)
    let clusters := b.filter fun c => chartHas c.2 n
    s.hasRoom l.hdr n teams.length clusters.length && !s.reserved launch n
      && (!l.hdr.flags.getLsbD 0 || !s.othersOn launch n)

/-- A launch's clusters are next to be admitted in its queue (R339): no launch that the queue has accepted before has some left. (DESIGN CHOICE, log 25.) -/
def State.itsTurn (s : State) (launch : Nat) (l : Launch) : Bool :=
  l.phase == .running && decide (l.next < l.hdr.clusters)
    && s.launches.all fun m => m.2.queue != l.queue || decide (launch ≤ m.1) || m.2.phase == .ended
      || decide (m.2.hdr.clusters ≤ m.2.next)

/-- Queue a comes before queue b (R339). (DEDUCED, log 36.) -/
def State.queueBefore (s : State) (a b : Nat) : Bool :=
  let p := fun n => ((s.queue n).cfg.map (·.priority)).getD 0
  decide (p b < p a) || (p a == p b && decide (a < b))

/-- A launch of another queue that goes first wants one of these cores (R339). -/
def State.overtaken (s : State) (l : Launch) (cores : List Nat) : Bool :=
  s.launches.any fun m => m.2.queue != l.queue && s.queueBefore m.2.queue l.queue && s.itsTurn m.1 m.2
    && (batchCores m.2.batch).any cores.contains

/-- A team as admission starts it (R82, R89). -/
def Launch.team (l : Launch) (launch index t : Nat) (w : Word) : Team :=
  newTeam launch (clusterKey launch index) (chartCore w (l.places.getD (index * l.hdr.teams + t) 0)) t (l.roles.getD t 0)
    l.hdr.lanes l.hdr.regs l.hdr.entry

/-- A cluster is admitted (R88, R89, R92): its share of each core with the argument block and empty rings, then its teams, whose start
counts as a capture (R356). -/
def State.admitCluster (s : State) (launch : Nat) (l : Launch) (c : Nat × Word) : State :=
  let key := clusterKey launch c.1
  let w := c.2
  let sh := tsets zeros [] (cellsAt 0 l.args)
  let rings := (l.hdr.ringSlots.take l.hdr.rings).map fun n => ({ slots := List.replicate n {} } : Ring)
  let cl : Cluster :=
    { launch := launch, index := c.1, die := chartDie w, x0 := chartX0 w, y0 := chartY0 w, width := chartWidth w,
      height := chartHeight w,
      places := (List.range (chartWidth w * chartHeight w)).map fun p => { core := chartCore w p, pos := p, sh := sh, rings := rings } }
  let s := (s.putCluster key cl).joinCores key cl
  (List.range l.hdr.teams).foldl (fun s t =>
    let q := s.beginCapture s.nextId (l.team launch c.1 t w)
    q.1.startTeam q.2) s

/-- CLUSTER_ADMISSION (R88, R339). (DEDUCED, log 36.) -/
def execClusterAdmission (launch : Nat) (s : State) : Out :=
  ofEvent (match aget s.launches launch with
    | none => none
    | some l =>
      let b := l.batch
      if s.itsTurn launch l && s.batchFits launch l b && !s.overtaken l (batchCores b) then
        some (b.foldl (fun s c => s.admitCluster launch l c) (s.putLaunch launch { l with next := l.next + b.length }))
      else none)

/-- PEER_UNAVAILABLE (R338): a peer of a queue's table becomes unavailable. (DEDUCED, log 33.) -/
def execPeerUnavailable (queue peer : Nat) (s : State) : Out :=
  let q := s.queue queue
  ofEvent (if s.peerUp queue peer then some (s.putQueue queue { q with lostPeers := q.lostPeers ++ [peer] }) else none)

/-- A remote access parks on a translation fault, as a copy does (R201, R340, R361). (DEDUCED, log 38.) -/
def State.parkRemote (s : State) (id kind va : Nat) (root : BitVec 48) (r : Remote) : State :=
  State.raiseFaultIn { s with remotes := aput s.remotes id r } 0 root r.queue (s.queue r.queue).nextSeq (.remote id) kind va

/-- Where a remote write stops: at a page of a code region (kind 0) or at one that does not translate (R50, R340). (DEDUCED, log 38.) -/
def State.writeStop (s : State) (root : BitVec 48) (va n : Nat) : Option (Nat × Nat) :=
  (touched va n).findSome? fun v =>
    if s.codePage root v then some (0, v) else match s.xlate root v .write with
      | .ok _ => none
      | .fault k => some (k, v)

/-- Bytes of a remote write land up to where it stops (R340). (DEDUCED, log 38.) -/
def State.remoteLand (s : State) (root : BitVec 48) (va : Nat) (bs : List Byte) : State :=
  (s.cache root va bs.length .write).writeVa root va bs

/-- A remote access is made (R340): a write as a copy into main memory, answered at its end; a read answered with its bytes, or with an
error where their check value does not match. (DEDUCED, log 38.) -/
def State.remoteAccess (s : State) (id : Nat) (r : Remote) : State :=
  match (s.queue r.queue).cfg with
  | none => s.reply (.error "queue not configured")
  | some cfg =>
    let s := s.wakeOuter
    match r.data with
    | some bs => (match s.writeStop cfg.root r.va bs.length with
      | none => (s.remoteLand cfg.root r.va bs).reply (.ok "write")
      | some (0, v) => (s.remoteLand cfg.root r.va (bs.take (v - r.va))).reply (.error "translation")
      | some (k, v) =>
        (s.remoteLand cfg.root r.va (bs.take (v - r.va))).parkRemote id k v cfg.root { r with va := v, data := some (bs.drop (v - r.va)) })
    | none => match s.faultIn cfg.root r.va r.len .read with
      | some (k, v) => s.parkRemote id k v cfg.root r
      | none =>
        if s.badVa cfg.root .read r.va r.len then s.reply (.error "check value")
        else (s.cache cfg.root r.va r.len .read).reply (.data (s.vaBytes cfg.root .read r.va r.len))

/-- REMOTE_WRITE (R340): bytes of a host or a peer written at an address of the queue's address space, with check values. (DEDUCED, log 38.) -/
def execRemoteWrite (queue : Nat) (addr : BitVec 64) (bytes : List Byte) (s : State) : Out :=
  .next (s.take.2.remoteAccess s.take.1 { queue := queue, va := addr.toNat, data := some bytes, len := bytes.length })

/-- REMOTE_READ (R340). (DEDUCED, log 38.) -/
def execRemoteRead (queue : Nat) (addr : BitVec 64) (len : Nat) (s : State) : Out :=
  .next (s.take.2.remoteAccess s.take.1 { queue := queue, va := addr.toNat, data := none, len := len })

end Sys2Proof.Machine
end

