-- ==== Sys2Proof/Machine/LocalMem.lean ====
section
/-!
DEFINITION. Local memory, majors 0x38 to 0x41: loads and stores in .sh, .sp and .st, atomics, lock bits, DUSK and DAWN, and
the events that end their waits (R159 to R186).
-/

namespace Sys2Proof.Machine

/-- The local-memory fault of the lowest failing active lane (R160, R164). -/
def Team.addressFault (x : Team) (space limit size : Nat) (ea : Nat → Nat) : Option Report :=
  x.active.findSome? fun l => localFault space limit l (ea l) size

/-- The landing fault of the lowest failing lane, with its byte (R197, R203). (DEDUCED, log 30.) -/
def State.landingTrap (s : State) (x : Team) (dest : Dest) (size : Nat) (ea : Nat → Nat) : Option Report :=
  x.active.findSome? fun l => (List.range size).findSome? fun i =>
    match s.landingLoad dest (ea l + i) with
    | .fault id => some (s.landingReport l (ea l + i) id)
    | _ => none

/-- Some byte is behind a watermark (R179). -/
def State.landingWait (s : State) (dest : Dest) (bytes : List Nat) : Bool :=
  bytes.any fun a => s.landingLoad dest a == .wait

/-- A load goes on when nothing holds its bytes back; else it traps, or parks (R179, R197). -/
def withLanding (x : Team) (s : State) (dest : Dest) (size : Nat) (ea : Nat → Nat) (k : Act) : Act :=
  match s.landingTrap x dest size ea with
  | some r => .trap r
  | none =>
    let bytes := x.bytesOf size ea
    if s.landingWait dest bytes then .wait (.landing dest bytes) s else k

/-- A store goes on when every live watermark has passed its bytes; else it parks (R180). -/
def withLandingStore (x : Team) (s : State) (dest : Dest) (size : Nat) (ea : Nat → Nat) (k : Act) : Act :=
  let bytes := x.bytesOf size ea
  if bytes.all (s.landingStore dest) then k else .wait (.landingStore dest bytes) s

/-- The storage error of the lowest active lane that reads one (R365). -/
def Team.storageFault (x : Team) (sub : BitVec 4) (ea : Nat → Nat) (bad : Nat → Bool) : Option Report :=
  (x.active.find? fun l => bad (ea l)).map fun l =>
    { cause := 19#8, sub := sub, lane := BitVec.ofNat 32 l, info0 := BitVec.ofNat 32 (ea l) }

/-- The earlier values of the registers that a load writes, until the load has returned (R230). (DEDUCED, log 22.) -/
def Team.flying (x : Team) (d : Field) (n : Nat) : List (Nat × Word) :=
  if d.toNat < 112 then
    (List.range n).flatMap fun i => x.active.map fun l => ((x.ctx.win + d.toNat + i) * 1024 + l, x.rd 0 d i l)
  else []

/-- A team to which n registers of a result are on their way (R230). (DEDUCED, log 22.) -/
def Team.inbound (x : Team) (d : Field) (n : Nat) : Team :=
  let old := x.flying d n
  { x with inFlight := if old.isEmpty then x.inFlight else x.inFlight ++ [old] }

/-- A load's result (R34, R166) from the value of each lane. -/
def Team.loaded (x : Team) (w : LdW) (d : Field) (v : Nat → Nat) : Team :=
  (x.inbound d (ldRegs w)).results d (ldRegs w) fun i l => ldWord w (v l) i

/-- The result of an atomic or of LDLK (R182, R185), which comes from memory as a load's does. (DEDUCED, log 22.) -/
def Team.fetchedWord (x : Team) (d : Field) (v : Nat → Word) : Team := (x.inbound d 1).result d v

/-- Word i of the data of a store. -/
def Team.stBytes (x : Team) (size : Nat) (d : Field) (l : Nat) : List Byte :=
  (((List.range ((size + 3) / 4)).flatMap fun i => leBytes 4 (x.rd 0 d i l).toNat)).take size

/-- The cells that a store writes, active lanes ascending, so that the highest-numbered lane decides (R167). -/
def Team.stCells (x : Team) (size : Nat) (d : Field) (ea : Nat → Nat) : List Host.Cell :=
  x.active.flatMap fun l => cellsAt (ea l) (x.stBytes size d l)

/-- A load that nothing holds back performs, or, in a slot in which loads do not perform yet or behind a load that has not, is left to perform
later (R166, R168), but not in a rotation (R97, R99): two says which bytes have two values (R180), byte reads one. (DESIGN CHOICE, log 6.) -/
def loadNow (t : Nat) (x : Team) (s : State) (w : LdW) (d : Field) (dest : Dest) (ea : Nat → Nat) (two : Nat → Bool)
    (byte : Bool → Nat → Byte) : Act :=
  if (s.lazy && (s.core x.core).rotation.isEmpty) || !x.late.isEmpty then
    let p := s.take
    .next (p.2.putTeam t (x.defer p.1 dest w d ea))
  else
    let c := s.contentions two (x.bytesOf (ldSize w) ea)
    .next (c.2.putTeam t (x.loaded w d fun l => leNat ((List.range (ldSize w)).map fun i => byte (c.1 l i) (ea l + i))))

/-- LD in .sh (R166). (DESIGN CHOICE, log 6.) -/
def execLdSh (w : LdW) (d a : Field) (off : BitVec 7) (s : State) : Out :=
  issue (.ldSh w d a off) s fun t x s =>
    let n := ldSize w
    let ea := x.ea 0 a off n
    match x.addressFault 0 (s.sharedOf x.launch) n ea with
    | some r => .trap r
    | none => withLanding x s (.sh x.cluster x.core) n ea <|
      match x.storageFault 2#4 ea fun e => s.shBad x.cluster x.core e n with
      | some r => .trap r
      | none => loadNow t x s w d (.sh x.cluster x.core) ea (s.shContended x.cluster x.core) (s.shLoad x.cluster x.core)

/-- ST in .sh (R167). -/
def execStSh (w : StW) (d a : Field) (off : BitVec 7) (s : State) : Out :=
  issue (.stSh w d a off) s fun _ x s =>
    let n := stSize w
    let ea := x.ea (litCount [d]) a off n
    match x.addressFault 0 (s.sharedOf x.launch) n ea with
    | some r => .trap r
    | none => withLandingStore x s (.sh x.cluster x.core) n ea <|
      .next (s.shStore x.cluster x.core (x.stCells n d ea))

/-- LD in .sp (R166, R171, R179, R180). (DESIGN CHOICE, log 6.) -/
def execLdSp (w : LdW) (d a : Field) (off : BitVec 7) (s : State) : Out :=
  issue (.ldSp w d a off) s fun t x s =>
    let n := ldSize w
    let ea := x.ea 0 a off n
    match x.addressFault 1 Config.scratchBytes n ea with
    | some r => .trap r
    | none => withLanding x s (.sp (dieOf x.core)) n ea <|
      match x.storageFault 3#4 ea fun e => s.spBad (dieOf x.core) e n with
      | some r => .trap r
      | none => loadNow t x s w d (.sp (dieOf x.core)) ea (s.contended x.core) (s.spByte x.core)

/-- ST in .sp (R167, R170); a store that would leave more than 4,096 lines unpublished publishes first (R175). (DEDUCED, log 51.) -/
def execStSp (w : StW) (d a : Field) (off : BitVec 7) (s : State) : Out :=
  issue (.stSp w d a off) s fun t x s =>
    let n := stSize w
    let ea := x.ea (litCount [d]) a off n
    match x.addressFault 1 Config.scratchBytes n ea with
    | some r => .trap r
    | none => withLandingStore x s (.sp (dieOf x.core)) n ea <|
      let bytes := x.bytesOf n ea
      let cells := x.stCells n d ea
      let room := fun (s : State) => decide ((s.core x.core).linesWith bytes ≤ Config.unpublishedLines)
      if room s then .next (s.spHold x.core t cells)
      else if s.duskStalls x.core t then .wait (.dusk bytes) s
      else
        let s := s.publishTeam x.core t
        if room s then .next (s.spHold x.core t cells) else .wait (.dusk bytes) s

/-- The virtual address of a team's stack window (R163). -/
def State.stackVa (s : State) (x : Team) : Nat :=
  ((s.cfgOf x.launch).map (·.stackBase.toNat)).getD 0
    + Config.stackBytes * (clusterIndex x.cluster * ((s.record? x.launch).map (·.teams)).getD 0 + x.tm)

/-- The stack cache's line of a team (R163). -/
def Core.line? (c : Core) (t line : Nat) : Option StackLine := c.stack.find? fun l => l.team == t && l.line == line

/-- A byte in the stack cache. -/
def Core.stByte (c : Core) (t va : Nat) : Byte :=
  match c.line? t (va / 128) with
  | some l => tget zeros l.data (va % 128)
  | none => 0#8

/-- Writing stack bytes into lines that are present (R163: write-back). -/
def State.stWrite (s : State) (core t : Nat) (cells : List Host.Cell) : State :=
  let c := s.core core
  s.putCore core { c with stack := c.stack.map fun l =>
    let mine := cells.filter fun x => l.team == t && x.1 / 128 == l.line
    if mine.isEmpty then l
    else { l with data := tsets zeros l.data (mine.map fun x => (x.1 % 128, x.2)), dirty := true } }

/-- A trap of an access to the stack that may have needed more lines than the cache has: they are needed no more (R18, R163). (DESIGN CHOICE, log 13.) -/
def State.stackTrap (s : State) (t : Nat) (x : Team) (r : Report) : Act :=
  .done ((s.takeTrap t { r with word := x.word }).trimStack x.core)

/-- An access to the stack goes on once every address is valid and translates, and every line is present (R163). A handler
or child team has no valid address; every access it makes is beyond its space, also a misaligned one. (DESIGN CHOICE, log 13.) -/
def withStack (t : Nat) (x : Team) (s : State) (acc : Access) (size : Nat) (ea : Nat → Nat) (k : (Nat → Nat) → State → Act) :
    Act :=
  let fault := if 64 ≤ x.tm
    then x.first.map fun l => ({ cause := 3#8, sub := 2#4, lane := BitVec.ofNat 32 l, info0 := 2#32, info1 := BitVec.ofNat 32 (ea l) } : Report)
    else x.addressFault 2 Config.stackBytes size ea
  match fault with
  | some r => .trap r
  | none =>
    let root := s.rootOf x.launch
    let va := fun l => s.stackVa x + ea l
    let ends := fun l => [va l, va l + (size - 1)]
    let stuck := fun l => (ends l).any fun v => x.deniedAt v || (acc == .write && s.codePage root v)
    match x.active.find? stuck with
    | some l => s.stackTrap t x { cause := 3#8, sub := 3#4, lane := BitVec.ofNat 32 l, info0 := 2#32, info1 := BitVec.ofNat 32 (ea l) }
    | none =>
      match x.active.findSome? fun l => s.faultIn root (va l) size acc with
      | some (kind, at_) => .wait .fault (s.raiseFault (dieOf x.core) x.launch (.team t) kind at_)
      | none =>
        let s := x.active.foldl (fun s l => s.cache root (va l) size acc) s
        let lines := (x.active.flatMap fun l => (ends l).map (· / 128)).eraseDups
        let missing := lines.filter fun l => ((s.core x.core).line? t l).isNone
        if missing.isEmpty then k va s else .wait (.stack lines) s

/-- A stack line of a team has an uncorrectable error (R365). -/
def State.stBad (s : State) (t va : Nat) : Bool := s.errors.contains (.stack t (va / 128))

/-- A line filled from main memory (R163). (DESIGN CHOICE, log 13.) -/
def State.fillLine (s : State) (root : BitVec 48) (core t : Nat) (needed : List Nat) (line : Nat) : State :=
  if ((s.core core).line? t line).isSome then s else
  let at_ := fun (a : Access) => match s.xlate root (128 * line) a with
    | .ok e => some (s.keyVal e.key, e.pa (128 * line))
    | .fault _ => none
  match (at_ .read).orElse fun _ => at_ .write with
  | none => s
  | some (key, pa) =>
    let s := s.evict core t (Config.stackLines - 1) needed (s.core core).stack.length
    let c := s.core core
    let data := tsets zeros [] ((List.range 128).map fun i => (i, s.plainByte key (pa + i)))
    s.putCore core { c with stack := c.stack ++ [⟨t, line, pa, key, data, false⟩] }

/-- LD in .st (R163, R166). -/
def execLdSt (w : LdW) (d a : Field) (off : BitVec 7) (s : State) : Out :=
  issue (.ldSt w d a off) s fun t x s =>
    let n := ldSize w
    withStack t x s .read n (x.ea 0 a off n) fun va s =>
      match x.storageFault 4#4 (x.ea 0 a off n) fun e => s.stBad t (s.stackVa x + e) || s.stBad t (s.stackVa x + e + (n - 1)) with
      | some r => s.stackTrap t x r
      | none => .next ((s.putTeam t (x.loaded w d fun l => leNat (bytesAt ((s.core x.core).stByte t) (va l) n))).trimStack x.core)

/-- ST in .st (R163, R167). -/
def execStSt (w : StW) (d a : Field) (off : BitVec 7) (s : State) : Out :=
  issue (.stSt w d a off) s fun t x s =>
    let n := stSize w
    withStack t x s .write n (x.ea (litCount [d]) a off n) fun va s => .next ((s.stWrite x.core t (x.stCells n d va)).trimStack x.core)

/-- STACK_FILL_COMPLETE (R163): the missing lines are filled, and the team's access is replayed. A translation that has
been lost meanwhile is met again by the replay, or faults here. -/
def execStackFillComplete (team : Nat) (s : State) : Out :=
  ofEvent (match aget s.teams team with
    | none => none
    | some x => if !s.resident team x then none else match x.park with
      | some (.stack lines) =>
        let root := s.rootOf x.launch
        let s := lines.foldl (fun s l => s.fillLine root x.core team lines l) s
        some (s.putTeam team { x with park := none })
      | _ => none)

/-- LOAD_COMPLETION (R166, R168): the team's oldest load that has not performed performs; with none, its oldest load has returned
to the array. (DEDUCED, log 22.) -/
def execLoadCompletion (team : Nat) (s : State) : Out :=
  ofEvent (match aget s.teams team with
    | none => none
    | some x =>
      if !x.late.isEmpty then some (s.performLoad team) else
      match x.inFlight with
      | [] => none
      | _ :: r => some (s.putTeam team { x with inFlight := r }))

/-- The lesser or greater of two words by a reading (R182). -/
def pickWord (less : Bool) (a b : Word) : Word := if less then a else b

/-- The new value of an atomic (R182): w the word, d the operand, n the new value of cas. -/
def atomValue (o : AtomOp) (w d n : Word) : Word :=
  match o with
  | .addI32 => w + d
  | .minI32 => pickWord (decide (w.toInt ≤ d.toInt)) w d
  | .maxI32 => pickWord (decide (d.toInt ≤ w.toInt)) w d
  | .minN32 => pickWord (decide (w.toNat ≤ d.toNat)) w d
  | .maxN32 => pickWord (decide (d.toNat ≤ w.toNat)) w d
  | .and => w &&& d
  | .or => w ||| d
  | .xor => w ^^^ d
  | .xchg => d
  | .cas => if w = d then n else w
  | .addF32 => BitVec.ofNat 32 (FFmt.f32.addB .rne false w.toNat d.toNat)

/-- The second word of an atomic's data: the new value of cas (R181). -/
def Team.atomNew (x : Team) (o : AtomOp) (d : Field) (l : Nat) : Word :=
  match o with
  | .cas => x.rd 0 d 1 l
  | _ => 0#32

/-- An atomic in every active lane, ascending (R182): the state, and the old value of each lane, newest first. -/
def atomLanes (o : AtomOp) (x : Team) (d : Field) (ea : Nat → Nat) (read : State → Nat → Word)
    (write : State → Nat → Word → State) (s : State) : State × List (Nat × Word) :=
  x.active.foldl (fun p l =>
    let w := read p.1 (ea l)
    (write p.1 (ea l) (atomValue o w (x.rd 0 d 0 l) (x.atomNew o d l)), (l, w) :: p.2)) (s, [])

/-- The value noted for a lane. -/
def laneValue (vs : List (Nat × Word)) (l : Nat) : Word := ((vs.find? (·.1 == l)).map (·.2)).getD 0#32

/-- ATOM in .sh (R181 to R183). -/
def execAtomSh (o : AtomOp) (d a : Field) (off : BitVec 7) (s : State) : Out :=
  issue (.atomSh o d a off) s fun t x s =>
    let ea := x.ea 0 a off 4
    match x.addressFault 0 (s.sharedOf x.launch) 4 ea with
    | some r => .trap r
    | none => withLandingStore x s (.sh x.cluster x.core) 4 ea <|
      match x.storageFault 2#4 ea fun e => s.shBad x.cluster x.core e 4 with
      | some r => .trap r
      | none =>
        let p := atomLanes o x d ea (fun s e => leWord (bytesAt (s.shLatest x.cluster x.core) e 4))
          (fun s e v => s.shStore x.cluster x.core (cellsAt e (leBytes 4 v.toNat))) s
        .next (p.1.putTeam t (x.fetchedWord d (laneValue p.2)))

/-- The latest value of an .sp word (R183). -/
def State.spWord (s : State) (die a : Nat) : Word := leWord (bytesAt (s.spLatest die) a 4)

/-- A word written at its slice by a core: a publication at once (R183). -/
def State.spPerform (s : State) (core a : Nat) (v : Word) : State :=
  s.publishAtomic (dieOf core) (some core) true s.nextId (cellsAt a (leBytes 4 v.toNat))

/-- A lock bit is free, or this team's. -/
def State.lockFree (s : State) (die t lock : Nat) : Bool :=
  match (s.die die).holder lock with
  | none => true
  | some u => u == t

/-- ATOM in .sp (R181 to R183): it waits while another team holds the lock bit of a word. -/
def execAtomSp (o : AtomOp) (d a : Field) (off : BitVec 7) (s : State) : Out :=
  issue (.atomSp o d a off) s fun t x s =>
    let ea := x.ea 0 a off 4
    let die := dieOf x.core
    match x.addressFault 1 Config.scratchBytes 4 ea with
    | some r => .trap r
    | none => withLandingStore x s (.sp die) 4 ea <|
      let locks := (x.active.map fun l => lockOf (ea l)).eraseDups
      if !locks.all (s.lockFree die t) then .wait (.lock locks) s else
      match x.storageFault 3#4 ea fun e => s.spBad die e 4 with
      | some r => .trap r
      | none =>
        let p := atomLanes o x d ea (fun s e => s.spWord die e) (fun s e v => s.spPerform x.core e v) s
        .next (p.1.putTeam t (x.fetchedWord d (laneValue p.2)))

/-- ATOM_LOCK_WAIT_RESUME (R183). -/
def execAtomLockWaitResume (team : Nat) (s : State) : Out :=
  resume team (fun x p => match p with
    | .lock locks => locks.all (s.lockFree (dieOf x.core) team)
    | _ => false) s

/-- LDLK (R185): it takes every lock bit or none; a failed one leaves the team (R94). (DEDUCED, log 31.) (DEDUCED, log 53.) -/
def execLdlk (d a : Field) (off : BitVec 7) (s : State) : Out :=
  issue (.ldlk d a off) s fun t x s =>
    if x.mz then .next (s.putTeam t (x.setZ true)) else
    let ea := x.ea 0 a off 4
    let die := dieOf x.core
    match x.addressFault 1 Config.scratchBytes 4 ea with
    | some r => .trap r
    | none => withLanding x s (.sp die) 4 ea <|
      let locks := (x.active.map fun l => lockOf (ea l)).eraseDups
      if !locks.all (s.lockFree die t) then .next ((s.putTeam t (x.setZ false)).leave x.core t) else
      match x.storageFault 3#4 ea fun e => s.spBad die e 4 with
      | some r => .trap r
      | none =>
        let k := s.die die
        let new := (locks.filter fun b => (k.holder b).isNone).map fun b => (b, t)
        .next ((s.putDie die { k with locks := k.locks ++ new }).putTeam t
          ((x.fetchedWord d fun l => s.spWord die (ea l)).setZ true))

/-- STUL (R186): every lane's lock must be held; the writes, then the release of the locks named. -/
def execStul (d a : Field) (off : BitVec 7) (s : State) : Out :=
  issue (.stul d a off) s fun t x s =>
    let ea := x.ea (litCount [d]) a off 4
    let die := dieOf x.core
    match x.addressFault 1 Config.scratchBytes 4 ea with
    | some r => .trap r
    | none =>
      match x.active.find? fun l => (s.die die).holder (lockOf (ea l)) != some t with
      | some l => .trap { cause := 3#8, sub := 4#4, lane := BitVec.ofNat 32 l, info0 := 1#32, info1 := BitVec.ofNat 32 (ea l) }
      | none => withLandingStore x s (.sp die) 4 ea <|
        let s := x.active.foldl (fun s l => s.spPerform x.core (ea l) (x.rd 0 d 0 l)) s
        let locks := x.active.map fun l => lockOf (ea l)
        let k := s.die die
        .next (s.putDie die { k with locks := k.locks.filter fun b => !locks.contains b.1 })

/-- DUSK (R173): core scope orders only; die scope publishes; package and system scope wait for what was sent first. -/
def execDusk (c : Scope) (s : State) : Out :=
  issue (.dusk c) s fun t x s =>
    match c with
    | .core => .next s
    | .die => withDusk t x s .next
    | .pkg => withRelease false t x s fun _ s => .next s
    | .sys => withRelease true t x s fun _ s => .next s

/-- DAWN (R173): the snapshot becomes current but for core scope; the team is left (R94). -/
def execDawn (c : Scope) (s : State) : Out :=
  issue (.dawn c) s fun t x s =>
    match c with
    | .core => .next (s.leave x.core t)
    | .die => .next ((s.dawn x.core).leave x.core t)
    | .pkg => .next ((s.dawn x.core).leave x.core t)
    | .sys => .next ((s.dawn x.core).leave x.core t)

/-- A stalled batch can be published, or a store has room (R175, R176). (DEDUCED, log 51.) -/
def State.duskOver (s : State) (core t : Nat) (bytes : List Nat) : Bool :=
  let c := s.core core
  let fits := fun (c : Core) => decide (c.linesWith bytes ≤ Config.unpublishedLines)
  if bytes.isEmpty then !s.duskStalls core t
  else fits c || (!s.duskStalls core t && fits { c with unpub := c.unpub.filter (·.team != t) })

/-- DUSK_STALL_RELEASE (R176): the team goes on; its instruction, issued again, publishes. -/
def execDuskStallRelease (team : Nat) (s : State) : Out :=
  resume team (fun x p => match p with
    | .dusk bytes => s.duskOver x.core team bytes
    | _ => false) s

/-- A state of a team in which an idle refresh may happen (R177). -/
def Park.idle : Park → Bool
  | .flags _ _ => true
  | .counter _ _ _ => true
  | .ring _ _ => true
  | .allowance _ => true
  | .halt => true
  | .dusk _ => true
  | _ => false

/-- IDLE_REFRESH (R177): every resident team of the core is in such a state, and the core has not seen everything. -/
def execIdleRefresh (core : Nat) (s : State) : Out :=
  let c := s.core core
  if !c.age.isEmpty && c.age.all (fun t => ((aget s.teams t).bind (·.park)).any Park.idle)
      && decide (c.snap < (s.die (dieOf core)).pubs.length) then .next (s.dawn core)
  else .fault .eventNotEnabled

/-- LANDING_LOAD_RESUME (R179): the bytes have been passed, or the load will trap; it is issued again. -/
def execLandingLoadResume (team : Nat) (s : State) : Out :=
  resume team (fun _ p => match p with
    | .landing dest bytes =>
      !s.landingWait dest bytes || bytes.any fun a => match s.landingLoad dest a with
        | .fault _ => true
        | _ => false
    | _ => false) s

/-- LANDING_STORE_RESUME (R180). -/
def execLandingStoreResume (team : Nat) (s : State) : Out :=
  resume team (fun _ p => match p with
    | .landingStore dest bytes => bytes.all (s.landingStore dest)
    | _ => false) s

end Sys2Proof.Machine
end

