-- ==== Sys2Proof/Machine/Manage.lean ====
section
/-!
DEFINITION. The management endpoint's configuration operations and attestation (R367 to R369), bring-up (R373), the failure of a
core (R358), and the power states of islands (R370, R371).
-/

namespace Sys2Proof.Machine

/-- A configuration operation carries an increasing sequence number and the owner's signature (R369). (DEDUCED, log 39.) -/
def State.signedByOwner (s : State) (sig : Signed) : Bool :=
  sig.valid && decide (s.mgmt.seqNo < sig.seqNo) && s.mgmt.owner == some sig.keyDigest

/-- The endpoint answers in a phase only (R373). A configuration operation that is not signed as it must be changes nothing. (DEDUCED, log 39.) -/
def configure (allowed : Bool) (sig : Signed) (what : String) (k : State → State) (s : State) : Out :=
  ofEvent (if s.phase = .off then none
    else if allowed && s.signedByOwner sig then some ((k { s with mgmt := { s.mgmt with seqNo := sig.seqNo } }).reply (.ok what))
    else some (s.reply (.error what)))

/-- ENROL_OWNER (R369): the first enrolment is signed by the key that it enrols; a later one by the current owner. (DEDUCED, log 39.) -/
def execEnrolOwner (sig : Signed) (newKey : BitVec 256) (s : State) : Out :=
  ofEvent (if s.phase = .off then none else
    let first : Bool := s.mgmt.owner.isNone && sig.valid && decide (s.mgmt.seqNo < sig.seqNo) && sig.keyDigest == newKey
    if s.phase = .ready ∧ (first || s.signedByOwner sig) then
      some ({ s with mgmt := { s.mgmt with seqNo := sig.seqNo, owner := some newKey } }.reply (.ok "enrol"))
    else some (s.reply (.error "enrol")))

/-- The checks of the boot ROM (R367). -/
def Bank.boots (b : Bank) (rollback : Nat) : Bool := b.good && decide (rollback ≤ b.version)

/-- The active bank. -/
def Mgmt.active (m : Mgmt) : Bank := if m.second then m.bank1 else m.bank0

/-- UPDATE_FIRMWARE (R367, R369): written to the inactive bank, then verified, under the key whose digest is fused; an image that verifies becomes active at the next
reset. (DEDUCED, log 39.) -/
def execUpdateFirmware (sig : Signed) (image : FwImage) (s : State) : Out :=
  let bank : Bank := { good := image.signatureGood && image.keyDigest == s.mgmt.fused, version := image.secVersion, digest := image.digest }
  configure true sig "update" (fun s =>
    let m := s.mgmt
    let m := if m.second then { m with bank0 := bank } else { m with bank1 := bank }
    { s with mgmt := { m with pending := bank.boots m.rollback } }) s

/-- A queue's configuration as R338 allows it. (DESIGN CHOICE, log 25.) -/
def cfgOk (queue : Nat) (cfg : QueueCfg) : Bool :=
  decide (queue < 64) && decide (cfg.priority ≤ 7) && decide (cfg.peers ≤ 256)

/-- CONFIGURE_QUEUE (R338, R339): sequence numbers start from 0, and no peer of its table is unavailable yet. (DESIGN CHOICE, log 25.) -/
def execConfigureQueue (sig : Signed) (queue : Nat) (cfg : QueueCfg) (s : State) : Out :=
  configure (s.phase == .ready && cfgOk queue cfg) sig "configure"
    (fun s => s.putQueue queue { s.queue queue with cfg := some cfg, nextSeq := 0, lostPeers := [] }) s

/-- A slot that the owner loads and unloads (R362). -/
def keySlot (slot : Nat) : Bool := decide (1 ≤ slot) && decide (slot ≤ 8191)

/-- LOAD_KEY (R362, R369): a key that does not unwrap is answered with an error. (DEDUCED, log 39.) -/
def execLoadKey (sig : Signed) (slot : Nat) (key : KeyLoad) (s : State) : Out :=
  match Config.unwrapKey s.mgmt.mlkem key.ciphertext key.wrapped with
  | some k => configure (s.phase == .ready && keySlot slot) sig "load key" (fun s => { s with keys := aput s.keys slot k }) s
  | none => configure false sig "load key" id s

/-- UNLOAD_KEY (R362, R369). -/
def execUnloadKey (sig : Signed) (slot : Nat) (s : State) : Out :=
  configure (s.phase == .ready && keySlot slot) sig "unload key" (fun s => { s with keys := adel s.keys slot }) s

/-- The IDR.ARCH word (R112). -/
def archWord : Word := 0x00B00401#32

/-- What an attestation report signs, as bytes (R368). -/
def reportBytes (nonce : BitVec 256) (m : Mgmt) (slots : Nat) : List Byte :=
  leBytes 32 nonce.toNat ++ leBytes 16 Config.serial.toNat ++ leBytes 4 archWord.toNat ++ leBytes 32 m.active.digest.toNat
    ++ leBytes 4 m.active.version ++ leBytes 32 ((m.owner.map (·.toNat)).getD 0) ++ leBytes 32 (Config.mlkemDigest m.mlkem).toNat
    ++ leBytes 4 slots

/-- ATTEST (R368): the signature index advances before the report is released. (DESIGN CHOICE, log 4.) -/
def execAttest (nonce : BitVec 256) (s : State) : Out :=
  ofEvent (if s.phase = .off then none
    else if 2 ^ 20 ≤ s.mgmt.sigIndex then some (s.reply .exhausted)
    else
      let m := { s.mgmt with sigIndex := s.mgmt.sigIndex + 1 }
      some ({ s with mgmt := m }.reply (.report nonce Config.serial archWord m.active.digest m.active.version m.owner
        (Config.mlkemDigest m.mlkem) s.keys.length m.sigIndex
        (Config.xmssSign m.identity m.sigIndex (reportBytes nonce m s.keys.length)))))

/-- The spare map that bring-up fixes for a die (R373 step 2; PRESUMED, log 7): a logical core whose first physical core has failed gets the
lowest working spare that is left. -/
def spareMap (failed : List Nat) (die : Nat) : List (Nat × Nat) :=
  let logical := (List.range 64).map (64 * die + ·)
  let used := logical.map firstPhysical
  let spares := ((List.range 72).map (72 * die + ·)).filter fun p => !used.contains p && !failed.contains p
  (logical.filter fun n => failed.contains (firstPhysical n)).zip spares

/-- Firmware activation at a reset (R367): the pending bank, and the other one when the active one fails. -/
def Mgmt.boot (m : Mgmt) : Mgmt × Bool :=
  let m := { m with second := m.second ^^ m.pending, pending := false }
  if m.active.boots m.rollback then (m, true)
  else
    let o := { m with second := !m.second }
    if o.active.boots o.rollback then (o, true) else (m, false)

/-- A list with the entries of another that it lacks. -/
def joined (l more : List Nat) : List Nat := l ++ more.filter fun n => !l.contains n

/-- Bring-up (R373): what flash, fuses and the module's failures hold stays, with what its tests find failing; everything else starts
anew. A link that fails its audit is out of service, with an event of kind 7 once ready; a port that does not come up stays
down. (DEDUCED, log 20.) -/
def State.bringUp (s : State) : State :=
  let found := s.defects
  let b := s.mgmt.boot
  let failed := joined s.failedCores (found.cores.filter (· < 288))
  let new := { State.reset with
    phase := if b.2 then .ready else .recovery
    mgmt := b.1
    failedCores := failed
    coreMap := ((List.range 4).flatMap (spareMap failed)).foldl (fun m c => aput m c.1 c.2) []
    engines := joined s.engines (found.engines.filter (· < 396)), seqUnit := if s.seqUnit == .active then .active else s.seqUnit
    downPorts := found.ports.filter (· < 8)
    defects := found, script := s.script, fresh := s.fresh, nextId := s.nextId }
  if b.2 then found.links.foldl (fun s n => s.linkDown n) new else new

/-- Main memory keeps its bytes over a reset command, as they were stored (DEDUCED, log 20): its forms and the mismatches in it stay with them. -/
def State.keepMemory (s new : State) : State :=
  { new with
    mem := s.mem, sealed := s.sealed, forms := s.forms
    errors := s.errors.filter fun e => match e with
      | .main _ => true
      | .column _ => true
      | _ => false }

/-- RESET (R369, R373): also in recovery nothing but updates and attestation is accepted (R367). (DEDUCED, log 20.) -/
def execReset (sig : Signed) (s : State) : Out :=
  configure (s.phase == .ready) sig "reset" (fun s => s.keepMemory s.bringUp) s

/-- POWER_ON (R373). (DEDUCED, log 20.) -/
def execPowerOn (s : State) : Out := .next s.bringUp

/-- Launches with a team or a resident cluster on a core. -/
def State.launchesOn (s : State) (core : Nat) : List Nat :=
  let c := s.core core
  ((c.age.filterMap fun t => (aget s.teams t).map (·.launch)) ++ c.residents.map clusterLaunch).eraseDups

/-- Every team of a core resumes from image A, and the core performs an implicit DAWN (R177, R263, R358). (DESIGN CHOICE, log 21.) -/
def State.resumeCore (s : State) (core : Nat) : State :=
  let c := s.core core
  let s := s.putCore core { c with current := none, issued := 0 }
  let s := c.age.foldl (fun s t => match aget s.teams t with
    | some x => s.putTeam t (s.fromImageA x)
    | none => s) s
  (s.dropFills fun f => match f.who with
    | .team t => c.age.contains t
    | _ => false).dawn core

/-- CORE_FAILURE (R358): spare is the working spare of the core's island, which replaces it; none ends the launches on the core with
Code 0x1401; an outstanding array operation ends its launch with Code 0x1402. (DESIGN CHOICE, log 21.) -/
def execCoreFailure (core : Nat) (spare : Option Nat) (s : State) : Out :=
  let p := s.physical core
  let gone := { s with failedCores := s.failedCores ++ [p] }
  ofEvent (if Config.cores ≤ core ∨ s.failedCores.contains p then none else
    let spares := (List.range 6).map fun i => p / 6 * 6 + i
    let free := fun (q : Nat) => q != p && !s.failedCores.contains q && !((List.range Config.cores).any fun n => s.physical n == q)
    match spare with
    | none => if spares.any free then none else some ((s.launchesOn core).foldl (fun s l => s.abortLaunch l 0x1401#32 0#32) gone)
    | some q =>
      if !(spares.contains q && free q) then none else
      let s := { gone with coreMap := aput s.coreMap core q }
      let c := s.core core
      let s := match c.queue ++ c.arriving, c.owner with
        | _ :: _, some l => s.abortLaunch l 0x1402#32 0#32
        | _, _ => s
      some ((s.resumeCore core).sendEvent 4 0 0 (BitVec.ofNat 32 core) 0))

/-- Wake time of an island's state in nanoseconds (R370); none for a state that it does not enter. -/
def wakeTime (island : Nat) : Power → Option Nat
  | .noon => some 0
  | .evening => some 100
  | .night => some (if 60 ≤ island ∧ island < 62 then 20000 else 10000)
  | .midnight => if island < 48 then some 300000 else if island < 60 then some 50000 else none

/-- The deepest state whose wake time is at most the least latency tolerance; with no queue configured the deepest (R371). (DESIGN CHOICE, log 9.) -/
def State.sleepState (s : State) (island : Nat) : Power :=
  let tol := s.queues.filterMap fun q => q.2.cfg.map (·.tolerance)
  let fits := fun (p : Power) => (wakeTime island p).any fun w => tol.all fun t => decide (w ≤ t)
  if fits .midnight then .midnight else if fits .night then .night else if fits .evening then .evening else .noon

/-- A fill from main memory is wanted: it waits for the host's answer, or a stack cache or a stream buffer waits for it (R163, R253, R361). (DESIGN CHOICE, log 9.) -/
def State.filling (s : State) : Bool :=
  s.dies.any (fun d => !(d.2.faults ++ d.2.waiting).isEmpty) || s.teams.any fun t => match t.2.park with
    | some (.stack _) => true
    | some (.segment _) => true
    | _ => false

/-- A reduction in flight toward main memory (R318). (DESIGN CHOICE, log 9.) -/
def Packet.toMain (p : Packet) : Bool :=
  match p.kind with
  | .red _ space _ _ _ _ _ => space == 0
  | _ => false

/-- An island has work (R371): a suspended launch's teams, copies and waves are none. (DESIGN CHOICE, log 9.) -/
def State.islandBusy (s : State) (island : Nat) : Bool :=
  if island < 48 then
    let on := fun (n : Nat) => s.islandOf n == island
    s.teams.any (fun t => on t.2.core && s.resident t.1 t.2) || s.copies.any (fun c => on (c.1 / 1024) && !c.2.frozen)
      || s.clusters.any (fun c => c.2.resident && c.2.places.any fun p => on p.core)
      || s.cores.any fun c => on c.1 && !(c.2.unpub.isEmpty && c.2.incoming.isEmpty && c.2.spawnQ.isEmpty && c.2.children.isEmpty)
  else if island < 60 then
    s.waves.any (!·.2.frozen) || s.copies.any (!·.2.frozen) || s.graphs.any (·.2.live) || s.packets.any (·.2.toMain) || s.filling
      || !s.remotes.isEmpty
  else !s.packets.isEmpty || s.copies.any (!·.2.frozen) || !s.remotes.isEmpty || s.queues.any fun q => !q.2.waiting.isEmpty

/-- Islands in which work has arrived wake (R371). (DESIGN CHOICE, log 9.) -/
def State.stirred (s : State) : State :=
  (s.islands.filter fun i => i.2.power != .noon && s.islandBusy i.1).foldl (fun s i => s.wake i.1) s

/-- The state in which a step ends: arriving work has woken its islands (R371). -/
def stir : Out → Out
  | .next s => .next s.stirred
  | o => o

/-- Power is removed from an island: nothing in it is kept (R370). Counters of corrected errors start from 0 (R349). (DESIGN CHOICE, log 9.) -/
def State.dropIsland (s : State) (island : Nat) : State :=
  if island < 48 then { s with cores := s.cores.filter fun c => s.islandOf c.1 != island }
  else if island < 60 then { s with serr := tset zeros s.serr (island - 48) 0#32 }
  else s

/-- ISLAND_SLEEP (R370, R371): an island without work leaves noon. (DESIGN CHOICE, log 9.) -/
def execIslandSleep (island : Nat) (s : State) : Out :=
  let p := s.sleepState island
  ofEvent (if 64 ≤ island ∨ s.islandBusy island ∨ (s.island island).power ≠ .noon ∨ p = .noon then none else
    let s := if p = .midnight then s.dropIsland island else s
    some (s.putIsland island { s.island island with power := p }))

/-- ISLAND_WAKE (R370, R371). (DESIGN CHOICE, log 9.) -/
def execIslandWake (island : Nat) (s : State) : Out :=
  ofEvent (if 64 ≤ island ∨ (s.island island).power = .noon then none else some (s.wake island))

/-- CLOCK_THROTTLE (R371): firmware sets an island's clock within noon, at most its nominal clock. (DESIGN CHOICE, log 9.) -/
def execClockThrottle (island mhz : Nat) (s : State) : Out :=
  ofEvent (if 64 ≤ island ∨ mhz = 0 ∨ (islandReset island).mhz < mhz ∨ (s.island island).power ≠ .noon then none else
    some (s.putIsland island { s.island island with mhz := mhz }))

end Sys2Proof.Machine
end

