-- ==== Sys2Proof/Machine/MatrixUnit.lean ====
section
/-!
DEFINITION. The arithmetic of the matrix array: what an element of an operand enters as (R65, R70, R71, R223), blocks and their
rounding (R70, R78, R79), read-out (R80), and what the operations of the array queue do to a core (R228 to R241).
-/

namespace Sys2Proof.Machine

/-- A step as its descriptor and format word give it (R74, R222 to R224). -/
structure Step where
  a     : Nat
  b     : Nat
  out   : Nat
  /-- Group size G; 0 for none. -/
  group : Nat
  flush : Bool
  round : Rnd
  /-- E′: elements of the step. -/
  elems : Nat
  /-- Elements that count. -/
  valid : Nat
  zero  : Bool
  bstep : Nat
  pstep : Nat

/-- Bits of an element of a code (R75). -/
def elemBits (c : Nat) : Nat := if c ≤ 2 then 16 else if c ≤ 6 then 8 else 4

/-- Elements of a dense step: 64 bytes of them (R222). -/
def elemsOf (c : Nat) : Nat := 512 / elemBits c

/-- A descriptor and a format word read together. -/
def stepOf (sparse : Bool) (d w : Word) : Step :=
  let e := elemsOf (bits w 3 0) * (if sparse then 2 else 1)
  { a := bits w 3 0, b := bits w 7 4, out := bits w 11 8,
    group := if bits w 13 12 = 0 then 0 else 16 * 2 ^ bits w 13 12,
    flush := w.getLsbD 14, round := Rnd.ofCode (BitVec.ofNat 2 (bits w 16 15)), elems := e,
    valid := if bits d 23 16 = 0 then e else bits d 23 16, zero := d.getLsbD 24, bstep := bits d 7 0, pstep := bits d 15 8 }

/-- The accumulator format is INT56 (R76). -/
def Step.int (p : Step) : Bool := decide (5 ≤ p.a) && decide (5 ≤ p.b) && p.group == 0

/-- Slot of an element (R223). -/
def Step.slot (p : Step) (k : Nat) : Nat := k / min p.group p.elems

/-- Element k of packed bytes (R5, R219). -/
def packed (c : Nat) (f : Nat → Byte) (k : Nat) : Nat :=
  match elemBits c with
  | 16 => (f (2 * k)).toNat + 256 * (f (2 * k + 1)).toNat
  | 8 => (f k).toNat
  | _ => (f (k / 2)).toNat / 16 ^ (k % 2) % 16

/-- An integer element (R59). -/
def elemInt (c n : Nat) : Int :=
  if c = 5 then (BitVec.ofNat 8 n).toInt else if c = 7 then (BitVec.ofNat 4 n).toInt else n

/-- What enters the arithmetic: an exact value, or the causes of the NaN that its block generates (R70). -/
structure Entering where
  causes : List Nat := []
  val    : FVal

/-- An element's own value: codes 1 to 4 floating, 5 and up integers less the zero point (R71). -/
def elemVal (c n zp : Nat) : FVal :=
  match c with
  | 1 => FFmt.f16.decode n
  | 2 => FFmt.bf16.decode n
  | 3 => FFmt.e4m3.decode n
  | 4 => FFmt.e5m2.decode n
  | 6 => FVal.ofInt (elemInt 6 n - (zp : Int))
  | 8 => FVal.ofInt (elemInt 8 n - ((zp % 16 : Nat) : Int))
  | c => FVal.ofInt (elemInt c n)

/-- An element with its scale (R70, R71), flushed when the step flushes (R65). -/
def entering (p : Step) (c n scale zp : Nat) : Entering :=
  let v := elemVal c n zp
  let own : List Nat := if v.isNan then [1] else []
  if p.group = 0 then ⟨own, v.flush p.flush⟩ else
  let sc := FFmt.f16.decode scale
  let cs := own ++ (if sc.isNan then [2] else [])
  if !cs.isEmpty then ⟨cs, v⟩ else
  match v.mul sc with
  | .error e => ⟨[e], v⟩
  | .ok x => ⟨[], x.flush p.flush⟩

/-- A scale or a zero point among 24 parameter bytes (R222, R223, R241). -/
def scaleAt (f : Nat → Byte) (s : Nat) : Nat := (f (2 * s)).toNat + 256 * (f (2 * s + 1)).toNat
def zeroAt (f : Nat → Byte) (s : Nat) : Nat := (f (16 + s)).toNat

/-- Dense positions of compressed elements, from the metadata words of a lane (R228): at each position the compressed element
that stands there. -/
def densePos (md : List Word) (k : Nat) : Option Nat :=
  let g := k / 8
  let w := md.getD (g / 2) 0#32
  ((List.range 4).find? fun t => (w.toNat / 2 ^ (16 * (g % 2) + 3 * t)) % 8 == k % 8).map fun t => 4 * g + t

/-- The A elements of a row, where there is one, for k below V: data in 64 bytes, parameters behind them. -/
def rowRaw (p : Step) (md : Option (List Word)) (f : Nat → Byte) : List (Option Nat) :=
  (List.range p.valid).map fun k => match md with
    | none => some (packed p.a f k)
    | some md => (densePos md k).map (packed p.a f)

/-- Byte i of column c of B step t (R219). -/
def bByte (bst : Table 8) (t c i : Nat) : Byte := tget zeros bst (10240 * t + 64 * c + i)

/-- The B elements of a column for k below V. -/
def colRaw (p : Step) (bst : Table 8) (c : Nat) : List Nat :=
  let e := elemsOf p.b
  (List.range p.valid).map fun k => packed p.b (bByte bst (p.bstep + k / e) c) (k % e)

/-- One block added to an E11M44 accumulator (R66, R70, R78): a block without products leaves it. (DEDUCED, log 45.) -/
def blockF (ps : List (Entering × Entering)) (acc : Nat) : Nat :=
  let f := FFmt.e11m44
  match ps, f.decode acc with
  | [], _ => acc
  | _, .nan neg fr => f.nanTo f neg fr
  | ps, a =>
    let prods := ps.map fun q =>
      if q.1.causes.isEmpty && q.2.causes.isEmpty then q.1.val.mul q.2.val else .error ((q.1.causes ++ q.2.causes).min?.getD 1)
    let vals := prods.filterMap Except.toOption
    let errs := prods.filterMap fun r => match r with
      | .error e => some e
      | .ok _ => none
    let both := if vals.contains (.inf false) && vals.contains (.inf true) then [3] else []
    match (errs ++ both).min? with
    | some c => f.qnan c
    | none => f.deliver .rne false (vals.foldlM (FVal.add false) a)

/-- Block n of a step on an accumulator element (R78, R79). as and bs: the elements for k below V. -/
def stepBlock (p : Step) (ap bp : Nat → Byte) (as : List (Option Nat)) (bs : List Nat) (acc : BitVec 56) (n : Nat) : BitVec 56 :=
  let ks := ((List.range 16).map (16 * n + ·)).filter fun k => decide (k < p.valid)
  let pairs := ks.filterMap fun k => match as.getD k none with
    | none => none
    | some x => some (k, x, bs.getD k 0)
  if p.int then
    acc + BitVec.ofInt 56 ((pairs.map fun q => elemInt p.a q.2.1 * elemInt p.b q.2.2).sum)
  else
    let par := fun (c : Nat) (f : Nat → Byte) (k n : Nat) =>
      entering p c n (scaleAt f (p.slot k)) (zeroAt f (p.slot k))
    BitVec.ofNat 56 (blockF (pairs.map fun q => (par p.a ap q.1 q.2.1, par p.b bp q.1 q.2.2)) acc.toNat)

/-- The first n blocks of a step on an accumulator element; with Z it is taken as zero first (R224). -/
def stepElem (p : Step) (ap bp : Nat → Byte) (as : List (Option Nat)) (bs : List Nat) (acc : BitVec 56) (n : Nat) : BitVec 56 :=
  (List.range n).foldl (stepBlock p ap bp as bs) (if p.zero then 0#56 else acc)

/-- Blocks of a step (R78). -/
def Step.blocks (p : Step) : Nat := p.elems / 16

/-- Bytes of a list of words, by number. -/
def wordByte (ws : List Word) (i : Nat) : Byte := BitVec.ofNat 8 ((ws.getD (i / 4) 0#32).toNat / 2 ^ (8 * (i % 4)))

/-- Bytes of a list, by number. -/
def listByte (bs : List Byte) (i : Nat) : Byte := bs.getD i 0#8

/-- Key of an accumulator element. -/
def accKey (row col : Nat) : Nat := 160 * row + col

/-- An accumulator element. -/
def Core.accAt (c : Core) (row col : Nat) : BitVec 56 := tget zeros c.acc (accKey row col)

/-- What M reads where it is not listed: −∞ (R220). -/
def negInf : Nat → Word := fun _ => 0xFF800000#32

/-- The running maximum and the running sum of a row (R217). -/
def Core.maxAt (c : Core) (row : Nat) : Word := tget negInf c.rowMax row
def Core.sumAt (c : Core) (row : Nat) : Word := tget zeros c.rowSum row

/-- A row of A as a pass reads it: its accumulator row, its bytes, its metadata words for MMQS. -/
structure ARow where
  row : Nat
  f   : Nat → Byte
  md  : Option (List Word)

/-- Element of a row after n blocks of a pass. -/
def Core.passElem (c : Core) (p : Step) (r : ARow) (n col : Nat) (acc : BitVec 56) : BitVec 56 :=
  stepElem p (fun i => r.f (64 + i)) (bByte c.bst p.pstep col) (rowRaw p r.md r.f) (colRaw p c.bst col) acc n

/-- A pass on its rows (R228). -/
def Core.pass (c : Core) (p : Step) (rows : List ARow) : Core :=
  { c with acc := tsets zeros c.acc (rows.flatMap fun r =>
      (List.range 160).map fun col => (accKey r.row col, c.passElem p r p.blocks col (c.accAt r.row col))) }

/-- A product of an accumulator element and an FP32 value, rounded to a format (R68, R144): a NaN of the accumulator first. -/
def accMul (dst : FFmt) (acc w : Nat) : Nat :=
  match FFmt.e11m44.decode acc, FFmt.f32.decode w with
  | .nan n fr, _ => FFmt.e11m44.nanTo dst n fr
  | _, .nan n fr => FFmt.f32.nanTo dst n fr
  | a, b => dst.deliver .rne false (a.mul b)

/-- FP32 bits as an accumulator element (R69, R236). -/
def toAcc (w : Nat) : BitVec 56 := BitVec.ofNat 56 (FFmt.f32.convert .e11m44 .rne false false w)

/-- Two FP32 patterns are equal values. -/
def sameValue (a b : Nat) : Bool := (FFmt.f32.decode a).compare (FFmt.f32.decode b) == some .eq

/-- MXSMAX on a row (R237): the core, and the factor f. -/
def Core.softmax (c : Core) (row : Nat) (scale : Word) (n : Nat) : Core × Word :=
  let f32 := FFmt.f32
  let sc := (List.range n).map fun j => accMul f32 (c.accAt row j).toNat scale.toNat
  let m := (c.maxAt row).toNat
  let mx := sc.foldl (f32.minNumB false true) m
  let ex := fun (v : Nat) => fexp2B false (BitVec.ofNat 32 v)
  let f := if sameValue mx m then 0x3F800000 else ex (f32.subB .rne false m mx)
  let ps := sc.map fun s => ex (f32.subB .rne false s mx)
  let l := ps.foldl (f32.addB .rne false) (f32.mulB .rne false (c.sumAt row).toNat f)
  let cells := (List.range 160).map fun j => (accKey row j, if j < n then toAcc (ps.getD j 0) else 0#56)
  ({ c with acc := tsets zeros c.acc cells, rowMax := tset negInf c.rowMax row (BitVec.ofNat 32 mx),
            rowSum := tset zeros c.rowSum row (BitVec.ofNat 32 l) }, BitVec.ofNat 32 f)

/-- MXZERO on rows 8b to 8e + 7 (R234). -/
def Core.zeroRows (c : Core) (b e : Nat) : Core :=
  let out := fun (r : Nat) => decide (r < 8 * b) || decide (8 * e + 8 ≤ r)
  { c with acc := c.acc.filter (fun q => out (q.1 / 160)), rowMax := c.rowMax.filter (fun q => out q.1),
           rowSum := c.rowSum.filter fun q => out q.1 }

/-- MXRESCALE on its rows (R238). -/
def Core.rescale (c : Core) (rows : List (Nat × Word)) : Core :=
  { c with acc := tsets zeros c.acc (rows.flatMap fun r => (List.range 160).map fun col =>
      (accKey r.1 col, BitVec.ofNat 56 (accMul .e11m44 (c.accAt r.1 col).toNat r.2.toNat))) }

/-- Least and greatest value of an Out integer (R59, R80). -/
def outRange (o : Nat) : Int × Int :=
  if o = 5 then (-128, 127) else if o = 7 then (-8, 7) else (-(2 ^ 31), 2 ^ 31 - 1)

/-- The floating format of an Out code (R75). -/
def outFloat (o : Nat) : FFmt :=
  if o = 1 then .f16 else if o = 2 then .bf16 else if o = 3 then .e4m3 else if o = 4 then .e5m2 else .f32

/-- Bits of an Out element. -/
def outBits (o : Nat) : Nat := if o = 0 then 32 else if o ≤ 2 then 16 else if o = 7 then 4 else 8

/-- Read-out of an accumulator element (R80). -/
def readOut (p : Step) (acc : BitVec 56) : Nat :=
  let range := outRange p.out
  let float : Bool := decide (1 ≤ p.out) && decide (p.out ≤ 4)
  if p.int then
    if float then (outFloat p.out).round p.round p.flush (FVal.ofInt acc.toInt)
    else lowBits (outBits p.out) (max range.1 (min range.2 acc.toInt))
  else if p.out = 0 ∨ float then FFmt.e11m44.convert (outFloat p.out) p.round false p.flush acc.toNat
  else lowBits (outBits p.out) ((FFmt.e11m44.decode acc.toNat).toRange p.round range.1 range.2)

end Sys2Proof.Machine
end

