-- ==== Sys2Proof/Machine/Matrix.lean ====
section
/-!
DEFINITION. Matrix instructions, majors 0x50 to 0x55, and the array queue (R217 to R242).
-/

namespace Sys2Proof.Machine

/-- The matrix trap (R242, R343). -/
def matrixTrap (sub quarter value : Nat) : Report :=
  { Report.plain 8 sub with info0 := BitVec.ofNat 32 quarter, info1 := BitVec.ofNat 32 value }

/-- Issuing quarters with their active lanes, ascending (R225). -/
def Team.quarters (x : Team) : List (Nat × List Nat) :=
  ((List.range 128).map fun q => (q, x.active.filter fun l => l / 8 == q)).filter fun q => !q.2.isEmpty

/-- The vote of lanes on a format word and its check (R77, R226): the first failing trap. -/
def voteTrap (quarter : Nat) (lanes : List Nat) (w : Nat → Word) : Option Report :=
  match lanes with
  | [] => none
  | l :: r =>
    match r.find? fun k => w k != w l with
    | some k => some { Report.plain 6 0 with lane := BitVec.ofNat 32 l, info0 := BitVec.ofNat 32 quarter, info1 := w l,
                                             info2 := BitVec.ofNat 32 k, info3 := w k }
    | none =>
      if fmtCheck (w l) = 0 then none
      else some { Report.plain 7 (fmtCheck (w l)) with info0 := BitVec.ofNat 32 quarter, info1 := w l }

/-- The first trap that issuing quarters meet, by a check per quarter: quarters in ascending order, each with its own checks first. (DEDUCED, log 30.) -/
def quarterTrap (qs : List (Nat × List Nat)) (check : Nat → List Nat → Nat → Option Report) : Option Report :=
  qs.findSome? fun q => check q.1 q.2 (q.2.headD 0)

/-- The six parameter registers of an A span (R222): none when they are there, or are not needed. -/
def Team.paramTrap (x : Team) (a : Field) (w : Word) : Option Report :=
  if bits w 13 12 = 0 then none
  else if 111 < a.toNat + 21 then some (.illegal 2#4)
  else if x.regsN ≤ x.ctx.win + a.toNat + 21 then some (.illegal 11#4)
  else none

/-- The descriptor and the row block of a quarter (R224, R225, R242). -/
def descTrap (sparse : Bool) (b q : Nat) (d w : Word) : Option Report :=
  let e := elemsOf (bits w 3 0) * (if sparse then 2 else 1)
  if bits d 31 25 ≠ 0 then some (matrixTrap 1 q d.toNat)
  else if 15 < b + q then some (matrixTrap 2 q (b + q))
  else if e < bits d 23 16 ∨ (sparse ∧ bits d 7 0 = 255) then some (matrixTrap 3 q d.toNat)
  else none

/-- What a read of n bytes of a destination meets (R197): a failed landing first, then a watermark to wait for. -/
def State.landingSpan (s : State) (dest : Dest) (a n : Nat) : Option (Nat × Option Nat) :=
  if !s.ranges.any (fun r => r.2.dest == dest && decide (r.2.start < a + n) && decide (a < r.2.start + r.2.len)) then none
  else
    let bytes := (List.range n).map (a + ·)
    (bytes.findSome? fun i => match s.landingLoad dest i with
      | .fault id => some (i, some id)
      | _ => none).orElse fun _ =>
    (bytes.find? fun i => s.landingLoad dest i == .wait).map fun i => (i, none)

/-- A matrix read of spans, each for a lane, goes on once no landing holds it; a failed landing is reported for the first lane that
meets one (R179, R197, R203, R228). -/
def withLanded (s : State) (spans : List (Nat × Dest × Nat × Nat)) (k : Act) : Act :=
  let met := spans.filterMap fun q => (s.landingSpan q.2.1 q.2.2.1 q.2.2.2).map fun m => (q.1, q.2.1, m)
  match met.findSome? fun m => m.2.2.2.map fun id => (m.1, m.2.2.1, id) with
  | some (lane, a, id) => .trap (s.landingReport lane a id)
  | none => match met with
    | (_, dest, a, _) :: _ => .wait (.landing dest [a]) s
    | [] => k

/-- The B bytes of a step: its step or two, and its parameter step (R228). -/
def bSpans (core : Nat) (sparse : Bool) (p : Step) : List (Dest × Nat × Nat) :=
  (.bst core, 10240 * p.bstep, if sparse then 20480 else 10240)
    :: (if p.group = 0 then [] else [(.bst core, 10240 * p.pstep, 10240)])

/-- Operations put at the end of a core's queue (R229). -/
def State.enqueue (s : State) (core : Nat) (ops : List ArrayOp) : State :=
  s.putCore core { s.core core with queue := (s.core core).queue ++ ops }

/-- A pass of MMC waits on a core for its A rows (R241). -/
def State.awaitRows (s : State) (core : Nat) (o : ArrayOp) : State :=
  s.putCore core { s.core core with arriving := (s.core core).arriving ++ [o] }

/-- An instruction enters the array queue: its operations, the registers it will write, its flag (R43, R93, R229). -/
def State.queued (s : State) (t : Nat) (x : Team) (kinds : List ArrayKind) (regs : List Nat) : State :=
  let p := s.take
  let ref := OpRef.array p.1
  let since := (p.2.core x.core).blog.length
  let s := p.2.enqueue x.core (kinds.map fun k => { op := p.1, team := t, pc := x.pcOff.setWidth 32, kind := k, since := since })
  let y := x.attach ref
  let reads := kinds.any fun k => match k with
    | .mm _ _ _ _ _ _ => true
    | _ => false
  s.putTeam t { y with pendRegs := y.pendRegs ++ regs.map fun r => ⟨r, ref⟩, spans := if reads then y.spans ++ [p.1] else y.spans }

/-- Rows of a quarter: accumulator row and lane (R225). -/
def quarterRows (b q : Nat) (lanes : List Nat) : List (Nat × Nat) := lanes.map fun l => (8 * (b + q) + l % 8, l)

/-- A row of A at issue (R230): its words, and the earlier values of those whose load may not have returned. (DEDUCED, log 22.) -/
def Team.mmRow (x : Team) (base n : Nat) (md : Option Nat) (r : Nat × Nat) : MmRow :=
  { row := r.1, lane := r.2, words := (List.range n).map fun i => x.reg (base + i) r.2,
    early := (List.range n).map fun i => x.inFlight.findSome? fun ld =>
      (ld.find? fun c => c.1 == (base + i) * 1024 + r.2).map (·.2),
    mdata := match md with
      | some j => (List.range 16).map fun i => x.mdWord ((j + i) % 16) r.2
      | none => [] }

/-- Quarters with equal descriptors and format words, in the order of the lowest (R227). -/
def fuse : List (Word × Word × List MmRow) → List (Word × Word × List MmRow)
  | [] => []
  | (d, w, r) :: rest =>
    let more := fuse rest
    match more.find? fun q => q.1 == d && q.2.1 == w with
    | some q => (d, w, r ++ q.2.2) :: more.filter fun q => !(q.1 == d && q.2.1 == w)
    | none => (d, w, r) :: more

/-- MMQ and MMQS (R222 to R228): j is the first metadata register of MMQS. -/
def mmBody (b a v : Field) (j : Option Nat) : Body := fun t x s =>
  if x.mz then .next s else
  let sparse := j.isSome
  let desc := fun l => x.rd 0 v 0 l
  let fmt := fun l => x.rd 0 v 1 l
  let qs := x.quarters
  match (quarterTrap qs fun q ls _ => voteTrap q ls fmt).orElse fun _ =>
      (quarterTrap qs fun _ _ l => x.paramTrap a (fmt l)).orElse fun _ =>
      quarterTrap qs fun q _ l => descTrap sparse b.toNat q (desc l) (fmt l) with
  | some r => .trap r
  | none =>
    withLanded s
      (qs.flatMap fun q => let l := q.2.headD 0; (bSpans x.core sparse (stepOf sparse (desc l) (fmt l))).map fun b => (l, b)) <|
    let base := x.ctx.win + a.toNat
    let sets := fuse (qs.map fun q =>
      let l := q.2.headD 0
      (desc l, fmt l, (quarterRows b.toNat q.1 q.2).map (x.mmRow base (if bits (fmt l) 13 12 = 0 then 16 else 22) j)))
    .next (s.queued t x (sets.map fun p => .mm p.1 p.2.1 base sparse p.2.2 x.spanLog.length) [])

/-- MMQ (R228). -/
def execMmq (b a v : Field) (s : State) : Out := issue (.mmq b a v) s (mmBody b a v none)

/-- MMQS (R228). -/
def execMmqs (j : BitVec 4) (b a v : Field) (s : State) : Out :=
  issue (.mmqs j b a v) s (mmBody b a v (some j.toNat))

/-- Core (y, x) of a cluster's rectangle. -/
def Cluster.coreAt (c : Cluster) (y x : Nat) : Nat := rectCore c.die c.x0 c.y0 c.width (y * c.width + x)

/-- The space of MMC's A rows for core row y, and the bytes that bound it (R241). -/
def State.mmcSpace (s : State) (x : Team) (c : Cluster) (a : Word) (y : Nat) : Dest × Nat :=
  if a.getLsbD 31 then (.sh x.cluster (c.coreAt y 0), s.sharedOf x.launch) else (.sp (dieOf x.core), Config.scratchBytes)

/-- A byte of an A row of MMC as it stands (R241). (DEDUCED, log 24.) -/
def State.aByte (s : State) : Dest → Nat → Byte
  | .sp d, a => s.spLatest d a
  | .sh k c, a => s.shLatest k c a
  | _, _ => 0#8

/-- A storage error under MMC's A bytes (R365): where it lies decides the subcode. (DEDUCED, log 24.) -/
def State.aBad (s : State) (dest : Dest) (a n : Nat) : Option Nat :=
  match dest with
  | .sp d => if s.spBad d a n then some 3 else none
  | .sh k c => if s.shBad k c a n then some 2 else none
  | _ => none

/-- MMC (R241): one pass on each core of the rectangle. (DEDUCED, log 24.) -/
def execMmc (b a v : Field) (s : State) : Out :=
  issue (.mmc b a v) s fun t x s =>
    if x.mz then .next s else
    match aget s.clusters x.cluster with
    | none => .next s
    | some c =>
      let spots := (List.range c.height).flatMap fun y => (List.range c.width).map fun i => (y, c.coreAt y i)
      if spots.any fun q => (s.core q.2).owner != some x.launch then .wait (.owner (spots.map (·.2))) s else
      let l := x.first.getD 0
      let aw := x.rd 0 a 0 l
      let stride := (x.rd 0 a 1 l).toNat
      let d := x.rd 0 v 0 l
      let w := x.rd 0 v 1 l
      let p := stepOf false d w
      let rowLen := if p.group = 0 then 64 else 88
      let nr := 8 * (16 - b.toNat)
      let addr := bits aw 26 0
      let team := 2 ^ 32 - 1
      let top := addr + (c.height * nr - 1) * stride + rowLen
      match voteTrap team x.active fun k => x.rd 0 v 1 k with
      | some r => .trap r
      | none =>
        if bits d 31 25 ≠ 0 then .trap (matrixTrap 1 team d.toNat)
        else if bits aw 30 27 ≠ 0 then .trap (matrixTrap 1 team aw.toNat)
        else if p.elems < bits d 23 16 then .trap (matrixTrap 3 team d.toNat)
        else if stride % 8 ≠ 0 ∨ stride < rowLen then .trap (matrixTrap 6 team stride)
        else if (s.mmcSpace x c aw 0).2 < top then .trap (matrixTrap 6 team aw.toNat)
        else
          let rowsOf := fun (y : Nat) => (List.range nr).map fun i => (8 * b.toNat + i, addr + (y * nr + i) * stride)
          let aspans := (List.range c.height).flatMap fun y => (rowsOf y).map fun r => ((s.mmcSpace x c aw y).1, r.2, rowLen)
          withLanded s ((aspans ++ spots.flatMap fun q => bSpans q.2 false p).map fun b => (l, b)) <|
          match aspans.findSome? fun q => (s.aBad q.1 q.2.1 q.2.2).map fun n => (n, q.2.1) with
          | some (sub, at_) => .trap { Report.plain 19 sub with lane := BitVec.ofNat 32 l, info0 := BitVec.ofNat 32 at_ }
          | none =>
            let q := s.take
            let s' := spots.foldl (fun (z : State) k =>
              let row := (List.range c.width).map fun i => c.coreAt k.1 i
              z.awaitRows k.2
                { op := q.1, team := t, pc := x.pcOff.setWidth 32, since := (z.core k.2).blog.length,
                  kind := .mmc d w (s.mmcSpace x c aw k.1).1 row ((rowsOf k.1).map fun r => (r.1, r.2, List.replicate rowLen none)) }) q.2
            .next (s'.putTeam t (x.attach (.array q.1)))

/-- MXFENCE (R233): pending register writes have been made (Team.pending waits for them), loads have returned, earlier stores
are published. -/
def execMxfence (s : State) : Out :=
  issue .mxfence s fun t x s =>
    withDusk t x s fun s => .next (s.putTeam t { x with inFlight := [] })

/-- MXZERO (R234). -/
def execMxzero (b e : Field) (s : State) : Out :=
  issue (.mxzero b e) s fun t x s =>
    if x.mz then .next s
    else if e.toNat < b.toNat then .trap (matrixTrap 2 (2 ^ 32 - 1) (b.toNat + 256 * e.toNat))
    else .next (s.queued t x [.zero b.toNat e.toNat] [])

/-- Out elements per register of MXREAD (R234). -/
def perReg (w : Word) : Nat := 32 / outBits (bits w 11 8)

/-- Row block and column start of a quarter (R225, R234, R242). -/
def columnTrap (b q start n : Nat) : Option Report :=
  if 15 < b + q then some (matrixTrap 2 q (b + q))
  else if start % (4 * n) ≠ 0 ∨ 160 < start + 4 * n then some (matrixTrap 4 q start)
  else none

/-- The values that word i of a row of A may have for a pass (R230): the one that an early read has seen; else the value at issue, the value before
a load that was pending then, and every value written since. log: what was written since, as (register × 1024 + lane, value). (DEDUCED, log 22.) -/
def MmRow.values (r : MmRow) (log : List (Nat × Word)) (base i : Nat) : List Word :=
  match aget r.fixed i with
  | some w => [w]
  | none => (r.words.getD i 0#32 :: (r.early.getD i none).toList
      ++ (log.filter fun c => c.1 == (base + i) * 1024 + r.lane).map (·.2)).eraseDups

/-- Words of a row of A are read (R230): each is from now on the one that a free choice gives. (DEDUCED, log 22.) -/
def State.fixWords (s : State) (log : List (Nat × Word)) (base : Nat) (is : List Nat) (r : MmRow) : MmRow × State :=
  is.foldl (fun p i =>
    let vs := p.1.values log base i
    let k := p.2.choose vs.length
    ({ p.1 with fixed := aput p.1.fixed i (vs.getD k.1 0#32) }, k.2)) (r, s)

/-- The words of a row of A that the first n blocks of a step read (R222, R228). (DEDUCED, log 22.) -/
def Step.aWords (p : Step) (sparse : Bool) (n len : Nat) : List Nat :=
  (List.range len).filter fun i => decide (16 ≤ i) || decide (i < n * elemBits p.a / (if sparse then 4 else 2))

/-- The row of A that the pass of a quarter reads, once its words are. (DEDUCED, log 22.) -/
def MmRow.toRow (r : MmRow) (sparse : Bool) : ARow :=
  ⟨r.row, wordByte ((List.range r.words.length).map fun i => (aget r.fixed i).getD (r.words.getD i 0#32)),
    if sparse then some r.mdata else none⟩

/-- The step of a pass, and its rows of A. (DEDUCED, log 22.) -/
def ArrayOp.pass? (o : ArrayOp) : Option (Step × List ARow) :=
  match o.kind with
  | .mm d w _ sparse rows _ => some (stepOf sparse d w, rows.map (·.toRow sparse))
  | .mmc d w _ _ rows => some (stepOf false d w, rows.map fun r => ⟨r.1, listByte (r.2.2.map (·.getD 0#8)), none⟩)
  | _ => none

/-- A byte of the B store as it was at a moment of the core's B log (R232). -/
def Core.bAt (c : Core) (m a : Nat) : Byte :=
  match (c.blog.drop m).flatten.find? (·.1 == a) with
  | some q => q.2
  | none => tget zeros c.bst a

/-- The offsets of the element that holds a B byte of a step (R219, R223, R232): pairs for the 16-bit formats and for scales. -/
def Step.elemAt (p : Step) (a : Nat) : List Nat :=
  let scale := p.group ≠ 0 ∧ a / 10240 = p.pstep ∧ a % 64 < 16
  if scale ∨ elemBits p.b = 16 then [a / 2 * 2, a / 2 * 2 + 1] else [a]

/-- The first n blocks of a step read a B byte, for a column or, with none, for every one (R219, R228). -/
def Step.readsB (p : Step) (sparse : Bool) (col : Option Nat) (n a : Nat) : Bool :=
  let t := a / 10240
  let k := (t - p.bstep) * elemsOf p.b + a % 64 * 8 / elemBits p.b
  col.all (· == a % 10240 / 64)
    && ((decide (p.bstep ≤ t) && decide (t ≤ p.bstep + (if sparse then 1 else 0)) && decide (k < 16 * n)) || (p.group != 0 && t == p.pstep))

/-- B bytes of a pass are read: each element that a copy has landed in since its issue is from now on the value at issue or one that
landed, by a free choice (R232); an early read of its column stands for the landings behind it. (DEDUCED, log 23.) -/
def State.fixB (s : State) (c : Core) (p : Step) (sparse : Bool) (col : Option Nat) (n : Nat) (o : ArrayOp) : ArrayOp × State :=
  let new := (c.blog.drop o.since).flatten.filter fun q => p.readsB sparse col n q.1 && (aget o.seen q.1).isNone
  let last := fun (a : Nat) => (o.looks.filter fun l => p.readsB sparse (some l.1) l.2.1 a).foldl (fun m l => min m l.2.2) c.blog.length
  let q := ((new.map fun q => p.elemAt q.1).eraseDups).foldl (fun (z : List (Nat × Byte) × State) e =>
    let k := z.2.choose (last (e.headD 0) - o.since + 1)
    (e.foldl (fun t a => if (aget o.seen a).isSome then t else aput t a (c.bAt (o.since + k.1) a)) z.1, k.2)) (o.seen, s)
  ({ o with seen := q.1, looks := o.looks ++ (col.map fun k => (k, n, c.blog.length)).toList }, q.2)

/-- What the first n blocks of a pass read on a row, or with none on every one, for a column or every one, is read (R230 to R232). (DEDUCED, log 22.) (DEDUCED, log 23.) -/
def State.fixPass (s : State) (c : Core) (o : ArrayOp) (row col : Option Nat) (n : Nat) : ArrayOp × State :=
  match o.kind with
  | .mm d w base sparse rows log =>
    let p := stepOf sparse d w
    let later := (((aget s.teams o.team).map (·.spanLog)).getD []).drop log
    let q := rows.foldl (fun (z : List MmRow × State) r =>
      if row.all (· == r.row) then
        let f := z.2.fixWords later base (p.aWords sparse n r.words.length) r
        (z.1 ++ [f.1], f.2)
      else (z.1 ++ [r], z.2)) ([], s)
    q.2.fixB c p sparse col n { o with kind := .mm d w base sparse q.1 log }
  | .mmc d w _ _ _ => s.fixB c (stepOf false d w) false col n o
  | _ => (o, s)

/-- The core with the B store as a pass has read it. (DEDUCED, log 23.) -/
def Core.viewB (c : Core) (o : ArrayOp) : Core := { c with bst := tsets zeros c.bst o.seen }

/-- A pass on its rows, with what it has read; the B store itself stays (R228, R230, R232). (DEDUCED, log 23.) -/
def Core.passAs (c : Core) (o : ArrayOp) (p : Step) (rows : List ARow) : Core := { (c.viewB o).pass p rows with bst := c.bst }

/-- A pass of the queue (R228): what it has not read yet it reads now. -/
def State.passWork (s : State) (c : Core) (o : ArrayOp) : Core × State :=
  let f := s.fixPass c o none none 64
  match f.1.pass? with
  | some (p, rows) => (c.passAs f.1 p rows, f.2)
  | none => (c, f.2)

/-- What an operation of the queue does to its core (R228, R234, R236 to R238): the core, the registers written (register,
lane, value) and the state. -/
def State.arrayWork (s : State) (c : Core) (o : ArrayOp) : Core × List (Nat × Nat × Word) × State :=
  match o.kind with
  | .mm _ _ _ _ _ _ => let w := s.passWork c o; (w.1, [], w.2)
  | .mmc _ _ _ _ _ => let w := s.passWork c o; (w.1, [], w.2)
  | .zero b e => (c.zeroRows b e, [], s)
  | .write cells => ({ c with acc := tsets zeros c.acc cells }, [], s)
  | .smax rows scale n reg =>
    let q := rows.foldl (fun (p : Core × List (Nat × Nat × Word)) r =>
      let k := p.1.softmax r.1 scale n
      (k.1, p.2 ++ [(reg, r.2, k.2)])) (c, [])
    (q.1, q.2, s)
  | .rescale rows => (c.rescale rows, [], s)
  | .sum rows reg => (c, rows.flatMap fun r => [(reg, r.2, c.sumAt r.1), (reg + 1, r.2, c.maxAt r.1)], s)

/-- A queued MXSMAX, which needs whole rows. -/
def ArrayOp.wholeRow (o : ArrayOp) : Bool :=
  match o.kind with
  | .smax _ _ _ _ => true
  | _ => false

/-- The operation at a place of a core's queue changed. (DEDUCED, log 23.) -/
def State.putOp (s : State) (core i : Nat) (o : ArrayOp) : State :=
  s.putCore core { s.core core with queue := (s.core core).queue.set i o }

/-- An element as an early read sees it (R231): behind a free number of the outstanding operations of its row, and of the
blocks of the next; what these blocks read of A and B the pass reads too. Of an operation that it passes, the element is followed, or, where an
MXSMAX still comes, the row. The operations from place i of the core's queue on are looked at. (DEDUCED, log 23.) -/
def State.earlyElem (s : State) (core row col i : Nat) : List ArrayOp → Core → BitVec 56 × State
  | [], c => (c.accAt row col, s)
  | o :: r, c =>
    match o.pass? with
    | some (p, rows) =>
      if !rows.any (·.row == row) then s.earlyElem core row col (i + 1) r c else
      let k := s.choose (p.blocks + 1)
      if k.1 = 0 then (c.accAt row col, k.2) else
      let whole := k.1 == p.blocks && r.any ArrayOp.wholeRow
      let f := k.2.fixPass c o (some row) (if whole then none else some col) k.1
      let s := f.2.putOp core i f.1
      match f.1.pass?.bind fun q => q.2.find? (·.row == row) with
      | none => (c.accAt row col, s)
      | some a =>
        let v := (c.viewB f.1).passElem p a k.1 col (c.accAt row col)
        if k.1 < p.blocks then (v, s)
        else if whole then s.earlyElem core row col (i + 1) r (c.passAs f.1 p [a])
        else s.earlyElem core row col (i + 1) r { c with acc := tset zeros c.acc (accKey row col) v }
    | none =>
      let w := s.arrayWork c o
      if w.1.accAt row col == c.accAt row col then w.2.2.earlyElem core row col (i + 1) r w.1
      else
        let k := w.2.2.choose 2
        if k.1 = 0 then (c.accAt row col, k.2) else k.2.earlyElem core row col (i + 1) r w.1

/-- Register word j of a lane's read-out: the converted elements of columns from a start on, packed (R5, R235). (DEDUCED, log 23.) -/
def State.readWord (s : State) (core : Nat) (p : Step) (row start per j : Nat) : Word × State :=
  (List.range per).foldl (fun q i =>
    let e := q.2.earlyElem core row (start + per * j + i) 0 (q.2.core core).queue (q.2.core core)
    (q.1 ||| BitVec.ofNat 32 (readOut p e.1 * 2 ^ (32 / per * i)), e.2)) (0#32, s)

/-- The read-out of every lane: four words each. (DEDUCED, log 23.) -/
def State.readRows (s : State) (core : Nat) (fmt : Nat → Word) (start : Nat → Nat) (rows : List (Nat × Nat × Nat)) :
    List (Nat × List Word) × State :=
  rows.foldl (fun q r =>
    let w := fmt r.2.2
    let ws := (List.range 4).foldl (fun (k : List Word × State) j =>
      let v := k.2.readWord core (stepOf false 0#32 w) r.1 (start r.2.2) (perReg w) j
      (k.1 ++ [v.1], v.2)) ([], q.2)
    (q.1 ++ [(r.2.1, ws.1)], ws.2)) ([], s)

/-- MXREAD (R231, R235). (DEDUCED, log 23.) (DEDUCED, log 31.) -/
def execMxread (d b v : Field) (s : State) : Out :=
  issue (.mxread d b v) s fun t x s =>
    if x.mz then .next s else
    let start := fun l => (x.rd 0 v 0 l).toNat
    let fmt := fun l => x.rd 0 v 1 l
    let qs := x.quarters
    match (quarterTrap qs fun q ls _ => voteTrap q ls fmt).orElse fun _ =>
        quarterTrap qs fun q _ l => columnTrap b.toNat q (start l) (perReg (fmt l)) with
    | some r => .trap r
    | none =>
      let rows := qs.flatMap fun q => (quarterRows b.toNat q.1 q.2).map fun r => (r.1, r.2, q.2.headD 0)
      let out := s.readRows x.core fmt start rows
      let word := fun (i l : Nat) => (((out.1.find? (·.1 == l)).map (·.2)).getD []).getD i 0#32
      .next (out.2.putTeam t (x.results d 4 word))

/-- MXWRITE (R236). -/
def execMxwrite (b a v : Field) (s : State) : Out :=
  issue (.mxwrite b a v) s fun t x s =>
    if x.mz then .next s else
    let start := fun l => (x.rd 0 v 0 l).toNat
    let fmt := fun l => x.rd 0 v 1 l
    let qs := x.quarters
    match (quarterTrap qs fun q ls _ => voteTrap q ls fmt).orElse fun _ =>
        quarterTrap qs fun q _ l => columnTrap b.toNat q (start l) 1 with
    | some r => .trap r
    | none =>
      let kinds := qs.map fun q =>
        let l := q.2.headD 0
        let whole := (stepOf false 0#32 (fmt l)).int
        ArrayKind.write ((quarterRows b.toNat q.1 q.2).flatMap fun r => (List.range 4).map fun i =>
          let w := x.rd 0 a i r.2
          (accKey r.1 (start l + i), if whole then w.signExtend 56 else toAcc w.toNat))
      .next (s.queued t x kinds [])

/-- Row blocks of the issuing quarters (R225). -/
def blockTrap (b : Nat) (q : Nat) : Option Report := if 15 < b + q then some (matrixTrap 2 q (b + q)) else none

/-- MXSMAX (R237). -/
def execMxsmax (d b v : Field) (s : State) : Out :=
  issue (.mxsmax d b v) s fun t x s =>
    if x.mz then .next s else
    let n := fun l => (x.rd 0 v 1 l).toNat
    let qs := x.quarters
    match quarterTrap qs fun q _ l => (blockTrap b.toNat q).orElse fun _ =>
        if n l = 0 ∨ 160 < n l then some (matrixTrap 4 q (n l)) else none with
    | some r => .trap r
    | none =>
      let reg := (x.regNo d 0).getD 511
      .next (s.queued t x (qs.map fun q => .smax (quarterRows b.toNat q.1 q.2) (x.rd 0 v 0 (q.2.headD 0)) (n (q.2.headD 0)) reg)
        [reg])

/-- MXRESCALE (R238). -/
def execMxrescale (b v : Field) (s : State) : Out :=
  issue (.mxrescale b v) s fun t x s =>
    if x.mz then .next s else
    match quarterTrap x.quarters fun q _ _ => blockTrap b.toNat q with
    | some r => .trap r
    | none =>
      .next (s.queued t x (x.quarters.map fun q =>
        .rescale ((quarterRows b.toNat q.1 q.2).map fun r => (r.1, x.rd 0 v 0 r.2))) [])

/-- MXSUM (R238). -/
def execMxsum (d b : Field) (s : State) : Out :=
  issue (.mxsum d b) s fun t x s =>
    if x.mz then .next s else
    match quarterTrap x.quarters fun q _ _ => blockTrap b.toNat q with
    | some r => .trap r
    | none =>
      let reg := (x.regNo d 0).getD 511
      .next (s.queued t x (x.quarters.map fun q => .sum (quarterRows b.toNat q.1 q.2) reg) [reg, reg + 1])

/-- Registers that an array operation writes in a team (R93, R237, R238). -/
def Team.arrayWrite (x : Team) (cells : List (Nat × Nat × Word)) : Team :=
  cells.foldl (fun x c =>
    if c.1 < 256 then x.putRegs [(c.1 * 1024 + c.2.1, c.2.2)]
    else if c.1 < 264 then x.putOfile [((c.1 - 256) * 1024 + c.2.1, c.2.2)]
    else x) x

/-- The B log of a core is dropped with its last outstanding operation (R232). -/
def Core.idleLog (c : Core) : Core := if c.queue.isEmpty && c.arriving.isEmpty then { c with blog := [] } else c

/-- An outstanding MMQ or MMQS of a team is complete (R230): its registers are watched no more. -/
def Team.spanDone (x : Team) (op : Nat) : Team :=
  let left := x.spans.filter (· != op)
  { x with spans := left, spanLog := if left.isEmpty then [] else x.spanLog }

/-- An instruction of the array queue is complete once none of its operations is left (R229, R241). -/
def State.arrayDone (s : State) (t op : Nat) : State :=
  if s.cores.any fun c => (c.2.queue ++ c.2.arriving).any (·.op == op) then s else
  let s := match aget s.teams t with
    | some x => s.putTeam t (x.spanDone op)
    | none => s
  s.complete (.array op)

/-- The operation at the head of a core's queue is performed (R229). A storage error ends the owner's launch (R365).
(DESIGN CHOICE, log 15.) -/
def State.arrayHead (s : State) (core : Nat) (o : ArrayOp) (rest : List ArrayOp) : State :=
  let c := s.core core
  if s.errors.contains (.array core) then
    match c.owner with
    | some l => s.abortLaunch l 0x1305#32 o.pc
    | none => s
  else
    let w := s.arrayWork c o
    let s := w.2.2.putCore core { w.1 with queue := rest }.idleLog
    let s := match aget s.teams o.team with
      | some x => s.putTeam o.team (x.arrayWrite w.2.1)
      | none => s
    s.arrayDone o.team o.op

/-- A row of A with some more of its bytes read (R241): each byte that has not been read is read now or later, by a free choice. -/
def readMore (byte : Nat → Byte) (fresh : Nat) (all : Bool) (r : Nat × Nat × List (Option Byte)) : Nat × Nat × List (Option Byte) :=
  (r.1, r.2.1, (List.range r.2.2.length).map fun i => match r.2.2.getD i none with
    | some b => some b
    | none => if all || Config.freeNat (fresh + i) % 2 == 1 then some (byte (r.2.1 + i)) else none)

/-- Every byte of the rows has been read. -/
def rowsRead (rows : List (Nat × Nat × List (Option Byte))) : Bool := rows.all fun r => r.2.2.all Option.isSome

/-- A pass of MMC that waits on a core (R241): on the first core of its row more A bytes are read, at least those of one row; the rows
that have been read reach every core of the row; a pass whose rows are there enters the queue. (DEDUCED, log 24.) -/
def State.arriveMore (s : State) (core i : Nat) : State :=
  let c := s.core core
  match c.arriving[i]? with
  | none => s
  | some o => match o.kind with
    | .mmc d w src cores rows =>
      if rowsRead rows then s.putCore core { c with arriving := c.arriving.eraseIdx i, queue := c.queue ++ [o] }
      else if cores.head? != some core then s
      else
        let first := rows.findIdx fun r => !r.2.2.all Option.isSome
        let rows := rows.mapIdx fun k r => readMore (s.aByte src) (s.fresh + 128 * k) (k == first) r
        let s := { s with fresh := s.fresh + 16384 }
        let put := fun (p : ArrayOp) => if p.op == o.op then { p with kind := .mmc d w src cores rows } else p
        (if rowsRead rows then cores else [core]).foldl (fun (s : State) n =>
          s.putCore n { s.core n with arriving := (s.core n).arriving.map put }) s
    | _ => s

/-- A pass of MMC on a core can go on (R241): this core reads its rows, or they are there. -/
def ArrayOp.movable (o : ArrayOp) (core : Nat) : Bool :=
  match o.kind with
  | .mmc _ _ _ cores rows => cores.head? == some core || rowsRead rows
  | _ => false

/-- Passes of MMC on a core that can go on, by their place in the list. -/
def Core.movable (c : Core) (core : Nat) : List Nat :=
  (List.range c.arriving.length).filter fun i => (c.arriving[i]?).any (·.movable core)

/-- ARRAY_PASS (R229, R241): the operation at the head of a core's queue is performed, or a pass of MMC goes on toward the queue; which
of them is a free choice. (DEDUCED, log 24.) (DESIGN CHOICE, log 15.) -/
def execArrayPass (core : Nat) (s : State) : Out :=
  let c := s.core core
  let moves := c.movable core
  let k := s.choose (moves.length + if c.queue.isEmpty then 0 else 1)
  ofEvent (match moves[k.1]? with
    | some i => some (k.2.arriveMore core i)
    | none => match c.queue with
      | [] => none
      | o :: rest => some (k.2.arrayHead core o rest))

/-- Rank of an element's magnitude (R239): NaN, then infinity, then finite values; the finite ones in units of 2^-140. -/
def magnitude (code n : Nat) : Nat × Nat :=
  if 5 ≤ code then (0, (elemInt code n).natAbs) else
  match elemVal code n 0 with
  | .nan _ _ => (2, 0)
  | .inf _ => (1, 0)
  | .fin _ m e => (0, m * 2 ^ (e + 140).toNat)

/-- Element i is among the four that SPCMP keeps (R239): fewer than four rank above it. -/
def kept (code : Nat) (es : List Nat) (i : Nat) : Bool :=
  let r := magnitude code (es.getD i 0)
  let over_ := (List.range es.length).filter fun j =>
    let q := magnitude code (es.getD j 0)
    decide (r.1 < q.1) || (r.1 == q.1 && (decide (r.2 < q.2) || (r.2 == q.2 && decide (j < i))))
  decide (over_.length < 4)

/-- SPCMP in one lane (R239): the kept-value words, then the metadata word. -/
def spcmpWords (code : Nat) (es : List Nat) : List Word :=
  let idx := (List.range 8).filter (kept code es)
  let z := elemBits code
  let packed := (List.range idx.length).foldl (fun n j => n + es.getD (idx.getD j 0) 0 * 2 ^ (z * j)) 0
  let md := (List.range idx.length).foldl (fun n j => n + idx.getD j 0 * 2 ^ (3 * j)) 0
  (List.range ((z + 7) / 8)).map (fun i => BitVec.ofNat 32 (packed / 2 ^ (32 * i))) ++ [BitVec.ofNat 32 md]

/-- SPCMP (R239). -/
def execSpcmp (d a v : Field) (s : State) : Out :=
  issue (.spcmp d a v) s fun t x s =>
    let code := fun l => (x.rd 0 v 0 l &&& 15#32).toNat
    match x.active.find? fun l => (spcmpSpan (code l)).isNone with
      | some l => .trap { matrixTrap 5 (l / 8) (x.rd 0 v 0 l).toNat with lane := BitVec.ofNat 32 l }
      | none =>
        let es := fun l =>
          let z := elemBits (code l)
          (List.range 8).map fun i => (x.rd 0 a (z * i / 32) l).toNat / 2 ^ (z * i % 32) % 2 ^ z
        let ws := fun l => spcmpWords (code l) (es l)
        let wide := x.active.filter fun l => code l ≤ 2
        let narrow := x.active.filter fun l => !(code l ≤ 2)
        let y := x.wrs wide d (fun i l => (ws l).getD i 0#32) 3
        let y := y.wrs narrow d (fun i l => (ws l).getD i 0#32) 2
        .next (s.putTeam t (y.shift fun l => y.rd 0 d 0 l))

/-- A field of a metadata word is well formed (R240). -/
def fieldOk (h : Nat) : Bool :=
  let i := fun t => h / 2 ^ (3 * t) % 8
  h / 4096 % 16 == 0 && decide (i 0 < i 1) && decide (i 1 < i 2) && decide (i 2 < i 3)

/-- The malformed-metadata fault of a lane (R240, R343). -/
def metaFault (k l : Nat) (w : Word) : Option Report :=
  let r := fun (half : Nat) => ({ cause := 9#8, lane := BitVec.ofNat 32 l, info0 := BitVec.ofNat 32 k, info1 := BitVec.ofNat 32 half, info2 := w } : Report)
  if !fieldOk (w.toNat % 65536) then some (r 0) else if !fieldOk (w.toNat / 65536) then some (r 1) else none

/-- MDLOAD (R240). -/
def execMdload (k a : Field) (s : State) : Out :=
  issue (.mdload k a) s fun t x s =>
    match x.active.findSome? fun l => metaFault k.toNat l (x.rd 0 a 0 l) with
    | some r => .trap r
    | none => .next (s.putTeam t (x.putMeta x.active k.toNat fun l => x.rd 0 a 0 l))

/-- MDREAD (R240). -/
def execMdread (d k : Field) (s : State) : Out :=
  issue (.mdread d k) s fun t x s => .next (s.putTeam t (x.result d (x.mdWord k.toNat)))

end Sys2Proof.Machine
end

