-- ==== Sys2Proof/Machine/System.lean ====
section
/-!
DEFINITION. The system class, majors 0x6C to 0x6E, and the events of a team's traps and captures (R343 to R351, R356, R357, R363,
R366, R417).
-/

namespace Sys2Proof.Machine

/-- The system trap (R417). (DEDUCED, log 30.) -/
def systemTrap (sub : Nat) (v : Word) : Act := .trap { Report.plain 17 sub with info0 := v }

/-- TRAP (R347). -/
def execTrap (a : Field) (s : State) : Out :=
  issue (.trap a) s fun _ x _ => .trap { Report.plain 18 0 with info0 := x.rdFirst 0 a }

/-- TRET (R348): a transfer to a clause header needs its clause (R417). -/
def execTret (m : Field) (s : State) : Out :=
  issue (.tret m) s fun t x s =>
    if !x.trap.inTrap then systemTrap 3 0#32 else
    let y := (x.retire 0).trapReturn m.toNat
    if y.started then .done ((s.putTeam t y).countIssue x.core t)
    else .done (s.retireTo (s.putTeam t (x.trapReturn m.toNat)) t 0 x x.word y.clause false)

/-- TRAP_VECTOR_FETCH_RESUME (R344): the host has answered for the handler's header, and the trap is taken or not. -/
def execTrapVectorFetchResume (team : Nat) (s : State) : Out :=
  ofEvent (match aget s.teams team with
    | none => none
    | some x => match x.park with
      | some (.vector r) =>
        if s.resident team x && s.noFill team && s.itsRotation x.core team then
          some (((s.putTeam team { x with park := none }).enterTrap team r true).turnTaken x.core team)
        else none
      | _ => none)

/-- CKPT (R357): complete once the last capture is wholly written. (DEDUCED, log 26.) -/
def execCkpt (s : State) : Out :=
  issue .ckpt s fun _ x s => if x.capturing then .wait .capture s else .next s

/-- CHECKPOINT_PLANE_WRITE (R356): the next queued piece of a team's capture goes to image A, or meets a translation fault (R361).
(DEDUCED, log 26.) -/
def execCheckpointPlaneWrite (team : Nat) (s : State) : Out :=
  ofEvent (match aget s.teams team with
    | none => none
    | some x =>
      if !x.capturing || s.imageParked team then none else
      let q := s.captureStep team x
      some (q.1.putTeam team q.2))

/-- EVENT (R366). (DEDUCED, log 31.) (DEDUCED, log 41.) -/
def execEvent (a b : Field) (s : State) : Out :=
  issue (.event a b) s fun t x s =>
    if x.mz then .next s else
    withRelease true t x s fun x s =>
      let n := litCount [a]
      .next (s.sendEvent 9 (s.queueOf x.launch) (s.seqOf x.launch) (x.rdFirst 0 a)
        (x.rdFirst n b 1 ++ x.rdFirst n b 0 : BitVec 64).toNat)

/-- Lines of the stack caches that hold pages of an address space are written back and leave (R163, R363). -/
def State.dropStack (s : State) (root : BitVec 48) (va n : Nat) : State :=
  let gone := fun (l : StackLine) =>
    ((aget s.teams l.team).map fun x => s.rootOf x.launch) == some root
      && (n == 0 || (decide (va ≤ 128 * l.line) && decide (128 * l.line < va + pageBytes * n)))
  let lines := s.cores.flatMap fun c => c.2.stack.filter gone
  let s := lines.foldl (fun s l => s.writeLine l) s
  { s with cores := s.cores.map fun (c : Nat × Core) => (c.1, { c.2 with stack := c.2.stack.filter (!gone ·) }) }

/-- Dropping the translations of n pages of an address space from an address (R363). (DEDUCED, log 10.) -/
def State.invalidate (s : State) (root : BitVec 48) (va n : Nat) : State := (s.dropStack root va n).dropTlb root va n

/-- An address that an invalidation may name (R363): 64 KiB aligned, bits 63:52 zero. -/
def pageStart (va : BitVec 64) : Bool := bits va 15 0 == 0 && bits va 63 52 == 0

/-- An access of an address space that has used a translation in a range has not performed yet: a reduction on its way (R318, R363). (DEDUCED, log 10.) -/
def State.translated (s : State) (root : BitVec 48) (va n : Nat) : Bool :=
  s.packets.any fun p => match p.2.kind with
    | .red _ 0 _ _ _ a _ =>
      p.2.root == root
        && (n == 0 || (decide (va ≤ a.toNat) && decide (a.toNat < va + pageBytes * n)))
    | _ => false

/-- TLBINV (R363): it completes once every access that used a dropped translation has performed. -/
def execTlbinv (a b : Field) (s : State) : Out :=
  issue (.tlbinv a b) s fun _ x s =>
    if x.mz then .next s else
    let va : BitVec 64 := x.rdFirst 0 a 1 ++ x.rdFirst 0 a 0
    let n := (x.rdFirst (litCount [a]) b).toNat
    if !pageStart va then systemTrap 4 (va.setWidth 32)
    else if s.translated (s.rootOf x.launch) va.toNat n then .wait .translations s
    else .next (s.invalidate (s.rootOf x.launch) va.toNat n)

/-- A system register of a team (R349); none for a number that is not assigned. -/
def State.sysReg (s : State) (x : Team) (n : Nat) : Option Word :=
  if n < 12 then x.trap.regs[n]?
  else if n = 12 then some x.ckstat
  else if n = 13 then some (s.core x.core).cerr
  else if n = 14 then some (BitVec.ofNat 32 (s.island (s.islandOf x.core)).mhz)
  else if 16 ≤ n ∧ n < 28 then some (tget zeros s.serr (n - 16))
  else none

/-- SYSRD (R351). -/
def execSysrd (d n : Field) (s : State) : Out :=
  issue (.sysrd d n) s fun t x s =>
    match s.sysReg x n.toNat with
    | none => systemTrap 1 (BitVec.ofNat 32 n.toNat)
    | some v => .next (s.putTeam t (x.uniform d v))

/-- A value that TVEC takes (R351). -/
def State.vectorOk (s : State) (launch : Nat) (v : Word) : Bool := v == 0#32 || s.codeTarget launch v

/-- SYSWR (R351). -/
def execSyswr (a n : Field) (s : State) : Out :=
  issue (.syswr a n) s fun t x s =>
    if x.mz then .next s else
    match s.sysReg x n.toNat with
    | none => systemTrap 1 (BitVec.ofNat 32 n.toNat)
    | some _ =>
      if n ≠ 0#7 then systemTrap 2 (BitVec.ofNat 32 n.toNat) else
      let v := x.rdFirst 0 a
      if s.vectorOk x.launch v then .next (s.putTeam t { x with trap := { x.trap with vec := v } })
      else systemTrap 5 v

end Sys2Proof.Machine
end

