-- ==== Sys2Proof/Machine/Preempt.lean ====
section
/-!
DEFINITION. The queue operations of the management endpoint: answering a fault (R361), invalidating a range (R363), pre-emption and
restoration (R98, R213, R215, R221, R295, R334, R353 to R355).
-/

namespace Sys2Proof.Machine

/-- The copy that owns a range gets a page that is answered unrepairable (R361). -/
def State.denyRange (s : State) (id page : Nat) : State :=
  match aget s.ranges id with
  | none => s
  | some r => match r.owner with
    | .copy core slot => match aget s.copies (core * 1024 + slot) with
      | some c => s.putCopy (core * 1024 + slot) { c with denied := some page }
      | none => s
    | .wave place => match aget s.waves place with
      | some w => s.putWave place { w with denied := some page }
      | none => s

/-- A fill whose page is answered unrepairable fails when it replays (R361). -/
def State.deny (s : State) (f : Fill) : State :=
  match f.who with
  | .team t => match aget s.teams t with
    | some x => s.putTeam t { x with denied := x.denied ++ [f.page] }
    | none => s
  | .image t => match aget s.teams t with
    | some x => s.putTeam t { x with lost := x.lost ++ [f.page] }
    | none => s
  | .save l => match aget s.launches l with
    | some x => s.putLaunch l { x with lost := x.lost ++ [f.page] }
    | none => s
  | .range id => s.denyRange id f.page
  | .wave p => match aget s.waves p with
    | some w => s.putWave p { w with denied := some f.page }
    | none => s
  | .check q => s.putQueue q { s.queue q with denied := some f.page }
  | .message core launch =>
    match (s.messagesFor core).find? (·.launch == launch) with
    | some m => s.takeMsg core m
    | none => s
  | .remote id => { s with remotes := adel s.remotes id }.reply (.error "translation")

/-- A fill replays (R361): a wave and a check wait no more. -/
def State.replay (s : State) (f : Fill) : State :=
  match f.who with
  | .wave p => match aget s.waves p with
    | some w => s.putWave p { w with parked := false }
    | none => s
  | .check q => s.putQueue q { s.queue q with parked := false }
  | .remote id => match aget s.remotes id with
    | some r => State.remoteAccess { s with remotes := adel s.remotes id } id r
    | none => s
  | _ => s

/-- ANSWER_FAULT (R361): every parked fill of the page replays, or fails. -/
def execAnswerFault (queue : Asked) (addr : BitVec 64) (repaired : Bool) (s : State) : Out :=
  .next (match (s.queue queue.queue).cfg with
    | none => s.reply (.error "queue not configured")
    | some cfg =>
      if cfg.requester != queue.who then s.reply (.error "requester") else
      let page := addr.toNat / pageBytes
      if !s.asked.contains (cfg.root, page) then s.reply (.error "no fault") else
      let mine := fun (f : Fill) => f.root == cfg.root && f.page == page
      let fills := s.dies.flatMap fun d => (d.2.faults ++ d.2.waiting).filter mine
      let s := ({ s with asked := s.asked.filter (· != (cfg.root, page)) } : State).dropFills mine
      let s := fills.foldl (fun s f => (if repaired then s else s.deny f).replay f) s
      s.reply (.ok "answer"))

/-- INVALIDATE_RANGE (R363, R369): as TLBINV does, it takes place once every access that used a dropped translation has performed. -/
def execInvalidateRange (queue : Asked) (addr : BitVec 64) (pages : Nat) (s : State) : Out :=
  ofEvent (match (s.queue queue.queue).cfg with
    | none => some (s.reply (.error "queue not configured"))
    | some cfg =>
      if cfg.requester != queue.who then some (s.reply (.error "requester"))
      else if !pageStart addr then some (s.reply (.error "address"))
      else if s.translated cfg.root addr.toNat pages then none
      else some ((s.invalidate cfg.root addr.toNat pages).reply (.ok "invalidate")))

/-- A queue operation comes from the address and job that the queue's configuration names (R369). (DESIGN CHOICE, log 25.) -/
def State.mayAsk (s : State) (q : Asked) : Bool := (s.queue q.queue).cfg.any fun c => c.requester == q.who

/-- The launch of a queue with a sequence number, in a phase. -/
def State.launchAt (s : State) (queue seq : Nat) (p : LaunchPhase) : Option (Nat × Launch) :=
  s.launches.find? fun l => l.2.queue == queue && l.2.seq == seq && l.2.phase == p

/-- Teams of a launch. -/
def State.teamsOf (s : State) (launch : Nat) : List (Nat × Team) := s.teams.filter (·.2.launch == launch)

/-- Clusters of a launch. -/
def State.clustersOf (s : State) (launch : Nat) : List (Nat × Cluster) := s.clusters.filter (·.2.launch == launch)

/-- Cores of a launch's clusters. -/
def State.coresOf (s : State) (launch : Nat) : List Nat :=
  ((s.clustersOf launch).flatMap fun c => c.2.places.map (·.core)).eraseDups

/-- A launch can be pre-empted at this moment (R353): the array queues of the cores that it owns have drained, its reductions have
performed, and a copy or walk that has landed its last byte is complete (R199). (DEDUCED, log 37.) -/
def State.drained (s : State) (launch : Nat) : Bool :=
  let mine := s.teamsOf launch
  (s.coresOf launch).all (fun n => (s.core n).owner != some launch || ((s.core n).queue.isEmpty && (s.core n).arriving.isEmpty))
    && s.packets.all (fun p => match p.2.kind with
      | .red _ _ _ _ _ _ _ => !mine.any (·.1 == p.2.team)
      | _ => true)
    && s.copies.all fun c => !(c.2.launch == launch && c.2.open && c.2.next == c.2.total)

/-- The implicit dusk.die of each team (R177, R353): a core whose teams have all stopped refreshes its snapshot first. None while a
batch waits on a core of another launch. (DEDUCED, log 37.) -/
def State.duskAll (s : State) (launch : Nat) : List (Nat × Team) → Option State
  | [] => some s
  | (t, x) :: r =>
    let s := (s.coresOf launch).foldl (fun s n => if s.othersOn launch n then s else s.dawn n) s
    if s.duskStalls x.core t then none else (s.publishTeam x.core t).duskAll launch r

/-- A token for each barrier that a team references leaves its core as a packet (R213, R323, R340): toward the command processor of
the barrier's die, or on the peer's class. (DESIGN CHOICE, log 43.) -/
def State.tokens (s : State) (t : Nat) (x : Team) (presence : Bool) : State :=
  x.barRefs.foldl (fun s h =>
    let local_ := Endpoint.command (barDie h)
    if barPeer h = 0 then s.sendPacket t x.core local_.router local_ (.token h presence)
    else s.sendPacket t x.core (98 + ((s.peer? x.launch (barPeer h - 1)).map (·.cls)).getD 0) s.anyPort (.token h presence)) s

/-- A part of the save area: bytes at an address, or bytes whose format the spec does not give (R355). (DEDUCED, log 19.) -/
inductive Part
  | bytes (va : Nat) (bs : List Byte)
  | open_ (va n : Nat)

/-- Parts as pieces: bytes of a format that is not given are free values. -/
def pieces : Nat → List Part → List (Nat × List Byte)
  | _, [] => []
  | f, .bytes va bs :: r => (va, bs) :: pieces f r
  | f, .open_ va n :: r => (va, (List.range n).map fun i => BitVec.ofNat 8 (Config.freeNat (f + i))) :: pieces (f + n) r

/-- The area of a core in the save area (R355). -/
def coreArea (save n : Nat) : Nat := save + 2 ^ 22 * n

/-- Parts of the save area of a core whose matrix state the launch owns (R98, R221, R355). -/
def Core.area (c : Core) (save n : Nat) : List Part :=
  let at_ := coreArea save n
  [.bytes at_ ((List.range 20480).flatMap fun i => leBytes 8 (tget zeros c.acc i).toNat),
   .bytes (at_ + 163840) ((List.range 128).flatMap fun r => leBytes 4 (c.maxAt r).toNat ++ leBytes 4 (c.sumAt r).toNat),
   .bytes (at_ + 2 ^ 20) (bytesAt (tget zeros c.bst) 0 Config.bstoreBytes)]
    ++ (if c.rotation.isEmpty then [] else [.open_ (at_ + 196608) 4])

/-- The area of a cluster at a position in the save area (R355). -/
def placeArea (save index pos : Nat) : Nat := save + 2 ^ 30 + 2 ^ 20 * (12 * index + pos)

/-- Parts of the save area of a cluster on one of its cores (R325, R334, R355): shared memory; then rings, spawn queue, copy and walk
slots, locks and unsent packets, whose formats are not given: 256 bytes a ring and a slot, 31 bytes an item, the rest of the area
for locks and packets. (DEDUCED, log 19.) -/
def State.placeParts (s : State) (save key : Nat) (c : Cluster) (p : Place) : List Part :=
  let at_ := placeArea save c.index p.pos
  let core := s.core p.core
  let items := ((core.spawnQ ++ core.children.flatten).filter (·.cluster == key)).length
  let slots := s.copies.filter fun q => q.1 / 1024 == p.core && q.2.cluster == key
  let teams := s.teams.filter fun t => t.2.cluster == key && t.2.core == p.core
  let held := teams.any fun t => !t.2.todo.packets.isEmpty || (s.die c.die).locks.any (·.2 == t.1)
  [.bytes at_ (bytesAt (s.shLatest key p.core) 0 (s.sharedOf c.launch))]
    ++ (if p.rings.isEmpty then [] else [.open_ (at_ + 524288) (256 * p.rings.length)])
    ++ (if items = 0 then [] else [.open_ (at_ + 528384) (31 * items)])
    ++ (slots.map fun q => .open_ (at_ + 655360 + 256 * (q.1 % 1024)) 256)
    ++ (if held then [.open_ (at_ + 917504) 131072] else [])

/-- Parts of the save area of a launch (R355). -/
def State.saveParts (s : State) (launch save : Nat) : List Part :=
  let own := (s.coresOf launch).filter fun n => (s.core n).owner == some launch
  (own.flatMap fun n => (s.core n).area save n)
    ++ (s.clustersOf launch).flatMap fun c => c.2.places.flatMap fun p => s.placeParts save c.1 c.2 p

/-- Everything that pre-emption writes (R353 to R355), with the number of free values it takes. -/
def State.savePieces (s : State) (launch save : Nat) : List (Nat × List Byte) :=
  pieces (s.fresh + 4096) (s.saveParts launch save) ++ (s.teamsOf launch).flatMap fun q => s.imagePieces q.2

/-- Free values that pre-emption takes. -/
def State.saveFree (s : State) (launch save : Nat) : Nat :=
  4096 + ((s.saveParts launch save).map fun p => match p with
    | .open_ _ n => n
    | .bytes _ _ => 0).sum

/-- A fill of the save area of a launch waits for the host's answer. -/
def State.saveParked (s : State) (launch : Nat) : Bool :=
  s.dies.any fun d => (d.2.faults ++ d.2.waiting).any fun f => f.who == .save launch

/-- The matrix state, kept for restoration (R221). -/
def State.keepMatrix (s : State) (launch : Nat) : State :=
  let own := (s.coresOf launch).filter fun n => (s.core n).owner == some launch
  match aget s.launches launch with
  | none => s
  | some l => s.putLaunch launch { l with
      saved := own.map fun n =>
        let c := s.core n
        { core := n, acc := c.acc, rowMax := c.rowMax, rowSum := c.rowSum, bst := c.bst }
      turns := (s.coresOf launch).filterMap fun n =>
        let c := s.core n
        if c.rotation.isEmpty then none else some (n, c.rotation) }

/-- Spawned work of a cluster leaves its core with the cluster's context (R334). -/
def Core.parts (c : Core) (key : Nat) (p : Place) : Core × Place :=
  let mine := fun (g : List SpawnItem) => g.any (·.cluster == key)
  ({ c with spawnQ := c.spawnQ.filter (·.cluster != key), children := c.children.filter (!mine ·) },
   { p with spawnQ := c.spawnQ.filter (·.cluster == key), children := c.children.filter mine })

/-- A cluster is not resident any more, its context with it (R220, R329, R334). -/
def State.suspendCluster (s : State) (q : Nat × Cluster) : State :=
  let s := q.2.places.foldl (fun s p => match s.place? q.1 p.core with
    | some pl =>
      let r := (s.core p.core).parts q.1 pl
      (s.putCore p.core r.1).putPlace q.1 r.2
    | none => s) s
  match aget s.clusters q.1 with
  | some c => ((s.putCluster q.1 { c with resident := false }).leaveCores q.1 c).spillOut (s.queueOf c.launch)
  | none => s

/-- A team stops and leaves its core (R353): its loads have returned, its stack lines are written, a token goes to each barrier. -/
def State.suspendTeam (s : State) (q : Nat × Team) : State :=
  let s := (s.flushStack q.2.core q.1).tokens q.1 q.2 false
  let c := s.core q.2.core
  let s := s.putCore q.2.core { c with
    age := c.age.filter (· != q.1), rotation := c.rotation.filter (· != q.1),
    current := if c.current == some q.1 then none else c.current,
    issued := if c.current == some q.1 then 0 else c.issued,
    stack := c.stack.filter (·.team != q.1) }
  s.putTeam q.1 { q.2 with inFlight := [], planes := [], headQueued := false, lost := [] }

/-- Copies, walks and waves of a launch freeze, or go on (R215, R295, R302). -/
def State.freeze (s : State) (launch : Nat) (on : Bool) : State :=
  { s with
    copies := s.copies.map fun c => if c.2.launch == launch then (c.1, { c.2 with frozen := on }) else c
    waves := s.waves.map fun w => if w.2.launch == launch then (w.1, { w.2 with frozen := on }) else w }

/-- A core whose teams have all stopped refreshes its snapshot (R353). -/
def State.refreshIdle (s : State) (cores : List Nat) : State :=
  cores.foldl (fun s n => if s.counted n then s else s.dawn n) s

/-- Pre-emption (R353), once it can take place. (DEDUCED, log 19.) (DEDUCED, log 37.) -/
def State.suspend (s : State) (launch save : Nat) : State :=
  let cores := s.coresOf launch
  let lost := ((aget s.launches launch).map (·.lost)).getD []
  let s := ({ s.writePieces (s.rootOf launch) lost (s.savePieces launch save) with
    fresh := s.fresh + s.saveFree launch save } : State).keepMatrix launch
  let s := (s.teamsOf launch).foldl (fun s q => s.suspendTeam q) (s.freeze launch true)
  let s := (s.clustersOf launch).foldl (fun s q => s.suspendCluster q) s
  let s := s.refreshIdle cores
  match aget s.launches launch with
  | some l => s.putLaunch launch { l with phase := .suspended, save := save, lost := [] }
  | none => s

/-- PREEMPT (R353): it takes place at the moment at which array queues, reductions and implicit DUSKs are done. Where a page of the save
area or of a window does not translate, the host is told, and it takes place once the host has answered (R361). (DEDUCED, log 37.) -/
def execPreempt (queue : Asked) (seq : Nat) (save : BitVec 64) (s : State) : Out :=
  ofEvent (if !s.mayAsk queue then some (s.reply (.error "requester")) else match s.launchAt queue.queue seq .running with
    | none => some (s.reply (.error "launch"))
    | some l =>
      if !s.drained l.1 || s.saveParked l.1 then none else
      let s := (s.teamsOf l.1).foldl (fun s q => s.performLoads q.1) s
      (s.duskAll l.1 (s.teamsOf l.1)).map fun s' =>
        match s'.piecesFault (s.rootOf l.1) l.2.lost (s'.savePieces l.1 save.toNat) with
        | some (k, va) => s.raiseFault 0 l.1 (.save l.1) k va
        | none => (s'.suspend l.1 save.toNat).reply (.ok "preempt"))

/-- A place that a restore command names for a cluster: index, die, column and row of the origin. -/
abbrev Move := Nat × Nat × Nat × Nat

/-- A cluster in the rectangle that it is restored to (R353). -/
def Cluster.moved (c : Cluster) (moves : List Move) : Cluster :=
  match moves.find? (·.1 == c.index) with
  | none => c
  | some m =>
    { c with x0 := m.2.2.1, y0 := m.2.2.2,
             places := c.places.map fun p => { p with core := rectCore c.die m.2.2.1 m.2.2.2 c.width p.pos } }

/-- A move names a cluster of the launch, its own die, and a rectangle within the grid (R353). -/
def moveOk (cs : List (Nat × Cluster)) (m : Move) : Bool :=
  cs.any fun c => c.2.index == m.1 && c.2.die == m.2.1 && decide (m.2.2.1 + c.2.width ≤ 8) && decide (m.2.2.2 + c.2.height ≤ 8)

/-- Where a core of a cluster is after a restoration: the core at the same position. -/
def newCore (old new : List (Nat × Cluster)) (key core : Nat) : Nat :=
  match (aget old key).bind (·.place? core) with
  | none => core
  | some p => (((aget new key).bind fun c => c.places.find? (·.pos == p.pos)).map (·.core)).getD core

/-- A place of a landing after a restoration (R215). -/
def Dest.moved (f : Nat → Nat → Nat) (key : Nat) : Dest → Dest
  | .sh k c => .sh k (f k c)
  | .bst c => .bst (f key c)
  | d => d

/-- A counter after a restoration. -/
def CounterLoc.moved (f : Nat → Nat → Nat) : CounterLoc → CounterLoc
  | .sh k c a => .sh k (f k c) a
  | l => l

/-- An operation after a restoration. -/
def OpRef.moved (f : Nat → Nat → Nat) (key : Nat) : OpRef → OpRef
  | .cwait loc n => .cwait (loc.moved f) n
  | .walk core h => .walk (f key core) h
  | o => o

/-- A copy after a restoration (R215). -/
def Copy.moved (f : Nat → Nat → Nat) (c : Copy) : Copy :=
  { c with dst := { c.dst with dest := c.dst.dest.moved f c.cluster }, counter := c.counter.moved f }

/-- A team after a restoration. -/
def Team.moved (f : Nat → Nat → Nat) (x : Team) : Team :=
  { x with
    core := f x.cluster x.core
    ops := x.ops.map fun o => { o with ref := o.ref.moved f x.cluster }
    pendRegs := x.pendRegs.map fun o => { o with ref := o.ref.moved f x.cluster }
    todo := { x.todo with copies := x.todo.copies.map (·.moved f) }
    park := x.park.map fun p => match p with
      | .landing d bs => .landing (d.moved f x.cluster) bs
      | .landingStore d bs => .landingStore (d.moved f x.cluster) bs
      | .owner cores => .owner (cores.map (f x.cluster))
      | .wave us => .wave (us.map fun u => match u with
        | .core n => .core (f x.cluster n)
        | u => u)
      | p => p }

/-- A wave after a restoration. -/
def Wave.moved (f : Nat → Nat → Nat) (w : Wave) : Wave :=
  { w with core := f w.cluster w.core, counter := w.counter.moved f, wrec := { w.wrec with countRef := w.wrec.countRef.moved f } }

/-- The cluster of a landing's owner. -/
def State.ownerCluster (s : State) : RangeOwner → Nat
  | .copy core slot => ((aget s.copies (core * 1024 + slot)).map (·.cluster)).getD 0
  | .wave place => ((aget s.waves place).map (·.cluster)).getD 0

/-- A range after a restoration (R215): it is registered in the new core's landing unit. -/
def Range.moved (f : Nat → Nat → Nat) (key : Nat) (r : Range) : Range :=
  { r with
    unit := match r.unit with
      | .core n => .core (f key n)
      | u => u
    owner := match r.owner with
      | .copy core slot => .copy (f key core) slot
      | o => o
    dest := r.dest.moved f key }

/-- Copies under their new keys; none when a slot is taken there. -/
def placeCopies : List (Nat × Copy) → List (Nat × Copy) → Option (List (Nat × Copy))
  | t, [] => some t
  | t, (k, c) :: r => if (aget t k).isSome then none else placeCopies (aput t k c) r

/-- Messages of a launch that the spill ring had no room for wait at the new cores (R329, R353). (DEDUCED, log 37.) -/
def State.moveMsgs (launch : Nat) (f : Nat → Nat → Nat) (s : State) : State :=
  let left := s.cores.flatMap fun c => c.2.incoming.filter (·.launch == launch)
  left.foldl (fun s m =>
      let m := { m with core := f m.cluster m.core }
      s.putCore m.core { s.core m.core with incoming := (s.core m.core).incoming ++ [m] })
    { s with cores := s.cores.map fun (c : Nat × Core) => (c.1, { c.2 with incoming := c.2.incoming.filter (·.launch != launch) }) }

/-- Everything of a launch that names a core, after a restoration. (DEDUCED, log 37.) -/
def State.relocate (s : State) (launch : Nat) (new : List (Nat × Cluster)) : Option State :=
  let f := newCore (s.clustersOf launch) new
  let mine := s.copies.filter (·.2.launch == launch)
  (placeCopies (s.copies.filter (·.2.launch != launch))
    (mine.map fun c => (f c.2.cluster (c.1 / 1024) * 1024 + c.1 % 1024, c.2.moved f))).map fun copies =>
    let first := fun (n : Nat) => ((s.clustersOf launch).find? fun c => (c.2.place? n).isSome).map (·.1)
    let at_ := fun (n : Nat) => ((first n).map fun k => f k n).getD n
    State.moveMsgs launch f { s with
      ranges := s.ranges.map fun r => (r.1, r.2.moved f (s.ownerCluster r.2.owner))
      copies := copies
      waves := s.waves.map fun w => if w.2.launch == launch then (w.1, w.2.moved f) else w
      teams := s.teams.map fun t => if t.2.launch == launch then (t.1, t.2.moved f) else t
      clusters := new.foldl (fun cs c => aput cs c.1 c.2) s.clusters
      queues := s.queues.map fun q => (q.1, { q.2 with spill := q.2.spill.map fun m => { m with core := f m.cluster m.core } })
      errors := s.errors.map fun e => match e with
        | .sh k c w => .sh k (f k c) w
        | e => e
      launches := s.launches.map fun l => if l.1 != launch then l else (l.1, { l.2 with
        saved := l.2.saved.map fun m => { m with core := at_ m.core }
        turns := l.2.turns.map fun t => (at_ t.1, t.2)
        chart := new.foldl (fun ch c => ch.set c.2.index (BitVec.ofNat 32
          (c.2.die + 4 * c.2.y0 + 32 * c.2.x0 + 256 * c.2.height + 4096 * c.2.width))) l.2.chart }) }

/-- The saved clusters fit on their cores (R88, R353). (DEDUCED, log 37.) -/
def State.restoreFits (s : State) (launch : Nat) (l : Launch) (new : List (Nat × Cluster)) : Bool :=
  let cores := (new.flatMap fun c => c.2.places.map (·.core)).eraseDups
  cores.all fun n =>
    let teams := s.teams.filter fun t => t.2.launch == launch && t.2.core == n
    let clusters := new.filter fun c => (c.2.place? n).isSome
    decide ((s.core n).age.length + teams.length ≤ Config.residentTeams)
      && decide (s.usedRows n + (teams.map (·.2.rows)).sum ≤ Config.registerRows)
      && s.hasRoom l.hdr n 0 clusters.length && !s.reserved launch n
      && (!l.hdr.flags.getLsbD 0 || !s.othersOn launch n) && s.backed n
      && (!l.saved.any (·.core == n) || (s.core n).owner.isNone)
      && decide ((s.ranges.filter fun r => r.2.unit == .core n).length ≤ Config.landingRanges)
      && decide ((s.core n).incoming.length ≤ Config.incomingMessages)

/-- A cluster is resident again, with its spawned work (R220, R221, R334). -/
def State.resumeCluster (s : State) (q : Nat × Cluster) : State :=
  let s := q.2.places.foldl (fun s p =>
    let c := s.core p.core
    s.putCore p.core { c with spawnQ := c.spawnQ ++ p.spawnQ, children := c.children ++ p.children }) s
  let c := { q.2 with resident := true, places := q.2.places.map fun p => { p with spawnQ := [], children := [] } }
  (s.putCluster q.1 c).joinCores q.1 c

/-- A team is resident again (R93, R177, R213): at the tail of the age order, its core as after a DAWN. -/
def State.resumeTeam (s : State) (q : Nat × Team) : State :=
  let s := s.tokens q.1 q.2 true
  let c := s.core q.2.core
  ((s.putCore q.2.core { c with age := c.age ++ [q.1] }).dawn q.2.core).wake (s.islandOf q.2.core)

/-- Restoration (R353): clusters, then teams, rotations, copies and waves. (DEDUCED, log 19.) -/
def State.unsuspend (s : State) (launch : Nat) : State :=
  let s := (s.clustersOf launch).foldl (fun s q => s.resumeCluster q) s
  let s := (s.teamsOf launch).foldl (fun s q => s.resumeTeam q) s
  let s := s.freeze launch false
  match aget s.launches launch with
  | none => s
  | some l =>
    let s := l.turns.foldl (fun s q => s.putCore q.1 { s.core q.1 with rotation := q.2 }) s
    s.putLaunch launch { l with phase := .running, turns := [], lost := [] }

/-- The matrix state of a core as the save area holds it (R221, R355); what cannot be read stays as the module keeps it. -/
def State.readMatrix (s : State) (root : BitVec 48) (lost : List Nat) (save : Nat) (m : SavedMatrix) : SavedMatrix :=
  let at_ := coreArea save m.core
  if lost.any fun p => decide (at_ / pageBytes ≤ p) && decide (p < (at_ + 2 ^ 22) / pageBytes) then m else
  let word := fun (o n : Nat) => leNat (s.vaBytes root .read (at_ + o) n)
  { m with
    acc := tsets zeros [] ((List.range 20480).map fun i => (i, BitVec.ofNat 56 (word (8 * i) 8)))
    rowMax := tsets negInf [] ((List.range 128).map fun r => (r, BitVec.ofNat 32 (word (163840 + 8 * r) 4)))
    rowSum := tsets zeros [] ((List.range 128).map fun r => (r, BitVec.ofNat 32 (word (163840 + 8 * r + 4) 4)))
    bst := tsets zeros [] ((List.range Config.bstoreBytes).map fun i => (i, BitVec.ofNat 8 (word (2 ^ 20 + i) 1))) }

/-- The shared memory of a cluster's core as the save area holds it (R355). A byte that reads as it was saved stays in its core's order as it
was, since what has landed there may not have taken its place yet (R199). -/
def State.readShared (s : State) (root : BitVec 48) (lost : List Nat) (save shared : Nat) (key index : Nat) (p : Place) : Place :=
  let at_ := placeArea save index p.pos
  if lost.any fun q => decide (at_ / pageBytes ≤ q) && decide (q ≤ (at_ + shared) / pageBytes) then p else
  { p with sh := tsets zeros [] ((cellsAt 0 (s.vaBytes root .read at_ shared)).map fun c =>
      if c.2 == s.shLatest key p.core c.1 then (c.1, p.shByte c.1) else c) }

/-- The spans that the restoration of a launch reads. -/
def State.restoreSpans (s : State) (launch : Nat) (l : Launch) : List (Nat × Nat) :=
  (l.saved.flatMap fun m => let a := coreArea l.save m.core; [(a, 164864), (a + 2 ^ 20, Config.bstoreBytes)])
    ++ ((s.clustersOf launch).flatMap fun c => c.2.places.map fun p => (placeArea l.save c.2.index p.pos, s.sharedOf launch))
    ++ (s.teamsOf launch).flatMap fun q => s.windowSpans q.2

/-- What was saved is read back from the save area and from the windows (R221, R353 to R355). (DEDUCED, log 19.) -/
def State.readBack (s : State) (launch : Nat) (l : Launch) : State :=
  let root := s.rootOf launch
  let s := s.putLaunch launch { l with saved := l.saved.map (s.readMatrix root l.lost l.save) }
  let s := (s.clustersOf launch).foldl (fun (s : State) c => s.putCluster c.1 { c.2 with
    places := c.2.places.map (s.readShared root l.lost l.save (s.sharedOf launch) c.1 c.2.index) }) s
  (s.teamsOf launch).foldl (fun s q => s.putTeam q.1 (if l.lost.isEmpty then s.fromWindow q.2 else q.2)) s

/-- RESTORE (R353): a launch that is not suspended, and a rectangle that is not of the same shape on the same die, are answered with
an error, and nothing is restored. It takes place once the clusters fit. (DEDUCED, log 37.) -/
def execRestore (queue : Asked) (seq : Nat) (moves : List Move) (s : State) : Out :=
  ofEvent (if !s.mayAsk queue then some (s.reply (.error "requester")) else match s.launchAt queue.queue seq .suspended with
    | none => some (s.reply (.error "launch"))
    | some l =>
      let cs := s.clustersOf l.1
      if !moves.all (moveOk cs) then some (s.reply (.error "rectangle"))
      else if s.saveParked l.1 then none
      else match s.spansFault (s.rootOf l.1) l.2.lost (s.restoreSpans l.1 l.2) with
        | some (k, va) => some (s.raiseFault 0 l.1 (.save l.1) k va)
        | none =>
          let s := s.readBack l.1 l.2
          let new := (s.clustersOf l.1).map fun c => (c.1, c.2.moved moves)
          match s.relocate l.1 new, aget s.launches l.1 with
          | some s', some x =>
            if s'.restoreFits l.1 ((aget s'.launches l.1).getD x) new then some ((s'.unsuspend l.1).reply (.ok "restore")) else none
          | _, _ => none)

end Sys2Proof.Machine
end

