-- ==== Sys2Proof/Machine/Stream.lean ====
section
/-!
DEFINITION. Sparse stream instructions, majors 0x58 to 0x5B (R244 to R263).
-/

namespace Sys2Proof.Machine

/-- Why a lane's step cannot go on: a segment that is missing (R253), a translation fault (R253), a byte behind a watermark
(R251), or a trap (R254, R255). -/
inductive StreamStop
  | segment (n : Nat)
  | fault (kind va : Nat)
  | wait (dest : Dest) (a : Nat)
  | trap (r : Report)
  deriving DecidableEq

/-- A lane's step: what it reads, and where it stops. -/
abbrev Steps := Except StreamStop

/-- A stream register's fields (R249). -/
structure Cursor where
  done  : Bool
  level : Nat
  desc  : Nat
  fin   : Nat
  coord : Nat
  pos   : Nat
  deriving DecidableEq

/-- The sentinel (R247). -/
def sentinel : Nat := 2 ^ 32 - 1

/-- Reading a stream register. (DEDUCED, log 41.) -/
def cursorOf (v : BitVec 128) : Cursor :=
  { done := v.getLsbD 127, level := bits v 109 107, desc := bits v 106 96, fin := bits v 95 64, coord := bits v 63 32,
    pos := bits v 31 0 }

/-- A stream register from its fields; a done stream stands at its end (R249, R256). -/
def Cursor.word (c : Cursor) : BitVec 128 :=
  BitVec.ofBool c.done ++ 0#17 ++ BitVec.ofNat 3 c.level ++ BitVec.ofNat 11 c.desc ++ BitVec.ofNat 32 c.fin
    ++ BitVec.ofNat 32 c.coord ++ BitVec.ofNat 32 c.pos

/-- The end of a fibre (R256, R257). -/
def Cursor.finish (c : Cursor) : Cursor := { c with done := true, pos := c.fin, coord := sentinel }

/-- The level reference of a cursor (R250). -/
def Cursor.ref (c : Cursor) : Nat := c.desc * 256 + c.level

/-- Where a step is made: the state, the team, the lane, the stream number and the level reference that a trap reports. -/
structure At where
  st   : State
  team : Team
  lane : Nat
  num  : Nat
  ref  : Nat

/-- The stream trap (R254, R343). -/
def At.fail (y : At) (sub : Nat) : StreamStop :=
  .trap { cause := 10#8, sub := BitVec.ofNat 4 sub, lane := BitVec.ofNat 32 y.lane, info0 := BitVec.ofNat 32 y.num, info1 := BitVec.ofNat 32 y.ref }

/-- The malformed-coordinate trap (R255, R343): position and value read. -/
def At.bad (y : At) (reason q v : Nat) : StreamStop :=
  .trap { cause := 11#8, sub := BitVec.ofNat 4 reason, lane := BitVec.ofNat 32 y.lane, info0 := BitVec.ofNat 32 y.num, info1 := BitVec.ofNat 32 y.ref, info2 := BitVec.ofNat 32 q, info3 := BitVec.ofNat 32 v }

/-- A segment of the core's stream buffer. (DESIGN CHOICE, log 34.) -/
def Core.seg? (c : Core) (root : BitVec 48) (n : Nat) : Option Segment := c.segs.find? fun g => g.root == root && g.seg == n

/-- Four bytes of main memory through the stream buffer (R251, R253). -/
def At.mainWord (y : At) (va : Nat) : Steps Nat :=
  let root := y.st.rootOf y.team.launch
  match (y.st.core y.team.core).seg? root (va / 256) with
  | some g =>
    if g.bad.contains (va / 128 % 2) then .error (y.fail 5)
    else .ok (leNat ((g.data.drop (va % 256)).take 4))
  | none =>
    if y.team.deniedAt va then .error (y.fail 4) else
    match y.st.xlate root va .read with
    | .fault k => .error (.fault k va)
    | .ok _ => .error (.segment (va / 256))

/-- Landings over four bytes of .sh or .sp (R179, R197, R251); a block whose check value does not match comes before a landing that
failed (R254). -/
def At.landing (y : At) (dest : Dest) (a : Nat) (bad : Bool) : Steps Unit :=
  let as := (List.range 4).map (a + ·)
  match as.findSome? fun i => match y.st.landingLoad dest i with
    | .fault id => some (y.st.landingReport y.lane i id)
    | _ => none with
  | some r => .error (if bad then y.fail 5 else .trap r)
  | none => match as.find? fun i => y.st.landingLoad dest i == .wait with
    | some i => .error (.wait dest i)
    | none => if bad then .error (y.fail 5) else .ok ()

/-- Which of the two values of R180 a word of .sh or of the core's own .sp takes where a landing and a store leave both: one free choice for the
word, which is read single-copy atomic (R251). (DESIGN CHOICE, log 3.) -/
def At.stored (y : At) (a : Nat) : Bool := Config.freeNat (y.st.fresh + a) % 2 == 1

/-- The free choices of an instruction's .sh and .sp words count as taken when a landing there can leave any (R180). (DESIGN CHOICE, log 34.) -/
def State.ownChoices (s : State) (x : Team) : State :=
  if s.ranges.any fun r => r.2.dest == .sp (dieOf x.core) || r.2.dest == .sh x.cluster x.core
  then { s with fresh := s.fresh + Config.scratchBytes } else s

/-- Four bytes at a place (R251): .sh and the core's own .sp as a plain load, another die's .sp as its publication order leaves
it, main memory through the buffer; an address beyond 2^52 is a fault of kind 4 there (DEDUCED, log 10). -/
def At.word (y : At) (l : Loc) : Steps Nat := do
  match l.dest with
  | .sh k c =>
    if y.st.sharedOf y.team.launch < l.addr + 4 then throw (y.fail 6)
    y.landing l.dest l.addr false
    if y.st.shBad k c l.addr 4 then
      throw (.trap { Report.plain 19 2 with lane := BitVec.ofNat 32 y.lane, info0 := BitVec.ofNat 32 l.addr })
    pure (leNat (bytesAt (y.st.shLoad k c (y.stored l.addr)) l.addr 4))
  | .sp d =>
    if Config.scratchBytes < l.addr + 4 then throw (y.fail 6)
    y.landing l.dest l.addr (y.st.spBad d l.addr 4)
    if d = dieOf y.team.core then pure (leNat (bytesAt (y.st.spByte y.team.core (y.stored l.addr)) l.addr 4))
    else pure (leNat (bytesAt (y.st.spLatest d) l.addr 4))
  | _ => y.mainWord l.addr

/-- A level as its descriptor gives it (R244, R245); the level below of a Morton level with it (R248). -/
structure Level where
  kind    : Nat
  morton  : Bool
  n       : Nat
  parents : Nat
  pos     : Loc
  crd     : Loc
  n3      : Nat := 0
  parents3 : Nat := 0
  crd3    : Loc := ⟨.main, 0⟩
  deriving DecidableEq

/-- An array's copy address (R244): spaces 0, 1 and 3, a multiple of 4. -/
def At.array (y : At) (on : Bool) (v : BitVec 64) : Steps Loc :=
  if !on then .ok ⟨.main, 0⟩ else
  match y.st.resolveAddr y.team.cluster y.team.core v with
  | none => .error (y.fail 1)
  | some l =>
    if (bits v 63 60 = 0 ∨ bits v 63 60 = 1 ∨ bits v 63 60 = 3) ∧ l.addr % 4 = 0 then .ok l else .error (y.fail 1)

/-- The fields of level i, checked (R244, R245). -/
def At.fields (y : At) (d : List Byte) (i : Nat) : Steps Level := do
  let b := (d.drop (32 + 32 * i)).take 32
  let c := nat32 b 0
  let k := c % 4
  if 8 ≤ c ∨ nat32 b 12 ≠ 0 ∨ nat32 b 4 = 0 ∨ nat32 b 4 = sentinel ∨ nat32 b 8 = 0 then throw (y.fail 1)
  let pos ← y.array (k == 1 || k == 2) (word64 b 16)
  let crd ← y.array (k == 1 || k == 3) (word64 b 24)
  pure { kind := k, morton := c / 4 % 2 == 1, n := nat32 b 4, parents := nat32 b 8, pos := pos, crd := crd }

/-- The 256 bytes of a descriptor, read from .sh (R251). -/
def At.descriptor (y : At) (off : Nat) : Steps (List Byte) := do
  let ws ← (List.range 64).mapM fun i => y.word ⟨.sh y.team.cluster y.team.core, off + 4 * i⟩
  pure (ws.flatMap (leBytes 4))

/-- Word i of an array. -/
def At.item (y : At) (l : Loc) (i : Nat) : Steps Nat := y.word { l with addr := l.addr + 4 * i }

/-- A level that a reference names, its fields checked (R250), with those of the level below a Morton level (R248). (DESIGN CHOICE, log 34.) -/
def At.shape (y : At) : Steps Level := do
  let r := y.ref
  let off := r / 256 % 2 ^ 11 * 256
  let i := r % 8
  if r / 2 ^ 19 ≠ 0 ∨ r / 8 % 32 ≠ 0 ∨ y.st.sharedOf y.team.launch < off + 256 then throw (y.fail 1)
  let d ← y.descriptor off
  let n := nat32 d 0
  if n = 0 ∨ 6 < n ∨ n ≤ i ∨ !zeroBytes d 4 32 ∨ !zeroBytes d (32 + 32 * n) 256 then throw (y.fail 1)
  let lv ← y.fields d i
  if !lv.morton then pure lv else
    if lv.kind ≠ 1 ∨ n ≤ i + 1 then throw (y.fail 1)
    let low ← y.fields d (i + 1)
    if low.kind ≠ 3 ∨ low.morton ∨ 65536 < lv.n ∨ 65536 < low.n then throw (y.fail 1)
    pure { lv with n3 := low.n, parents3 := low.parents, crd3 := low.crd }

/-- A level that a step walks (R250). The highest position that a Morton level can reach is one below its last pointer (R248); a level
without entries has none, and fails the check. (DESIGN CHOICE, log 34.) -/
def At.level (y : At) : Steps Level := do
  let lv ← y.shape
  if !lv.morton then pure lv else
    let top ← y.item lv.pos lv.parents
    if lv.parents3 ≠ top then throw (y.fail 1)
    pure lv

/-- A coordinate below N (R255 reason 1). -/
def At.coord (y : At) (l : Loc) (q n : Nat) : Steps Nat := do
  let c ← y.item l q
  if n ≤ c then throw (y.bad 1 q c)
  pure c

/-- The Morton key (R248). -/
def mortonKey (a b : Nat) : Nat :=
  (List.range 16).foldl (fun k i => k + a / 2 ^ i % 2 * 2 ^ (2 * i + 1) + b / 2 ^ i % 2 * 2 ^ (2 * i)) 0

/-- The least set bit c of fibre p with x ≤ c < N (R246); fuel counts the words left. -/
def At.nextBit (y : At) (lv : Level) (p : Nat) : Nat → Nat → Steps (Option Nat)
  | 0, _ => .ok none
  | fuel + 1, x => do
    if lv.n ≤ x then pure none else
      let w ← y.item lv.pos ((lv.n + 31) / 32 * p + x / 32)
      match (List.range 32).find? fun i => decide (x % 32 ≤ i) && w / 2 ^ i % 2 == 1 with
      | some i => let c := x / 32 * 32 + i
                  pure (if c < lv.n then some c else none)
      | none => y.nextBit lv p fuel ((x / 32 + 1) * 32)

/-- The first entry of fibre b (R256). An End of 2^32 is held modulo 2^32 in its 32-bit field. (DEDUCED, log 41.) -/
def At.openFibre (y : At) (b : Nat) : Steps Cursor := do
  let lv ← y.level
  if lv.parents ≤ b then throw (y.fail 2)
  let c : Cursor := { done := false, level := y.ref % 8, desc := y.ref / 256 % 2 ^ 11, fin := 0, coord := 0, pos := 0 }
  match lv.kind with
  | 0 =>
    if 2 ^ 32 < b * lv.n + lv.n then throw (y.fail 2)
    pure { c with pos := b * lv.n, fin := (b * lv.n + lv.n) % 2 ^ 32 }
  | 1 =>
    let st ← y.item lv.pos b
    let en ← y.item lv.pos (b + 1)
    if en < st then throw (y.bad 4 b st)
    let c := { c with pos := st, fin := en }
    if st = en then pure c.finish else
      let v ← y.coord lv.crd st lv.n
      pure { c with coord := v }
  | 2 =>
    if 2 ^ 32 < b * lv.n + lv.n then throw (y.fail 2)
    let v ← y.nextBit lv b ((lv.n + 31) / 32) 0
    let c := { c with fin := (b * lv.n + lv.n) % 2 ^ 32 }
    pure (match v with
      | some v => { c with pos := b * lv.n + v, coord := v }
      | none => c.finish)
  | _ =>
    let v ← y.coord lv.crd b lv.n
    pure { c with pos := b, fin := (b + 1) % 2 ^ 32, coord := v }

/-- Standing at position q with coordinate v, or at the end (R257). -/
def Cursor.goTo (c : Cursor) (q v : Nat) : Cursor := if q % 2 ^ 32 = c.fin then c.finish else { c with pos := q % 2 ^ 32, coord := v }

/-- The first position of a D or B fibre, and its parent. -/
def Cursor.base (c : Cursor) : Nat := (c.pos + 2 ^ 32 - c.coord) % 2 ^ 32

/-- One entry on (R257). -/
def At.stepOn (y : At) (c : Cursor) : Steps Cursor := do
  if c.done then pure c else
    let lv ← y.level
    let q := c.pos + 1
    match lv.kind with
    | 0 => pure (c.goTo q (c.coord + 1))
    | 1 =>
      if c.fin ≤ q then pure c.finish else
        let v ← y.coord lv.crd q lv.n
        if !lv.morton then
          if v ≤ c.coord then throw (y.bad 2 q v)
        else
          let w ← y.coord lv.crd3 q lv.n3
          let before ← y.item lv.crd3 (q - 1)
          if mortonKey v w ≤ mortonKey c.coord before then throw (y.bad 3 q v)
        pure (c.goTo q v)
    | 2 =>
      let v ← y.nextBit lv (c.base / lv.n) ((lv.n + 31) / 32) (c.coord + 1)
      pure (match v with
        | some v => { c with pos := (c.base + v) % 2 ^ 32, coord := v }
        | none => c.finish)
    | _ => pure c.finish

/-- The bounds of a search in a C fibre (R258): positions, and the coordinates read there. -/
structure Bounds where
  lo  : Nat
  clo : Nat
  hi  : Nat
  chi : Nat

/-- Galloping (R258): fuel bounds the number of doublings. -/
def At.gallop (y : At) (lv : Level) (c : Cursor) (x : Nat) : Nat → Nat → Bounds → Steps Bounds
  | 0, _, b => .ok b
  | fuel + 1, step, b => do
    let t := c.pos + step
    if c.fin ≤ t then pure b else
      let v ← y.coord lv.crd t lv.n
      if v ≤ b.clo then throw (y.bad 2 t v)
      if x ≤ v then pure { b with hi := t, chi := v }
      else y.gallop lv c x fuel (2 * step) { b with lo := t, clo := v }

/-- Bisecting (R258): fuel bounds the number of halvings. -/
def At.bisect (y : At) (lv : Level) (c : Cursor) (x : Nat) : Nat → Bounds → Steps Bounds
  | 0, b => .ok b
  | fuel + 1, b => do
    if b.hi ≤ b.lo + 1 then pure b else
      let m := b.lo + (b.hi - b.lo) / 2
      let v ← y.coord lv.crd m lv.n
      if v ≤ b.clo ∨ (b.hi < c.fin ∧ b.chi ≤ v) then throw (y.bad 2 m v)
      y.bisect lv c x fuel (if x ≤ v then { b with hi := m, chi := v } else { b with lo := m, clo := v })

/-- Skipping to the first coordinate at least x (R258); a Morton level is refused before any step (R248). -/
def At.skipTo (y : At) (x : Nat) (c : Cursor) : Steps Cursor := do
  if c.done then pure c else
    let lv ← y.shape
    if lv.morton then throw (y.fail 3)
    if x ≤ c.coord then pure c else
      match lv.kind with
      | 0 => pure (if x < lv.n then { c with pos := (c.base + x) % 2 ^ 32, coord := x } else c.finish)
      | 1 =>
        let b ← y.gallop lv c x 33 1 ⟨c.pos, c.coord, c.fin, 0⟩
        let b ← y.bisect lv c x 33 b
        pure (if c.fin ≤ b.hi then c.finish else { c with pos := b.hi, coord := b.chi })
      | 2 =>
        let v ← y.nextBit lv (c.base / lv.n) ((lv.n + 31) / 32) x
        pure (match v with
          | some v => { c with pos := (c.base + v) % 2 ^ 32, coord := v }
          | none => c.finish)
      | _ => pure c.finish

/-- A stream that is not done and stands on a Morton level is refused (R248). -/
def At.refuseMorton (y : At) (c : Cursor) : Steps Unit := do
  if c.done then pure () else
    let lv ← y.shape
    if lv.morton then throw (y.fail 3)

/-- Where a lane steps a stream: its number and level go into a trap's report. -/
def At.on (y : At) (num : Nat) (c : Cursor) : At := { y with num := num, ref := c.ref }

/-- Two streams moved until they agree or one ends (R259); fuel bounds the number of skips. -/
def At.meet (y : At) (na nb : Nat) : Nat → Cursor → Cursor → Steps (Cursor × Cursor)
  | 0, a, b => .ok (a, b)
  | fuel + 1, a, b => do
    if a.done || b.done || a.coord == b.coord then pure (a, b)
    else if a.coord < b.coord then
      let a ← (y.on na a).skipTo b.coord a
      y.meet na nb fuel a b
    else
      let b ← (y.on nb b).skipTo a.coord b
      y.meet na nb fuel a b

/-- Positions left in a fibre, an upper bound of the moves it can make. -/
def Cursor.left (c : Cursor) : Nat := (c.fin + 2 ^ 32 - c.pos) % 2 ^ 32 + 1

/-- A SISECT step in a lane (R259): the streams and vd. -/
def At.sisect (y : At) (na nb : Nat) (v : Word) (a b : Cursor) : Steps (Cursor × Cursor × Word) := do
  (y.on na a).refuseMorton a
  (y.on nb b).refuseMorton b
  let a ← if v = 0#32 then pure a else (y.on na a).stepOn a
  let b ← if v = 0#32 then pure b else (y.on nb b).stepOn b
  let p ← y.meet na nb (a.left + b.left) a b
  pure (p.1, p.2, Word.ofBool (!p.1.done && !p.2.done))

/-- A SUNION step in a lane (R259). -/
def At.sunion (y : At) (na nb : Nat) (v : Word) (a b : Cursor) : Steps (Cursor × Cursor × Word) := do
  (y.on na a).refuseMorton a
  (y.on nb b).refuseMorton b
  let a ← if v.getLsbD 0 then (y.on na a).stepOn a else pure a
  let b ← if v.getLsbD 1 then (y.on nb b).stepOn b else pure b
  let m := min a.coord b.coord
  pure (a, b, if a.done && b.done then 0#32
    else (if a.coord = m then 1#32 else 0#32) + (if b.coord = m then 2#32 else 0#32))

/-- The bisection of PARTN (R261). -/
def At.partSearch (y : At) (lv : Level) (t : Nat) : Nat → Bounds → Steps Nat
  | 0, b => .ok b.hi
  | fuel + 1, b => do
    if b.hi ≤ b.lo + 1 then pure b.hi else
      let m := b.lo + (b.hi - b.lo) / 2
      let v ← y.item lv.pos m
      if v < b.clo ∨ b.chi < v then throw (y.bad 4 m v)
      y.partSearch lv t fuel (if t ≤ v then { b with hi := m, chi := v } else { b with lo := m, clo := v })

/-- PARTN in a lane (R261). -/
def At.part (y : At) (k p : Nat) : Steps Nat := do
  let lv ← y.shape
  if lv.kind ≠ 1 ∨ lv.morton then throw (y.fail 3)
  if k = 0 then pure 0
  else if p ≤ k then pure lv.parents
  else
    let b ← y.item lv.pos 0
    let e ← y.item lv.pos lv.parents
    if e < b then throw (y.bad 4 0 b)
    let t := b + k * (e - b) / p
    if t ≤ b then pure 0 else y.partSearch lv t 33 ⟨0, b, lv.parents, e⟩

/-- Every active lane's step (R253, R254): all finish, and the instruction writes its lanes; or the team waits for segments, a
translation or a watermark; or the lowest failing lane traps. -/
def stepLanes {α : Type} (t : Nat) (x : Team) (s : State) (f : Nat → Steps α) (k : List (Nat × α) → State → Act) : Act :=
  let rs := x.active.map fun l => (l, f l)
  let stops : List StreamStop := rs.filterMap fun r => match r.2 with
    | .error e => some e
    | .ok _ => none
  let segs := (stops.filterMap fun e => match e with
    | .segment n => some n
    | _ => none).eraseDups
  match stops.findSome? fun e => match e with
    | .fault kind va => some (kind, va)
    | _ => none with
  | some (kind, va) => .wait .fault (s.raiseFault (dieOf x.core) x.launch (.team t) kind va)
  | none =>
    if !segs.isEmpty then .wait (.segment segs) s else
    match stops.findSome? fun e => match e with
      | .wait dest a => some (dest, a)
      | _ => none with
    | some (dest, a) => .wait (.landing dest [a]) s
    | none => match stops with
      | .trap r :: _ => .trap r
      | _ => k (rs.filterMap fun r => match r.2 with
        | .ok v => some (r.1, v)
        | .error _ => none) (s.ownChoices x)

/-- The value of a lane among the lanes that have stepped. -/
def laneOf {α : Type} (rs : List (Nat × α)) (d : α) (l : Nat) : α := ((rs.find? (·.1 == l)).map (·.2)).getD d

/-- The cursor of stream i in a lane. -/
def Team.cursor (x : Team) (i l : Nat) : Cursor := cursorOf (x.stream i l)

/-- Writing stream i in the lanes that have stepped. -/
def Team.putCursors (x : Team) (i : Nat) (rs : List (Nat × Cursor)) : Team :=
  x.putStream (rs.map (·.1)) i fun l => ((rs.find? (·.1 == l)).map (·.2.word)).getD streamReset

/-- SOPEN (R256). -/
def execSopen (sx a b : Field) (s : State) : Out :=
  issue (.sopen sx a b) s fun t x s =>
    stepLanes t x s (fun l => (At.mk s x l sx.toNat (x.rd 0 a 0 l).toNat).openFibre (x.rd (litCount [a]) b 0 l).toNat)
      fun rs s => .next (s.putTeam t (x.putCursors sx.toNat rs))

/-- SNEXT (R257). -/
def execSnext (sx : Field) (s : State) : Out :=
  issue (.snext sx) s fun t x s =>
    stepLanes t x s (fun l => let c := x.cursor sx.toNat l; (At.mk s x l sx.toNat c.ref).stepOn c)
      fun rs s => .next (s.putTeam t (x.putCursors sx.toNat rs))

/-- SSKIP (R258). -/
def execSskip (sx b : Field) (s : State) : Out :=
  issue (.sskip sx b) s fun t x s =>
    stepLanes t x s (fun l => let c := x.cursor sx.toNat l; (At.mk s x l sx.toNat c.ref).skipTo (x.rd 0 b 0 l).toNat c)
      fun rs s => .next (s.putTeam t (x.putCursors sx.toNat rs))

/-- SISECT and SUNION (R259). -/
def pairBody (d a b : Field) (f : At → Nat → Nat → Word → Cursor → Cursor → Steps (Cursor × Cursor × Word)) : Body := fun t x s =>
  if x.mz then .next s else
  stepLanes t x s (fun l => f (At.mk s x l a.toNat 0) a.toNat b.toNat (x.rd 0 d 0 l) (x.cursor a.toNat l) (x.cursor b.toNat l))
    fun rs s =>
      let y := (x.putCursors a.toNat (rs.map fun r => (r.1, r.2.1))).putCursors b.toNat (rs.map fun r => (r.1, r.2.2.1))
      .next (s.putTeam t (y.result d fun l => laneOf (rs.map fun r => (r.1, r.2.2.2)) 0#32 l))

/-- SISECT (R259). -/
def execSisect (d a b : Field) (s : State) : Out := issue (.sisect d a b) s (pairBody d a b At.sisect)

/-- SUNION (R259). -/
def execSunion (d a b : Field) (s : State) : Out := issue (.sunion d a b) s (pairBody d a b At.sunion)

/-- SCRD (R260). -/
def execScrd (d sx : Field) (s : State) : Out :=
  issue (.scrd d sx) s fun t x s =>
    .next (if x.mz then s else s.putTeam t (x.result d fun l => BitVec.ofNat 32 (x.cursor sx.toNat l).coord))

/-- SPOS (R260). -/
def execSpos (d sx : Field) (s : State) : Out :=
  issue (.spos d sx) s fun t x s =>
    .next (if x.mz then s else s.putTeam t (x.result d fun l => BitVec.ofNat 32 (x.cursor sx.toNat l).pos))

/-- PARTN (R261). -/
def execPartn (d a b : Field) (s : State) : Out :=
  issue (.partn d a b) s fun t x s =>
    if x.mz then .next s else
    let n := litCount [a]
    stepLanes t x s (fun l => (At.mk s x l 8 (x.rd 0 a 0 l).toNat).part (x.rd n b 0 l).toNat (x.rd n b 1 l).toNat)
      fun rs s => .next (s.putTeam t (x.result d fun l => BitVec.ofNat 32 (laneOf rs 0 l)))

/-- A segment as main memory holds it now, with the halves whose check value does not match (R251). (DESIGN CHOICE, log 34.) -/
def State.segment (s : State) (root : BitVec 48) (n : Nat) : Segment :=
  { root := root, seg := n, data := s.vaBytes root .read (256 * n) 256,
    bad := (List.range 2).filter fun h => s.badVa root .read (256 * n + 128 * h) 128 }

/-- STREAM_SEGMENT_FILL (R251, R253): the missing segments are filled, and the team's instruction is replayed. A fill whose translation has
been lost meanwhile waits for the host's answer. (DESIGN CHOICE, log 34.) -/
def execStreamSegmentFill (team : Nat) (s : State) : Out :=
  ofEvent (match aget s.teams team with
    | none => none
    | some x => if !s.resident team x then none else match x.park with
      | some (.segment segs) =>
        let root := s.rootOf x.launch
        let c := s.core x.core
        match segs.findSome? fun n => s.faultIn root (256 * n) 256 .read with
        | some (k, va) =>
          some (if x.deniedAt va then s.putTeam team { x with park := none }
            else (s.raiseFault (dieOf x.core) x.launch (.team team) k va).putTeam team { x with park := some .fault })
        | none =>
        let s := segs.foldl (fun (z : State) n => z.cache root (256 * n) 256 .read) s
        some ((s.putCore x.core { c with segs := c.segs ++ segs.map (s.segment root) }).putTeam team { x with park := none })
      | _ => none)

end Sys2Proof.Machine
end

