-- ==== Sys2Proof/Machine/Walk.lean ====
section
/-!
DEFINITION. Node engine walks, majors 0x64 to 0x66: EMBED, DESCEND, SIDEAPP, SIDEPUB, SCATRED, the end of a walk and a
reduction at its owner (R297 to R319).
-/

namespace Sys2Proof.Machine

/-- The walk trap of a record or a side list (R298, R343). -/
def walkTrap (sub off field : Nat) : Report :=
  { Report.plain 13 sub with info0 := BitVec.ofNat 32 off, info1 := BitVec.ofNat 32 field }

/-- A copy address of a record is in a space of a list, is aligned, and n bytes from it lie within an .sh or .sp space (R298
subcode 4). -/
def State.walkAddrOk (s : State) (x : Team) (v : BitVec 64) (spaces : List Nat) (align n : Nat) : Bool :=
  spaces.contains (bits v 63 60) && (match s.resolveAddr x.cluster x.core v with
    | some l => l.addr % align == 0 && s.inSpace x.launch l n
    | none => false)

/-- The EMBED record (R303). -/
def parseEmbed (bs : List Byte) : EmbedRec :=
  let c := word32 bs 0
  { pool := bits c 1 0, tfmt := bits c 4 2, ofmt := bits c 6 5, n := nat32 bs 12, table := word64 bs 16,
    indices := word64 bs 24, offsets := word64 bs 32, out := word64 bs 40, status := word64 bs 48, bags := nat32 bs 56,
    rows := nat32 bs 60 }

/-- The checks of EMBED behind its record's place (R298, R303). -/
def State.embedChecks (s : State) (x : Team) (bs : List Byte) (r : EmbedRec) : List Bad :=
  failing
    [(bits (word32 bs 0) 31 7 == 0, 1, 0),
     (r.pool != 3, 3, 0), (decide (r.tfmt ≤ 4), 3, 0), (r.ofmt != 3, 3, 0),
     (s.walkAddrOk x r.table [0] 4 0, 4, 16), (s.walkAddrOk x r.indices [0, 1, 3] 4 0, 4, 24),
     (s.walkAddrOk x r.offsets [0, 1, 3] 4 (4 * (r.bags + 1)), 4, 32),
     (s.walkAddrOk x r.out [0, 1, 2, 3] 4 (r.bags * r.ob), 4, 40),
     (s.walkAddrOk x r.status [1, 3] 8 8, 4, 48),
     ((s.counterLoc x.launch x.cluster x.core (word32 bs 4)).isSome, 5, 4),
     (decide (1 ≤ r.n) && decide (r.n ≤ 1024), 6, 12),
     (r.rb % 4 == 0 && decide (r.rb ≤ 4096) && r.ob % 4 == 0, 6, 12),
     (decide (1 ≤ r.bags) && decide (r.bags ≤ 2 ^ 24), 6, 56), (decide (1 ≤ r.rows), 6, 60)]

/-- The DESCEND record (R306). -/
def parseDescend (bs : List Byte) : DescendRec :=
  let c := word32 bs 12
  { graph := word32 bs 0, slot := bits c 2 0, metric := bits c 3 3, child := bits c 7 4, item := bits c 11 8,
    beam := bits c 15 12 + 1, topk := bits c 21 16 + 1, queries := word64 bs 16, results := word64 bs 24,
    root := nat32 bs 32, count := nat32 bs 36, status := word64 bs 40, side := word64 bs 48 }

/-- The checks of DESCEND behind its graph handle (R298, R306); a root beyond the graph is a number out of range (DEDUCED, log 17). -/
def State.descendChecks (s : State) (x : Team) (g : Graph) (bs : List Byte) (r : DescendRec) : List Bad :=
  let f := g.slot r.slot
  failing
    [(fmtFloat f.1, 3, 12), (r.child != r.item, 3, 12),
     (s.walkAddrOk x r.queries [0, 1, 3] 4 (4 * f.2 * r.count), 4, 16),
     (s.walkAddrOk x r.results [0, 1, 2, 3] 4 (8 * r.topk * r.count), 4, 24),
     (s.walkAddrOk x r.status [1, 3] 8 8, 4, 40),
     ((s.counterLoc x.launch x.cluster x.core (word32 bs 4)).isSome, 5, 4),
     (decide (r.root < g.count), 6, 32), (decide (1 ≤ r.count) && decide (r.count ≤ 2 ^ 16), 6, 36),
     (r.side == 0#64 || s.walkAddrOk x r.side [0] 64 0, 7, 48)]

/-- A walk as it takes its slot: its destination, its units, its counter (R299, R300). -/
def State.walkCopy (s : State) (x : Team) (kind : SlotKind) (out : BitVec 64) (len total : Nat) (bs : List Byte) : Copy :=
  { handle := 0#32, launch := x.launch, cluster := x.cluster, kind := kind,
    dst := (s.resolveAddr x.cluster x.core out).getD ⟨.main, 0⟩, len := len, total := total,
    counter := (s.counterLoc x.launch x.cluster x.core (word32 bs 4)).getD .none, incr := word32 bs 8, range := 0 }

/-- A walk has been accepted: its handle is the result, and its flag is taken (R299). (DEDUCED, log 46.) -/
def State.walkTaken (s : State) (t : Nat) (d : Field) (core : Nat) (h : Word) : State :=
  match aget s.teams t with
  | some x => s.putTeam t ((x.uniform d h).attach (.walk core h))
  | none => s

/-- A descent takes its wave place and its number in the sequencer order (R310). -/
def State.placeDescend (s : State) (x : Team) (c : Copy) : Copy × State :=
  match c.kind, s.wavePlace with
  | .descend r _ pub, some place =>
    let w : Wave :=
      { seqNo := s.waveNo, handle := BitVec.ofNat 26 s.waveNo ++ BitVec.ofNat 6 place, op := .descend,
        graph := bits r.graph 5 0, launch := x.launch, cluster := x.cluster, core := x.core,
        wrec := { control := BitVec.ofNat 32 r.slot }, counter := .none, incr := 0#32 }
    ({ c with kind := .descend r place pub }, { s with waveNo := s.waveNo + 1 }.putWave place w)
  | _, _ => (c, s)

/-- A descent names a graph that has been unbound since its record was read (R282). (DEDUCED, log 17.) -/
def State.graphGone (s : State) (x : Team) (c : Copy) : Bool :=
  match c.kind with
  | .descend r _ _ => (s.graphOf x.launch r.graph).isNone
  | _ => false

/-- A walk takes its slot, its range and its wave place, or its team waits for them (R194, R195, R299, R310). A descent that is to be
accepted after its graph's GUNBIND takes the trap of a stale handle (R282, R298; DEDUCED, log 17). -/
def walkRelease (t : Nat) (x : Team) (d : Field) (off : Nat) (c : Copy) (s : State) : Act :=
  if s.graphGone x c then .trap (walkTrap 2 off 0)
  else if s.slotReady x.core c && s.placeFor c then
    let p := s.placeDescend x c
    .next (((p.2.startCopy x.core p.1).putTeam t { x with todo := {} }).walkTaken t d x.core c.handle)
  else .wait .slot (s.putTeam t { x with todo := { copies := [c], handle := c.handle, begun := true } })

/-- What a walk instruction does once its record has passed its checks: dusk.die, its handle, its slot (R299). -/
def walkAccept (t : Nat) (x : Team) (d : Field) (off : Nat) (c : Copy) (s : State) : Act :=
  withDusk t x s fun s =>
    let q := s.takeHandles x.core 1
    walkRelease t x d off { c with handle := q.1 } q.2

/-- A walk instruction (R297 to R299): a walk that waits for its slot goes on; else its record is read and checked. -/
def walkBody (d a : Field) (check : Nat → List Byte → State → Sum Report Copy) : Body := fun t x s =>
  if x.mz then .next s else
  let off := (x.rdFirst 0 a).toNat
  match x.todo.copies with
  | c :: _ => walkRelease t x d off c s
  | [] =>
    if !s.recordAt x off then .trap (walkTrap 1 off 0) else
    withRecord x s off fun bs => match check off bs s with
      | .inl r => .trap r
      | .inr c => walkAccept t x d off c s

/-- EMBED (R303 to R305). -/
def execEmbed (d a : Field) (s : State) : Out :=
  issue (.embed d a) s fun t x s => walkBody d a (fun off bs s =>
    let r := parseEmbed bs
    match worst (s.embedChecks x bs r) with
    | some b => .inl (walkTrap b.1 off b.2)
    | none => .inr (s.walkCopy x (.embed r) r.out (r.bags * r.ob) r.bags bs)) t x s

/-- DESCEND (R306 to R310). -/
def execDescend (d a : Field) (s : State) : Out :=
  issue (.descend d a) s fun t x s => walkBody d a (fun off bs s =>
    let r := parseDescend bs
    if bits (word32 bs 12) 31 22 ≠ 0 then .inl (walkTrap 1 off 12)
    else if !zeroBytes bs 56 64 then .inl (walkTrap 1 off 56)
    else match s.graphOf x.launch r.graph with
      | none => .inl (walkTrap 2 off 0)
      | some p =>
        match worst (s.descendChecks x (s.graph p) bs r) with
        | some b => .inl (walkTrap b.1 off b.2)
        | none => .inr (s.walkCopy x (.descend r 0 []) r.results (8 * r.topk * r.count) r.count bs)) t x s

/-- WALK_END (R299, R300): a walk whose units have all landed, or that has failed, ends. -/
def execWalkEnd (core slot : Nat) (s : State) : Out :=
  let key := core * 1024 + slot
  ofEvent (match aget s.copies key with
    | none => none
    | some c => match c.kind with
      | .copy _ => none
      | _ => if c.over && s.itsCompletion c.range then some (s.endWalk key c) else none)

/-- An access of a side-list instruction to main memory goes on once n bytes translate for each of its accesses; a list that
cannot be reached is an illegal list (R312, DEDUCED, log 17). It is performed also where the channel has lost its engine (DEDUCED, log 40). -/
def withSide (t : Nat) (x : Team) (s : State) (va n : Nat) (how : List Access) (bad : Report) (k : State → Act) : Act :=
  let root := s.rootOf x.launch
  if (touched va n).any fun v => x.deniedAt v || s.codePage root v then .trap bad else
  match how.findSome? (s.faultIn root va n) with
  | some (kind, v) => .wait .fault (s.raiseFault (dieOf x.core) x.launch (.team t) kind v)
  | none => k (how.foldl (fun s a => s.cache root va n a) s)

/-- The address of a side list is legal (R312). (DEDUCED, log 17.) -/
def sideOk (v : BitVec 64) : Bool := bits v 63 52 == 0 && bits v 5 0 == 0

/-- A field of a side list's header (R311). -/
def State.sideField (s : State) (root : BitVec 48) (va o : Nat) : Nat := leNat (s.vaBytes root .read (va + o) 4)

/-- SIDEAPP (R312, R313): the entry is written before Appended counts it. -/
def execSideapp (d a b : Field) (s : State) : Out :=
  issue (.sideapp d a b) s fun t x s =>
    if x.mz then .next s else
    let v : BitVec 64 := x.rdFirst 0 a 1 ++ x.rdFirst 0 a 0
    let off := (x.rdFirst (litCount [a]) b).toNat
    let bad := walkTrap 7 off 0
    if !sideOk v || off % 32 ≠ 0 then .trap bad else
    let va := v.toNat
    let root := s.rootOf x.launch
    withSide t x s va 64 [.read, .write] bad fun s =>
      let eb := s.sideField root va 12
      if s.sharedOf x.launch < off + eb then .trap bad else
      withShared x s off eb fun image =>
        let e := s.sideField root va 4
        if s.sideField root va 0 ≤ e then .next (s.putTeam t ((x.uniform d Word.ones).setZ false)) else
        withSide t x s (va + 64 + e * eb) eb [.write] bad fun s =>
          let s := (s.writeVa root (va + 64 + e * eb) image).writeVa root (va + 4) (leBytes 4 (e + 1))
          .next (s.putTeam t ((x.uniform d (BitVec.ofNat 32 e)).setZ true))

/-- SIDEPUB (R312). -/
def execSidepub (a : Field) (s : State) : Out :=
  issue (.sidepub a) s fun t x s =>
    if x.mz then .next s else
    let v : BitVec 64 := x.rdFirst 0 a 1 ++ x.rdFirst 0 a 0
    let bad := walkTrap 7 0 0
    if !sideOk v then .trap bad else
    let va := v.toNat
    let root := s.rootOf x.launch
    withSide t x s va 64 [.read, .write] bad fun s => .next (s.writeVa root (va + 8) (leBytes 4 (s.sideField root va 4)))

/-- The combining of two values by an op of SCATRED (R317). -/
def scatOp : ScatOp → Word → Word → Word
  | .addI32 => combineOp 1
  | .addF32 => combineOp 6
  | .minI32 => combineOp 2
  | .maxI32 => combineOp 3
  | .minF32 => combineOp 7
  | .maxF32 => combineOp 8

/-- The target of a lane is legal (R317). -/
def scatTarget (v : BitVec 64) : Bool :=
  bits v 1 0 == 0 && ((bits v 63 60 == 0 && bits v 59 52 == 0)
    || (bits v 63 60 == 3 && bits v 59 34 == 0 && decide (bits v 31 0 + 4 ≤ Config.scratchBytes)))

/-- The members of a list in a freely chosen order (R81: any order of the contributions). -/
def State.shuffle (s : State) : Nat → List Word → List Word × State
  | 0, l => (l, s)
  | n + 1, l =>
    let p := s.choose l.length
    match l[p.1]? with
    | none => (l, p.2)
    | some v =>
      let q := p.2.shuffle n (l.eraseIdx p.1)
      (v :: q.1, q.2)

/-- The contributions of an instruction: for each group, one per address with the values of its lanes, in ascending lane order
(R317, R325). -/
def Team.contributions (x : Team) (addr : Nat → BitVec 64) (val : Nat → Word) : List (Nat × List Word) :=
  (List.range x.groups).flatMap fun g =>
    let lanes := x.active.filter fun l => l / 32 == g
    ((lanes.map addr).eraseDups).map fun a => (a.toNat, (lanes.filter fun l => addr l == a).map val)

/-- Where a contribution goes (R318): it can be sent through an entry as a reduction; its translation has to wait; or it is
dropped. -/
inductive ScatRoute
  | to_ (dst : Endpoint) (k : PacketKind)
  | fault (kind va : Nat)
  | dropped

/-- The route of a contribution. -/
def State.scatRoute (s : State) (o : ScatOp) (x : Team) (a : Nat) (vs : List Word) : ScatRoute :=
  let va := BitVec.ofNat 64 a
  if bits va 63 60 = 3 then
    .to_ (sliceEnd (bits va 33 32) (bits va 31 0)) (.red o 3 (bits va 33 32) (bits va 31 0) 0#512 va vs)
  else
    let root := s.rootOf x.launch
    if x.deniedAt a || s.codePage root a then .dropped else
    match s.xlate root a .write with
    | .fault k => .fault k a
    | .ok e =>
      let pa := e.pa a
      .to_ (s.engineEnd (32 * (pa / 2 ^ 36 % 16) + pa / 2 ^ 31 % 32)) (.red o 0 0 pa (s.keyVal e.key) va vs)

/-- Sending contributions in order (R318, R325): all of them, or up to the one whose entry holds 0 or whose translation
faults. -/
def sendReds (o : ScatOp) (t : Nat) : List (Nat × List Word) → State → Act
  | [], s => match aget s.teams t with
    | some x => .next (s.putTeam t { x with todo := {} })
    | none => .next s
  | (a, v) :: r, s => match aget s.teams t with
    | none => .next s
    | some x =>
      let stay := { x with todo := { packets := (a, v) :: r, begun := true } }
      match s.scatRoute o x a v with
      | .dropped => sendReds o t r ((s.putTeam t { x with denied := [] }).dropRed t (BitVec.ofNat 64 a) 1)
      | .fault kind va => .wait .fault ((s.putTeam t stay).raiseFault (dieOf x.core) x.launch (.team t) kind va)
      | .to_ dst k =>
        let e := dst.router
        if s.allowance x.core e = 0 then .wait (.allowance e) (s.putTeam t stay)
        else sendReds o t r ((s.cache (s.rootOf x.launch) a 4 .write).send t x e dst k)

/-- SCATRED (R317, R318). -/
def execScatred (o : ScatOp) (a b : Field) (s : State) : Out :=
  issue (.scatred o a b) s fun t x s =>
    let addr := fun l => (x.rd 0 a 1 l ++ x.rd 0 a 0 l : BitVec 64)
    if x.todo.begun then sendReds o t x.todo.packets s else
    match x.active.find? fun l => !scatTarget (addr l) with
    | some l => .trap { Report.plain 13 4 with lane := BitVec.ofNat 32 l }
    | none => sendReds o t (x.contributions addr fun l => x.rd (litCount [a]) b 0 l) s

/-- A reduction may perform at its owner (R180, R183, R318): in .sp once every watermark has passed its bytes and no other
team holds the word's lock bit. -/
def State.redReady (s : State) (t space die a : Nat) : Bool :=
  space == 0 || ((List.range 4).all (fun i => s.landingStore (.sp die) (a + i)) && s.lockFree die t (lockOf a))

/-- The add.f32 reductions on a word whose order with a packet sent at a moment is open (R81): those that performed after it was sent, newest first,
each on the value that the one before left. (DEDUCED, log 10.) -/
def openSums (since : Nat) : Word → List SumNote → List SumNote
  | w, n :: r => if n.after == w && decide (since < n.time) then n :: openSums since n.before r else []
  | _, [] => []

/-- What a contribution's lane values bring to a sum (R317): the values one by one, or the one value that the group combiner has made of them,
in any order; the choice is free. (DESIGN CHOICE, log 3.) (DEDUCED, log 10.) -/
def State.grouped (s : State) (vs : List Word) : List Word × State :=
  let p := s.choose (if vs.length < 2 then 1 else 2)
  if p.1 = 0 then (vs, p.2) else
  let q := p.2.shuffle vs.length vs
  ([q.1.tail.foldl (scatOp .addF32) (q.1.headD 0#32)], q.2)

/-- What contributions bring to a sum. (DEDUCED, log 10.) -/
def State.summands (s : State) : List (List Word) → List Word × State
  | [] => ([], s)
  | v :: r =>
    let p := s.grouped v
    let q := p.2.summands r
    (p.1 ++ q.1, q.2)

/-- The new value of a word that lane values reduce (R81, R317), and the state after the choice of an order: a sum takes what
every reduction whose order is open brings in any order, each addition rounded. (DEDUCED, log 10.) -/
def State.reduced (s : State) (o : ScatOp) (space die a since : Nat) (w : Word) (vs : List Word) : Word × State :=
  let here := fun (n : SumNote) => n.space == space && n.die == die && n.addr == a
  if o ≠ .addF32 then (vs.foldl (scatOp o) w, { s with sums := s.sums.filter (!here ·) }) else
  let l := openSums since w (s.sums.filter here)
  let base := (l.getLast?.map (·.before)).getD w
  let p := s.summands (l.map (·.values) ++ [vs])
  let q := p.2.shuffle p.1.length p.1
  let v := q.1.foldl (scatOp o) base
  let live := q.2.sums.filter fun n => q.2.packets.any fun p => decide (p.2.since < n.time)
  (v, { q.2 with
    sums := { space := space, die := die, addr := a, time := q.2.nextId, before := w, after := v, values := vs } :: live })

/-- A reduction performs at its owner, or is dropped there because of its block's form (R317, R319). -/
def State.reduce (s : State) (p : Packet) (o : ScatOp) (space die a : Nat) (key : BitVec 512) (va : BitVec 64) (vs : List Word) : State :=
  if space = 0 then
    if (aget s.forms (a / 4096)).isSome then s.dropRed p.team va 2
    else
      let q := s.reduced o space die a p.since (leWord (bytesAt (s.plainByte key) a 4)) vs
      { q.2.writeUnder key (cellsAt a (leBytes 4 q.1.toNat)) with sums := q.2.sums }
  else
    let q := s.reduced o space die a p.since (s.spWord die a) vs
    { q.2.publishAtomic die (some p.core) false p.since (cellsAt a (leBytes 4 q.1.toNat)) with sums := q.2.sums }

/-- REDUCTION_AT_OWNER (R317 to R319). -/
def execReductionAtOwner (packet : Nat) (s : State) : Out :=
  ofEvent (match aget s.packets packet with
    | none => none
    | some p => match p.kind with
      | .red o space die a key va vs =>
        if s.mayArrive packet p && s.redReady p.team space die a then some ((s.arrive packet p).reduce p o space die a key va vs)
        else none
      | _ => none)

end Sys2Proof.Machine
end

