-- ==== Sys2Proof/Machine/Dispatch.lean ====
section
/-!
DEFINITION. What each instruction does: one arm per constructor of Instr, each a direct call of its meaning.
-/

namespace Sys2Proof.Machine

def exec (i : Instr) (s : State) : Host.Outcome State Fault Refusal :=
  match i with
  | .clauseStart wait setA setB len lits region => Sys2Proof.Machine.execClauseStart wait setA setB len lits region s
  | .nop => Sys2Proof.Machine.execNop s
  | .halt => Sys2Proof.Machine.execHalt s
  | .bCond c off => Sys2Proof.Machine.execBCond c off s
  | .bMask c off => Sys2Proof.Machine.execBMask c off s
  | .call off => Sys2Proof.Machine.execCall off s
  | .ret a => Sys2Proof.Machine.execRet a s
  | .callr d a => Sys2Proof.Machine.execCallr d a s
  | .br a => Sys2Proof.Machine.execBr a s
  | .cmpu t a b => Sys2Proof.Machine.execCmpu t a b s
  | .mpush d p => Sys2Proof.Machine.execMpush d p s
  | .melse sx p => Sys2Proof.Machine.execMelse sx p s
  | .mpop sx => Sys2Proof.Machine.execMpop sx s
  | .yield => Sys2Proof.Machine.execYield s
  | .yieldF a b => Sys2Proof.Machine.execYieldF a b s
  | .yieldC d a b => Sys2Proof.Machine.execYieldC d a b s
  | .yieldParkResume team => Sys2Proof.Machine.execYieldParkResume team s
  | .winbase base => Sys2Proof.Machine.execWinbase base s
  | .stgpost a q => Sys2Proof.Machine.execStgpost a q s
  | .stgtake d q => Sys2Proof.Machine.execStgtake d q s
  | .stageRingResume team => Sys2Proof.Machine.execStageRingResume team s
  | .idr f d => Sys2Proof.Machine.execIdr f d s
  | .cycles hi d => Sys2Proof.Machine.execCycles hi d s
  | .retired hi d => Sys2Proof.Machine.execRetired hi d s
  | .regionPc d => Sys2Proof.Machine.execRegionPc d s
  | .regionCount d => Sys2Proof.Machine.execRegionCount d s
  | .add d a b => Sys2Proof.Machine.execAdd d a b s
  | .sub d a b => Sys2Proof.Machine.execSub d a b s
  | .addc d a b => Sys2Proof.Machine.execAddc d a b s
  | .subc d a b => Sys2Proof.Machine.execSubc d a b s
  | .adds t d a b => Sys2Proof.Machine.execAdds t d a b s
  | .subs t d a b => Sys2Proof.Machine.execSubs t d a b s
  | .mul d a b => Sys2Proof.Machine.execMul d a b s
  | .mulhI32 d a b => Sys2Proof.Machine.execMulhI32 d a b s
  | .mulhN32 d a b => Sys2Proof.Machine.execMulhN32 d a b s
  | .mulwI32 d a b => Sys2Proof.Machine.execMulwI32 d a b s
  | .mulwN32 d a b => Sys2Proof.Machine.execMulwN32 d a b s
  | .mad d a b => Sys2Proof.Machine.execMad d a b s
  | .madhI32 d a b => Sys2Proof.Machine.execMadhI32 d a b s
  | .madhN32 d a b => Sys2Proof.Machine.execMadhN32 d a b s
  | .divstepN32 d a => Sys2Proof.Machine.execDivstepN32 d a s
  | .divstepI32 d a b => Sys2Proof.Machine.execDivstepI32 d a b s
  | .and d a b => Sys2Proof.Machine.execAnd d a b s
  | .or d a b => Sys2Proof.Machine.execOr d a b s
  | .xor d a b => Sys2Proof.Machine.execXor d a b s
  | .andn d a b => Sys2Proof.Machine.execAndn d a b s
  | .orn d a b => Sys2Proof.Machine.execOrn d a b s
  | .xnor d a b => Sys2Proof.Machine.execXnor d a b s
  | .not d a => Sys2Proof.Machine.execNot d a s
  | .shl d a b => Sys2Proof.Machine.execShl d a b s
  | .shrN32 d a b => Sys2Proof.Machine.execShrN32 d a b s
  | .shrI32 d a b => Sys2Proof.Machine.execShrI32 d a b s
  | .rotl d a b => Sys2Proof.Machine.execRotl d a b s
  | .rotr d a b => Sys2Proof.Machine.execRotr d a b s
  | .minI32 d a b => Sys2Proof.Machine.execMinI32 d a b s
  | .maxI32 d a b => Sys2Proof.Machine.execMaxI32 d a b s
  | .minN32 d a b => Sys2Proof.Machine.execMinN32 d a b s
  | .maxN32 d a b => Sys2Proof.Machine.execMaxN32 d a b s
  | .absI32 d a => Sys2Proof.Machine.execAbsI32 d a s
  | .setc c d a b => Sys2Proof.Machine.execSetc c d a b s
  | .sel d a b => Sys2Proof.Machine.execSel d a b s
  | .popc d a => Sys2Proof.Machine.execPopc d a s
  | .clz d a => Sys2Proof.Machine.execClz d a s
  | .ctz d a => Sys2Proof.Machine.execCtz d a s
  | .brev d a => Sys2Proof.Machine.execBrev d a s
  | .bfxN32 d a b => Sys2Proof.Machine.execBfxN32 d a b s
  | .bfxI32 d a b => Sys2Proof.Machine.execBfxI32 d a b s
  | .bfi d a b => Sys2Proof.Machine.execBfi d a b s
  | .prm d a b => Sys2Proof.Machine.execPrm d a b s
  | .lea sx d a b => Sys2Proof.Machine.execLea sx d a b s
  | .mov d a => Sys2Proof.Machine.execMov d a s
  | .movi d imm => Sys2Proof.Machine.execMovi d imm s
  | .movhi d imm => Sys2Proof.Machine.execMovhi d imm s
  | .shfl f d a b => Sys2Proof.Machine.execShfl f d a b s
  | .vote f d a => Sys2Proof.Machine.execVote f d a s
  | .red o d a => Sys2Proof.Machine.execRed o d a s
  | .scan o d a => Sys2Proof.Machine.execScan o d a s
  | .fadd d a b => Sys2Proof.Machine.execFadd d a b s
  | .fsub d a b => Sys2Proof.Machine.execFsub d a b s
  | .fmul d a b => Sys2Proof.Machine.execFmul d a b s
  | .ffma d a b => Sys2Proof.Machine.execFfma d a b s
  | .ffms d a b => Sys2Proof.Machine.execFfms d a b s
  | .ffnma d a b => Sys2Proof.Machine.execFfnma d a b s
  | .ffnms d a b => Sys2Proof.Machine.execFfnms d a b s
  | .fmin d a b => Sys2Proof.Machine.execFmin d a b s
  | .fmax d a b => Sys2Proof.Machine.execFmax d a b s
  | .fminm d a b => Sys2Proof.Machine.execFminm d a b s
  | .fmaxm d a b => Sys2Proof.Machine.execFmaxm d a b s
  | .fabs d a => Sys2Proof.Machine.execFabs d a s
  | .fneg d a => Sys2Proof.Machine.execFneg d a s
  | .fcmp c d a b => Sys2Proof.Machine.execFcmp c d a b s
  | .frcp d a => Sys2Proof.Machine.execFrcp d a s
  | .frsq d a => Sys2Proof.Machine.execFrsq d a s
  | .fsqrt d a => Sys2Proof.Machine.execFsqrt d a s
  | .fexp2 d a => Sys2Proof.Machine.execFexp2 d a s
  | .flog2 d a => Sys2Proof.Machine.execFlog2 d a s
  | .ftanh d a => Sys2Proof.Machine.execFtanh d a s
  | .hadd2F16 d a b => Sys2Proof.Machine.execHadd2F16 d a b s
  | .hmul2F16 d a b => Sys2Proof.Machine.execHmul2F16 d a b s
  | .hfma2F16 d a b => Sys2Proof.Machine.execHfma2F16 d a b s
  | .hadd2Bf16 d a b => Sys2Proof.Machine.execHadd2Bf16 d a b s
  | .hmul2Bf16 d a b => Sys2Proof.Machine.execHmul2Bf16 d a b s
  | .hfma2Bf16 d a b => Sys2Proof.Machine.execHfma2Bf16 d a b s
  | .hmin2F16 d a b => Sys2Proof.Machine.execHmin2F16 d a b s
  | .hmax2F16 d a b => Sys2Proof.Machine.execHmax2F16 d a b s
  | .hmin2Bf16 d a b => Sys2Proof.Machine.execHmin2Bf16 d a b s
  | .hmax2Bf16 d a b => Sys2Proof.Machine.execHmax2Bf16 d a b s
  | .cvtToF32 sx d a => Sys2Proof.Machine.execCvtToF32 sx d a s
  | .cvtFromF32 sx d a => Sys2Proof.Machine.execCvtFromF32 sx d a s
  | .qpack t d a b => Sys2Proof.Machine.execQpack t d a b s
  | .qunpack t d a b => Sys2Proof.Machine.execQunpack t d a b s
  | .fmtset d a => Sys2Proof.Machine.execFmtset d a s
  | .fmode d a => Sys2Proof.Machine.execFmode d a s
  | .ldSh w d a off => Sys2Proof.Machine.execLdSh w d a off s
  | .stSh w d a off => Sys2Proof.Machine.execStSh w d a off s
  | .ldSp w d a off => Sys2Proof.Machine.execLdSp w d a off s
  | .stSp w d a off => Sys2Proof.Machine.execStSp w d a off s
  | .ldSt w d a off => Sys2Proof.Machine.execLdSt w d a off s
  | .stSt w d a off => Sys2Proof.Machine.execStSt w d a off s
  | .ldlk d a off => Sys2Proof.Machine.execLdlk d a off s
  | .stul d a off => Sys2Proof.Machine.execStul d a off s
  | .atomSh o d a off => Sys2Proof.Machine.execAtomSh o d a off s
  | .atomSp o d a off => Sys2Proof.Machine.execAtomSp o d a off s
  | .atomLockWaitResume team => Sys2Proof.Machine.execAtomLockWaitResume team s
  | .dusk sx => Sys2Proof.Machine.execDusk sx s
  | .dawn sx => Sys2Proof.Machine.execDawn sx s
  | .duskStallRelease team => Sys2Proof.Machine.execDuskStallRelease team s
  | .idleRefresh core => Sys2Proof.Machine.execIdleRefresh core s
  | .loadCompletion team => Sys2Proof.Machine.execLoadCompletion team s
  | .stackFillComplete team => Sys2Proof.Machine.execStackFillComplete team s
  | .landingLoadResume team => Sys2Proof.Machine.execLandingLoadResume team s
  | .landingStoreResume team => Sys2Proof.Machine.execLandingStoreResume team s
  | .cstage d a => Sys2Proof.Machine.execCstage d a s
  | .cstageArg d a b => Sys2Proof.Machine.execCstageArg d a b s
  | .copyRelease team => Sys2Proof.Machine.execCopyRelease team s
  | .copyLanding range => Sys2Proof.Machine.execCopyLanding range s
  | .copyOverlapRelease range => Sys2Proof.Machine.execCopyOverlapRelease range s
  | .copyCompletion core slot => Sys2Proof.Machine.execCopyCompletion core slot s
  | .copyDeregistration range => Sys2Proof.Machine.execCopyDeregistration range s
  | .copyDeadline core slot => Sys2Proof.Machine.execCopyDeadline core slot s
  | .cwait a b => Sys2Proof.Machine.execCwait a b s
  | .counterPoll team => Sys2Proof.Machine.execCounterPoll team s
  | .cread d a => Sys2Proof.Machine.execCread d a s
  | .wmread d a => Sys2Proof.Machine.execWmread d a s
  | .cstat d a => Sys2Proof.Machine.execCstat d a s
  | .balloc d a b => Sys2Proof.Machine.execBalloc d a b s
  | .bref a => Sys2Proof.Machine.execBref a s
  | .bfree a => Sys2Proof.Machine.execBfree a s
  | .barrive d a => Sys2Proof.Machine.execBarrive d a s
  | .bexpect a b => Sys2Proof.Machine.execBexpect a b s
  | .bwait d a b => Sys2Proof.Machine.execBwait d a b s
  | .barrierTimeout die index => Sys2Proof.Machine.execBarrierTimeout die index s
  | .barrierToken handle presence => Sys2Proof.Machine.execBarrierToken handle presence s
  | .mmq b a v => Sys2Proof.Machine.execMmq b a v s
  | .mmqs j b a v => Sys2Proof.Machine.execMmqs j b a v s
  | .mmc b a v => Sys2Proof.Machine.execMmc b a v s
  | .mxfence => Sys2Proof.Machine.execMxfence s
  | .mxzero b e => Sys2Proof.Machine.execMxzero b e s
  | .mxread d b v => Sys2Proof.Machine.execMxread d b v s
  | .mxwrite b a v => Sys2Proof.Machine.execMxwrite b a v s
  | .mxsmax d b v => Sys2Proof.Machine.execMxsmax d b v s
  | .mxrescale b v => Sys2Proof.Machine.execMxrescale b v s
  | .mxsum d b => Sys2Proof.Machine.execMxsum d b s
  | .arrayPass core => Sys2Proof.Machine.execArrayPass core s
  | .spcmp d a v => Sys2Proof.Machine.execSpcmp d a v s
  | .mdload k a => Sys2Proof.Machine.execMdload k a s
  | .mdread d k => Sys2Proof.Machine.execMdread d k s
  | .sopen sx a b => Sys2Proof.Machine.execSopen sx a b s
  | .snext sx => Sys2Proof.Machine.execSnext sx s
  | .sskip sx b => Sys2Proof.Machine.execSskip sx b s
  | .sisect d a b => Sys2Proof.Machine.execSisect d a b s
  | .sunion d a b => Sys2Proof.Machine.execSunion d a b s
  | .scrd d sx => Sys2Proof.Machine.execScrd d sx s
  | .spos d sx => Sys2Proof.Machine.execSpos d sx s
  | .partn d a b => Sys2Proof.Machine.execPartn d a b s
  | .streamSegmentFill team => Sys2Proof.Machine.execStreamSegmentFill team s
  | .gbind d a => Sys2Proof.Machine.execGbind d a s
  | .gunbind a => Sys2Proof.Machine.execGunbind a s
  | .mark d a => Sys2Proof.Machine.execMark d a s
  | .clear d a => Sys2Proof.Machine.execClear d a s
  | .prop d a => Sys2Proof.Machine.execProp d a s
  | .propf d a => Sys2Proof.Machine.execPropf d a s
  | .waveq d a => Sys2Proof.Machine.execWaveq d a s
  | .collect d a => Sys2Proof.Machine.execCollect d a s
  | .collectg d a => Sys2Proof.Machine.execCollectg d a s
  | .ncount d a => Sys2Proof.Machine.execNcount d a s
  | .waveAcceptance team => Sys2Proof.Machine.execWaveAcceptance team s
  | .waveStart place => Sys2Proof.Machine.execWaveStart place s
  | .waveHopCommit place => Sys2Proof.Machine.execWaveHopCommit place s
  | .propfDelivery place => Sys2Proof.Machine.execPropfDelivery place s
  | .waveEnd place => Sys2Proof.Machine.execWaveEnd place s
  | .engineResidueMismatch engine second => Sys2Proof.Machine.execEngineResidueMismatch engine second s
  | .sequencerTakeover => Sys2Proof.Machine.execSequencerTakeover s
  | .embed d a => Sys2Proof.Machine.execEmbed d a s
  | .descend d a => Sys2Proof.Machine.execDescend d a s
  | .sideapp d a b => Sys2Proof.Machine.execSideapp d a b s
  | .sidepub a => Sys2Proof.Machine.execSidepub a s
  | .walkEnd core slot => Sys2Proof.Machine.execWalkEnd core slot s
  | .scatred o a b => Sys2Proof.Machine.execScatred o a b s
  | .reductionAtOwner packet => Sys2Proof.Machine.execReductionAtOwner packet s
  | .amsend a b => Sys2Proof.Machine.execAmsend a b s
  | .saread d a => Sys2Proof.Machine.execSaread d a s
  | .satest a => Sys2Proof.Machine.execSatest a s
  | .spawn a b => Sys2Proof.Machine.execSpawn a b s
  | .spawnTimeout core => Sys2Proof.Machine.execSpawnTimeout core s
  | .childTeamStart core => Sys2Proof.Machine.execChildTeamStart core s
  | .activeMessageArrival src => Sys2Proof.Machine.execActiveMessageArrival src s
  | .handlerTeamStart core => Sys2Proof.Machine.execHandlerTeamStart core s
  | .allowanceCredit core entry window => Sys2Proof.Machine.execAllowanceCredit core entry window s
  | .flushMarkerAck team => Sys2Proof.Machine.execFlushMarkerAck team s
  | .linkReplayRequest link => Sys2Proof.Machine.execLinkReplayRequest link s
  | .linkOutOfService link => Sys2Proof.Machine.execLinkOutOfService link s
  | .auditFlit link => Sys2Proof.Machine.execAuditFlit link s
  | .auditReply link => Sys2Proof.Machine.execAuditReply link s
  | .launchMessage queue payload => Sys2Proof.Machine.execLaunchMessage queue payload s
  | .launchCheck queue => Sys2Proof.Machine.execLaunchCheck queue s
  | .clusterAdmission launch => Sys2Proof.Machine.execClusterAdmission launch s
  | .teamEnd team => Sys2Proof.Machine.execTeamEnd team s
  | .peerUnavailable queue peer => Sys2Proof.Machine.execPeerUnavailable queue peer s
  | .remoteWrite queue addr bytes => Sys2Proof.Machine.execRemoteWrite queue addr bytes s
  | .remoteRead queue addr len => Sys2Proof.Machine.execRemoteRead queue addr len s
  | .trap a => Sys2Proof.Machine.execTrap a s
  | .tret m => Sys2Proof.Machine.execTret m s
  | .trapVectorFetchResume team => Sys2Proof.Machine.execTrapVectorFetchResume team s
  | .ckpt => Sys2Proof.Machine.execCkpt s
  | .checkpointPlaneWrite team => Sys2Proof.Machine.execCheckpointPlaneWrite team s
  | .event a b => Sys2Proof.Machine.execEvent a b s
  | .tlbinv a b => Sys2Proof.Machine.execTlbinv a b s
  | .sysrd d n => Sys2Proof.Machine.execSysrd d n s
  | .syswr a n => Sys2Proof.Machine.execSyswr a n s
  | .clauseFetchResume team => Sys2Proof.Machine.execClauseFetchResume team s
  | .answerFault queue addr repaired => Sys2Proof.Machine.execAnswerFault queue addr repaired s
  | .preempt queue seq save => Sys2Proof.Machine.execPreempt queue seq save s
  | .restore queue seq moves => Sys2Proof.Machine.execRestore queue seq moves s
  | .invalidateRange queue addr pages => Sys2Proof.Machine.execInvalidateRange queue addr pages s
  | .enrolOwner sig newKey => Sys2Proof.Machine.execEnrolOwner sig newKey s
  | .updateFirmware sig image => Sys2Proof.Machine.execUpdateFirmware sig image s
  | .configureQueue sig queue cfg => Sys2Proof.Machine.execConfigureQueue sig queue cfg s
  | .loadKey sig slot key => Sys2Proof.Machine.execLoadKey sig slot key s
  | .unloadKey sig slot => Sys2Proof.Machine.execUnloadKey sig slot s
  | .attest nonce => Sys2Proof.Machine.execAttest nonce s
  | .reset sig => Sys2Proof.Machine.execReset sig s
  | .powerOn => Sys2Proof.Machine.execPowerOn s
  | .coreFailure core spare => Sys2Proof.Machine.execCoreFailure core spare s
  | .islandSleep island => Sys2Proof.Machine.execIslandSleep island s
  | .islandWake island => Sys2Proof.Machine.execIslandWake island s
  | .clockThrottle island mhz => Sys2Proof.Machine.execClockThrottle island mhz s
  | .peerIngressFlush flush => Sys2Proof.Machine.execPeerIngressFlush flush s
  | .crossModuleBarrierAccess handle op value => Sys2Proof.Machine.execCrossModuleBarrierAccess handle op value s
  | .otherDeliveryModePacket port => Sys2Proof.Machine.execOtherDeliveryModePacket port s

end Sys2Proof.Machine
end

