-- ==== Sys2Proof/Machine/Schedule.lean ====
section
/-!
DEFINITION. Who moves next: when a team is ready (R93), the greedy-then-oldest scheduler (R94) and the rotation of a
deterministic launch (R97), fetching a clause header or an instruction word (R41, R45, R49, R417), and the internal
events in the order in which the model tries them when nothing else moves (DESIGN CHOICE, log 1).
-/

namespace Sys2Proof.Machine

/-- A wait in which a team cannot issue its next instruction (R93): whether it can is asked again at every slot. -/
def Park.held : Park → Bool
  | .ring _ _ => true
  | .dusk _ => true
  | .allowance _ => true
  | .result => true
  | .capture => true
  | .translations => true
  | .owner _ => true
  | .spawn => true
  | .slot => true
  | .wave _ => true
  | .flush => true
  | _ => false

/-- A wait that ends without a step of its own: its condition holds no more (R93, R107). The other waits end by their own row
of the opcode table. -/
def State.parkOver (s : State) (t : Nat) (x : Team) : Park → Bool
  | .fault => s.noFill t
  | .flags mask _ => x.flagsClear mask
  | p => p.held

/-- The clause header that a team has to start (R42). -/
inductive Head
  | fault (kind va : Nat)
  | bad (word : Word) (sub : BitVec 4)
  | good (i : Instr)

/-- Reading the header of the next clause. -/
def State.head (s : State) (x : Team) : Head :=
  match s.clauseFault x.launch x.clause with
  | some (k, va) => .fault k va
  | none =>
    let w := s.codeWord x.launch x.clause
    match decodeHeader w with
    | .ok i => .good i
    | .error e => .bad w e.subcode

/-- The next clause can start, or its fetch or its check has something to report (R41, R42, R356). -/
def State.clauseReady (s : State) (x : Team) : Bool :=
  match s.head x with
  | .good (.clauseStart wait _ _ _ _ region) => x.flagsClear wait && (!region || (!x.capturing && x.late.isEmpty))
  | _ => true

/-- What holds a team's next instruction back (R93): the wait that it would enter with nothing done. run executes it. (DESIGN CHOICE, log 1.) -/
def State.trial (run : Instr → State → Out) (s : State) (t : Nat) : Option Park :=
  match aget s.teams t with
  | none => none
  | some x =>
    if !x.started then none else
    match decodeInstr x.word with
    | .error _ => none
    | .ok i => match run i { s with focus := some t } with
      | .next s' =>
        match aget s'.teams t with
        | some y =>
          let d := dieOf x.core
          let still := s'.nextId == s.nextId && (s'.die d).pubs.length == (s.die d).pubs.length && y.todo == x.todo
            && y.markers == x.markers
          y.park.filter fun p => p.held && still
        | none => none
      | _ => none

/-- A wait at which the turn of a deterministic rotation passes (R97). A wait that R97's table does not name holds the turn.
(DEDUCED, log 36.) -/
def Park.passes : Park → Bool
  | .ring _ _ => true
  | .flags _ _ => true
  | .counter _ _ _ => true
  | .allowance _ => true
  | _ => false

/-- How a team stands at an issue slot (R93, R97). -/
inductive Standing
  | ready
  /-- Not ready, and in a rotation its turn passes. -/
  | passes
  /-- Not ready. -/
  | holds
  deriving DecidableEq, Repr

/-- The standing of a team that a wait keeps from issuing. -/
def Park.standing (p : Park) : Standing := if p.passes then .passes else .holds

/-- How a team stands (R93). -/
def State.standing (run : Instr → State → Out) (s : State) (t : Nat) : Standing :=
  match aget s.teams t with
  | none => .holds
  | some x =>
    match x.park.filter fun p => !s.parkOver t x p with
    | some p => p.standing
    | none =>
      if !x.started then (if s.clauseReady x then .ready else .holds)
      else ((s.trial run t).map Park.standing).getD .ready

/-- A team is ready (R93). -/
def State.ready (run : Instr → State → Out) (s : State) (t : Nat) : Bool := s.standing run t == .ready

/-- A team whose next instruction is held back is seen to wait for that (R93), so that the row which ends that wait can occur. (DESIGN CHOICE, log 1.) -/
def State.notice (run : Instr → State → Out) (s : State) (t : Nat) : State :=
  match aget s.teams t with
  | none => s
  | some x =>
    if x.park.any fun p => !s.parkOver t x p then s else
    match s.trial run t with
    | some p => if x.park == some p then s else s.putTeam t { x with park := some p }
    | none => s

/-- Whom an issue slot goes to. -/
inductive Pick
  | team (t : Nat) (s : State)
  | empty (s : State)

/-- A team becomes current (R94). (DESIGN CHOICE, log 6.) -/
def State.makeCurrent (s : State) (n t : Nat) : State :=
  let c := s.core n
  if c.current == some t then s else
  s.putCore n { c with current := some t, issued := (aget c.paired t).getD 0, paired := adel c.paired t }

/-- The team that an issue slot goes to: in a rotation the one whose turn it is; else the current team while it is ready,
then the oldest ready one (R94, R97). (DESIGN CHOICE, log 1.) (DESIGN CHOICE, log 6.) -/
def State.pick (run : Instr → State → Out) (s : State) (n : Nat) : Pick :=
  let s := (s.core n).age.foldl (State.notice run) s
  let c := s.core n
  match c.rotation with
  | t :: _ =>
    match s.standing run t with
    | .ready => .team t (s.makeCurrent n t)
    | .passes => .empty (s.rotate n)
    | .holds => .empty s
  | [] =>
    match c.current with
    | some t =>
      if s.ready run t then .team t s
      else
        let s := s.leave n t
        match (s.core n).age.find? (s.ready run) with
        | some u => .team u (s.makeCurrent n u)
        | none => .empty s
    | none => match c.age.find? (s.ready run) with
      | some u => .team u (s.makeCurrent n u)
      | none => .empty s

/-- After a team's turn in a rotation the next team's comes, unless this one is held (R97). A clause start is no turn:
before says whether the team's clause had started. (DEDUCED, log 36.) -/
def State.turned (s : State) (n t : Nat) (before : Bool) : State :=
  if (s.core n).rotation.head? != some t then s else
  match aget s.teams t with
  | none => s
  | some x =>
    match x.park with
    | some p => if p.passes then s.rotate n else s
    | none => if x.started && !before then s else s.rotate n

/-- What fetching gives a team. -/
inductive Fetched
  | exec (i : Instr) (s : State)
  | moved (s : State)

/-- The team gets the issue slot and its next word is read from its clause, or the header of its next clause from memory;
what no instruction decodes from traps (R41, R45, R51, R417). -/
def State.fetched (s : State) (t : Nat) : Fetched :=
  match aget s.teams t with
  | none => .moved s
  | some x =>
    let s := { s with focus := some t }
    if x.started then
      match decodeInstr x.word with
      | .ok i => .exec i s
      | .error e => .moved (s.takeTrap t { Report.illegal e.subcode with word := x.word })
    else
      match s.head x with
      | .good i => .exec i s
      | .bad w sub => .moved (s.takeTrap t { Report.illegal sub with word := w })
      | .fault k va =>
        .moved (if x.deniedAt va then s.takeTrap t (Report.fetch x.clause)
                else s.parkFault t { x with park := none } .fetch k va)

/-- The team that has the issue slot executes its next word, or starts its next clause. -/
def State.teamStep (run : Instr → State → Out) (t : Nat) (s : State) : Out :=
  match s.fetched t with
  | .exec i s => run i s
  | .moved s => .next s

/-- The pipe an instruction goes to (R139, R158, the matrix class's table); none for an instruction outside both. -/
inductive Pipe
  | alu | fma | either
  deriving DecidableEq, Repr

/-- Pipes of the instructions that name one. -/
def pipeOf : Instr → Option Pipe
  | .mul _ _ _ => some .fma | .mulhI32 _ _ _ => some .fma | .mulhN32 _ _ _ => some .fma
  | .mulwI32 _ _ _ => some .fma | .mulwN32 _ _ _ => some .fma
  | .mad _ _ _ => some .fma | .madhI32 _ _ _ => some .fma | .madhN32 _ _ _ => some .fma
  | .fadd _ _ _ => some .either | .fsub _ _ _ => some .either | .fmul _ _ _ => some .either
  | .ffma _ _ _ => some .either | .ffms _ _ _ => some .either | .ffnma _ _ _ => some .either | .ffnms _ _ _ => some .either
  | .hadd2F16 _ _ _ => some .fma | .hmul2F16 _ _ _ => some .fma | .hfma2F16 _ _ _ => some .fma
  | .hadd2Bf16 _ _ _ => some .fma | .hmul2Bf16 _ _ _ => some .fma | .hfma2Bf16 _ _ _ => some .fma
  | .frcp _ _ => some .fma | .frsq _ _ => some .fma | .fsqrt _ _ => some .fma
  | .fexp2 _ _ => some .fma | .flog2 _ _ => some .fma | .ftanh _ _ => some .fma
  | .qpack _ _ _ _ => some .fma | .qunpack _ _ _ _ => some .fma
  | .mxread _ _ _ => some .alu | .spcmp _ _ _ => some .alu | .mdload _ _ => some .alu | .mdread _ _ => some .alu
  | i => if decide (0x10 ≤ majorOf i) && decide (majorOf i ≤ 0x32) then some .alu else none

/-- Two pipes differ; one that is either takes what the other leaves (R158). -/
def Pipe.differ : Pipe → Pipe → Bool
  | .alu, .alu => false
  | .fma, .fma => false
  | _, _ => true

/-- Banks read through window sources (R96): register W + n lies in bank (W + n) mod 8. -/
def Team.banks (x : Team) (i : Instr) : List Nat :=
  (((i.operands.filter (·.rd)).flatMap x.regsOf).filter (· < 256)).map (· % 8)

/-- Two instructions of two teams may issue in one slot of banking mode B (R96). -/
def mayPair (x y : Team) (i j : Instr) : Bool :=
  match pipeOf i, pipeOf j with
  | some p, some q => p.differ q && !(x.banks i).any (y.banks j).contains
  | _, _ => false

/-- A launch uses banking mode B (R85, R96). -/
def State.modeB (s : State) (launch : Nat) : Bool := ((s.record? launch).map fun r => r.flags.getLsbD 1).getD false

/-- The next instruction word of a team, decoded: at a clause header, which takes no slot (R49), the one behind it. (DESIGN CHOICE, log 6.) -/
def State.nextInstr (s : State) (x : Team) : Option Instr :=
  let w := if x.started then some x.word else match s.head x with
    | .good _ => some (s.codeWord x.launch (x.clause + 4#52))
    | _ => none
  w.bind fun w => match decodeInstr w with
    | .ok i => some i
    | .error _ => none

/-- The team whose next instruction issues beside that of the current team (R96): the oldest other ready one, where both run in
banking mode B and the two may pair. (DESIGN CHOICE, log 6.) -/
def State.partner (run : Instr → State → Out) (s : State) (n t : Nat) : Option Nat :=
  let c := s.core n
  if !c.rotation.isEmpty then none else
  (aget s.teams t).bind fun x =>
    if !(x.started && s.modeB x.launch) then none else
    (c.age.find? fun u => u != t && s.ready run u).bind fun u => (aget s.teams u).bind fun y =>
      if !s.modeB y.launch then none else
      match s.nextInstr x, s.nextInstr y with
      | some i, some j => if mayPair x y i j then some u else none
      | _, _ => none

/-- A team's own count of 64 goes on while it issues beside the current team (R96). -/
def State.pairing (s : State) (n u : Nat) : State :=
  let c := s.core n
  s.putCore n { c with paired := aput c.paired u ((aget c.paired u).getD 0) }

/-- The team that issues beside the current one executes (R96); a clause header in front of its instruction takes no slot (R49). (DESIGN CHOICE, log 6.) -/
def State.beside (run : Instr → State → Out) (s : State) (n u : Nat) : Out :=
  let go := fun (s : State) => if (s.core n).age.contains u && s.ready run u then (s.pairing n u).teamStep run u else .next s
  if (aget s.teams u).any (·.started) then go s else
  match s.teamStep run u with
  | .next s' => if (aget s'.teams u).any (·.started) then go s' else .next s'
  | o => o

/-- The issue slot of a core (R94, R96, R97): the team it goes to executes, and in banking mode B its partner after it; with no
ready team the slot is empty. (DESIGN CHOICE, log 1.) -/
def State.slot (run : Instr → State → Out) (s : State) (n : Nat) : Out :=
  match s.pick run n with
  | .empty s => .next s
  | .team t s =>
    match s.teamStep run t with
    | .next s' =>
      let s' := s'.turned n t ((aget s.teams t).any (·.started))
      (match s.partner run n t with
        | none => .next s'
        | some u => if (s'.core n).age.contains u && s'.ready run u then s'.beside run n u else .next s')
    | o => o

/-- The next core in turn that has a ready team, or a rotation to move on (DESIGN CHOICE, log 1). -/
def State.coreInTurn (run : Instr → State → Out) (s : State) : Option Nat :=
  let busy := (s.cores.filter fun c => match s.pick run c.1 with
    | .team _ _ => true
    | .empty t => t != s).map (·.1)
  match busy.find? (s.turn ≤ ·) with
  | some n => some n
  | none => busy.head?

/-- A slot in which loads do not perform yet begins, and ends (R168). (DESIGN CHOICE, log 6.) -/
def State.beginLate (s : State) : State := { s with lazy := true }

def State.endLate : Out → Out
  | .next s => .next { s with lazy := false }
  | o => o

/-- A storage error arises (R364, R365). (DESIGN CHOICE, log 42.) -/
def State.arise (s : State) (e : StorageErr) : State := if s.errors.contains e then s else { s with errors := s.errors ++ [e] }

/-- A count that saturates. -/
def satInc (w : Word) : Word := if w = Word.ones then w else w + 1#32

/-- A corrected error is counted: in CERR of a core, or in SERR of a stack (R294, R349, R365). (DESIGN CHOICE, log 42.) -/
def State.corrected (s : State) (stack : Bool) (n : Nat) : State :=
  if stack then (if n < 12 then { s with serr := tset zeros s.serr n (satInc (tget zeros s.serr n)) } else s)
  else s.putCore n { s.core n with cerr := satInc (s.core n).cerr }

/-- Events of a team. -/
def teamEvents (t : Nat) : List Instr :=
  [.counterPoll t, .yieldParkResume t, .stageRingResume t, .atomLockWaitResume t, .duskStallRelease t,
   .loadCompletion t, .stackFillComplete t, .landingLoadResume t, .landingStoreResume t, .copyRelease t,
   .streamSegmentFill t, .waveAcceptance t, .flushMarkerAck t, .teamEnd t, .trapVectorFetchResume t,
   .clauseFetchResume t, .checkpointPlaneWrite t]

/-- Events of a wave. -/
def waveEvents (p : Nat) : List Instr := [.waveStart p, .waveHopCommit p, .propfDelivery p, .waveEnd p]

/-- Events of a copy slot. -/
def copyEvents (c : Nat) : List Instr := [.copyCompletion (c / 1024) (c % 1024), .walkEnd (c / 1024) (c % 1024)]

/-- Events of a packet. -/
def packetEvents (p : Nat × Packet) : List Instr :=
  match p.2.kind with
  | .token h presence => [.barrierToken h presence]
  | _ => [.reductionAtOwner p.1, .activeMessageArrival (.packet p.1)]

/-- Events of a link: a replay or a link that is lost, and the answer to an audit flit (R335, R336). -/
def linkEvents (n : Nat) (l : Link) : List Instr :=
  (if l.missing.isSome then [.linkReplayRequest n, .linkOutOfService n] else []) ++ (if l.audit.isSome then [.auditReply n] else [])

/-- Credits that a core may get: for entries below 98 that do not hold their first value (R323). -/
def creditEvents (n : Nat) (c : Core) : List Instr :=
  (c.allow.filter fun e => decide (e.1 < 98)).map fun e => .allowanceCredit n e.1 none

/-- Sends held by the allowance of a peer class (R323, R325). -/
def heldEvents (x : Team) : List Instr :=
  match x.park with
  | some (.allowance e) => if 98 ≤ e then [.allowanceCredit x.core e none] else []
  | _ => []

/-- Events that start teams on a core. -/
def startEvents (c : Nat) : List Instr := [.handlerTeamStart c, .childTeamStart c, .spawnTimeout c]

/-- The internal events that may occur, in the order in which the model tries them when no core moves (DESIGN CHOICE, log 1). Events of
the outside, and the ones whose moment only a clock decides, are in the script alone. -/
def State.internal (s : State) : List Instr :=
  List.flatten
    [s.ranges.map fun r => Instr.copyOverlapRelease r.1,
     s.ranges.map fun r => Instr.copyLanding r.1,
     s.copies.flatMap fun c => copyEvents c.1,
     s.waves.flatMap fun w => waveEvents w.1,
     s.cores.map fun c => Instr.arrayPass c.1,
     s.packets.flatMap packetEvents,
     s.cores.flatMap fun c => creditEvents c.1 c.2,
     s.links.flatMap fun l => linkEvents l.1 l.2,
     s.teams.flatMap fun t => heldEvents t.2,
     s.teams.flatMap fun t => teamEvents t.1,
     s.ranges.map fun r => Instr.copyDeregistration r.1,
     s.cores.flatMap fun c => startEvents c.1,
     s.launches.map fun l => Instr.clusterAdmission l.1,
     s.queues.map fun q => Instr.launchCheck q.1,
     s.cores.map fun c => Instr.idleRefresh c.1]

end Sys2Proof.Machine
end

