-- ==== Sys2Proof/Machine/Program.lean ====
section
/-!
DEFINITION. Placing one instruction so that the next step runs it: this stands for the launch of a program (DESIGN CHOICE, log 1), with a
team of one lane on core 0, its clause in main memory and in its instruction buffer.
-/

namespace Sys2Proof.Machine

/-- The virtual and physical address of the placed clause. -/
def placeBase : Nat := 0x10000

/-- The launch record of the placed team. -/
def placeRecord : Record :=
  { version := 1, flags := 0#32, codeBase := BitVec.ofNat 64 placeBase, codeLen := 4096, entry := 0, argAddr := 0#64,
    argLen := 0, clusters := 1, teams := 1, lanes := 1, regs := 112, shared := 4096, rings := 1, chart := 0#64,
    ringSlots := [1], roles := 0#64, sched := 0#64, schedN := 0, atabN := 0, atab := 0#64, htab := 0#64, handlers := 0 }

/-- The clause that carries an instruction word as its last instruction word, with three literals of 0; a header word
stands before zeros. The next clause follows. -/
def placeWords (w : Word) : List Word :=
  if isHeader w then w :: List.replicate 16 0#32
  else [0xF000003C#32, w, 0#32, 0#32, 0#32, 0xF0000000#32, 0#32]

/-- The placed team: in the middle of its clause, or before it when the word is a header. -/
def placeTeam (launch : Nat) (w : Word) : Team :=
  { launch := launch, cluster := clusterKey launch 0, core := 0, tm := 0, role := 0, lanes := 1, regsN := 112,
    clause := 0#52, started := !isHeader w,
    words := if isHeader w then [] else (placeWords w).drop 1 |>.take 4,
    litN := if isHeader w then 0 else 3,
    ctx := { mask := 1#1024 }, regionPc := 0#32, regionCtx := { mask := 1#1024 } }

/-- s with the instruction whose bits are w fetched next: bits above nbits are 0. (DESIGN CHOICE, log 1.) -/
def State.placeWord (s : State) (nbits w : Nat) : State :=
  let word := BitVec.ofNat 32 (w % 2 ^ nbits)
  let id := s.nextId
  let key := clusterKey id 0
  let q := s.queue 0
  let cfg : QueueCfg := q.cfg.getD
    { priority := 0, stackBase := 0#52, peerTable := 0#52, peers := 0, spillRing := 0#52, eventDest := 0#128, tolerance := 0, root := 0#48,
      requester := ⟨0#128, 0#24⟩ }
  let entry : TlbEntry :=
    { root := cfg.root, page := 1, frame := 1, r := true, w := false, x := true, c := false, key := 1 }
  { s with
    phase := .ready
    script := .core 0 :: s.script
    focus := some id
    nextId := id + 1
    keys := aput s.keys 1 0#512
    tlb := entry :: s.tlb
    mem := tsets zeros s.mem (cellsAt placeBase ((placeWords word).flatMap fun v => leBytes 4 v.toNat))
    queues := aput s.queues 0 { q with cfg := some cfg }
    launches := aput s.launches id
      { queue := 0, seq := q.nextSeq, hdr := placeRecord, chart := [0x1100#32], places := [0], roles := [], args := [],
        next := 1 }
    clusters := aput s.clusters key
      { launch := id, index := 0, die := 0, x0 := 0, y0 := 0, width := 1, height := 1,
        places := [{ core := 0, pos := 0, rings := [{ slots := [{}] }] }] }
    teams := aput s.teams id (placeTeam id word)
    cores := aput s.cores 0 { s.core 0 with
      age := [id], residents := [key], current := some id, issued := 0, rotation := [], owner := some id } }

end Sys2Proof.Machine
end

