-- ==== Sys2Proof/Machine/Step.lean ====
section
/-!
DEFINITION. One step of the module: what moves next (DESIGN CHOICE, log 1), the issue scheduler of a core (R93 to R97), the fetch of a
clause and of its words (R45, R49, R417), and placing a program for the next step. The decisions themselves stand in
Machine/Schedule.lean and Machine/Program.lean.
-/

namespace Sys2Proof.Machine

/-- The team that has the issue slot executes its next word, or starts its next clause. -/
def teamStep (t : Nat) (s : State) : Out := State.teamStep exec t s

/-- The issue slot of a core (R94, R96, R97). -/
def coreSlot (n : Nat) (s : State) : Out := s.slot exec n

/-- The issue slot of a core in which loads do not perform yet (R168). (DESIGN CHOICE, log 6.) -/
def lateSlot (n : Nat) (s : State) : Out := State.endLate (s.beginLate.slot exec n)

/-- An event can occur. -/
def canOccur (s : State) (i : Instr) : Bool :=
  match exec i s with
  | .next _ => true
  | .fault _ => false
  | .refused _ => false

/-- The internal event that comes next, when one can occur: the list is begun one place further at each step (DESIGN CHOICE, log 1). -/
def nextEvent (s : State) : Option Instr :=
  let l := s.internal
  (l.rotateLeft (s.tick / 2)).find? (canOccur s)

/-- A step of a core, if a core moves. -/
def coreMove (s : State) : Option Out := (s.coreInTurn exec).map fun n => coreSlot n { s with turn := n + 1 }

/-- A step of an internal event, if one can occur. -/
def eventMove (s : State) : Option Out := (nextEvent s).map fun i => exec i s

/-- What moves: the head of the script; with an empty script cores and internal events alternate, the one going on while the
other has nothing to do; with nothing to do at all the module is idle (DESIGN CHOICE, log 1). -/
def advance (s : State) : Out :=
  match s.script with
  | .core n :: r => coreSlot n { s with script := r }
  | .coreLate n :: r => lateSlot n { s with script := r }
  | .event i :: r => exec i { s with script := r }
  | .error e :: r => .next (State.arise { s with script := r } e)
  | .corrected stack n :: r => .next (State.corrected { s with script := r } stack n)
  | .upset link credit :: r => .next (State.upset { s with script := r } link credit)
  | .defects found :: r => .next { s with script := r, defects := found }
  | [] =>
    if s.phase != .ready then .next s else
    let t := { s with tick := s.tick + 1 }
    ((if s.tick % 2 = 0 then (coreMove t).orElse fun _ => eventMove t
      else (eventMove t).orElse fun _ => coreMove t).getD (.next s))

/-- One step: what moves, and the islands that it wakes (R371). (DESIGN CHOICE, log 1.) -/
def step (s : State) : Host.Outcome State Fault Refusal := stir (advance s)

/-- s with the instruction whose bits are w placed so that the next step fetches and runs it (DESIGN CHOICE, log 1). -/
def State.withFetchWord (s : State) (nbits w : Nat) : State := s.placeWord nbits w

end Sys2Proof.Machine
end

