-- ==== Sys2Proof/Safety.lean ====
section
/-!
DEFINITION. The terms that claims use: a safe run, an instruction that passes the checks in front of it, the state with an
instruction retired, what a result writes.
-/

namespace Sys2Proof.Machine

/-- A step from the state answers a next state. -/
def State.Moves (s : State) : Prop := ∃ t, step s = .next t

/-- n steps from the state all answer a next state. -/
def State.SafeFor : Nat → State → Prop
  | 0, _ => True
  | n + 1, s => ∃ t, step s = .next t ∧ State.SafeFor n t

/-- Team t has the issue slot, and its instruction i passes every check in front of it: it is legal for the team (R51, R109, R239),
the role owns its class (R91), no register it reads has an error (R365) or is still to be written (R93), its launch owns the core's
matrix state where the instruction is of that class (R220), and no plane that it overwrites is still to be captured (R356). -/
abbrev Issues (i : Instr) (s : State) (t : Nat) (x : Team) : Prop :=
  s.focus = some t ∧ aget s.teams t = some x ∧ x.decodeCheck i = none ∧ s.stateCheck x i = none ∧ roleOwns x.role i = true ∧
    s.regError t x i = none ∧ x.pending i = false ∧ (classRole i = 2 → (s.core x.core).owner = some x.launch) ∧
    x.planes.any (x.writesPlane i) = false

/-- The team while its instruction is executed: it waits no more, and the loads that it has waited for have returned. -/
def Team.issued (x : Team) (i : Instr) : Team := { x with park := none, inFlight := x.returned i }

/-- Behind the last instruction of a clause the next clause can be fetched in s (R417). -/
abbrev State.goesOn (s : State) (x : Team) : Prop := x.atLast = true → s.clauseFault x.launch x.nextClause = none

/-- The state that an instruction's effect has led to, with the instruction retired (R45, R48, R113): the team stands at the next
word, or behind the last one at the next clause's header, whose translation is cached. -/
def State.retired (s : State) (t : Nat) (x : Team) (i : Instr) : State :=
  if x.atLast = true then
    (s.cache (s.rootOf x.launch) (s.codeVa x.launch x.nextClause) 4 .fetch).retire t (literalsOf i) (some x.nextClause)
  else s.retire t (literalsOf i) none

/-- The team at the header that a transfer goes to, with the transfer retired (R28, R103). -/
def State.retiredTo (s : State) (t : Nat) (x : Team) (i : Instr) (off : BitVec 52) : State :=
  (s.cache (s.rootOf x.launch) (s.codeVa x.launch off) 4 .fetch).retire t (literalsOf i) (some off)

/-- i passes its checks, and the team can go on behind it. -/
abbrev Runs (i : Instr) (s : State) (t : Nat) (x : Team) : Prop := Issues i s t x ∧ s.goesOn x

/-- Register r of the n-register span that starts at field d (R31, R82): a lane register or an operand-file entry. -/
abbrev Team.spanReg (x : Team) (d : Field) (n r : Nat) : Prop :=
  d.toNat < 112 ∧ x.ctx.win + d.toNat ≤ r ∧ r < x.ctx.win + d.toNat + n

/-- Plane p of an image holds registers that a result of n registers at field d writes in the lanes that q names, or the latches, which it
shifts (R35, R354). -/
abbrev Team.spoils (x : Team) (q : Nat → Bool) (d : Field) (n p : Nat) : Prop :=
  p ∈ x.latchPlanes ∨ (∃ r l, l < 1024 ∧ q l = true ∧ x.spanReg d n r ∧ p = 32 * r + l / 32) ∨
    (∃ j l, l < 1024 ∧ q l = true ∧ 112 ≤ d.toNat ∧ d.toNat < 120 ∧ d.toNat - 112 ≤ j ∧ j < d.toNat - 112 + n ∧
      p = 32 * (x.regsN + j) + l / 32)

/-- y is x with a result of n registers at field d in the lanes that p names (R9, R31, R34, R35): each destination register
of such a lane holds its word; every other register and lane is unchanged; the latches have moved up by one, h0 holding in
every lane what vd holds, or with zr the word computed in the lane, else 0; the planes written are noted for the next image (R356), and
so are the register words while a matrix operation still reads registers (R230); nothing else of the team differs. -/
structure Team.Wrote (x y : Team) (p : Nat → Bool) (d : Field) (n : Nat) (v : Nat → Nat → Word) : Prop where
  dest   : ∀ o l, o < n → l < 1024 → p l = true → d.toNat < 120 → y.rd 0 d o l = v o l
  regs   : ∀ r l, l < 1024 → ¬ (p l = true ∧ x.spanReg d n r) → y.reg r l = x.reg r l
  ofile  : ∀ j l, l < 1024 → ¬ (p l = true ∧ 112 ≤ d.toNat ∧ d.toNat < 120 ∧ d.toNat - 112 ≤ j ∧ j < d.toNat - 112 + n) →
    tget zeros y.ofile (j * 1024 + l) = tget zeros x.ofile (j * 1024 + l)
  first  : ∀ l, l < x.lanes → l < 1024 →
    tget zeros y.latch l = if d = 124#7 then (if p l then v 0 l else 0#32) else y.rd 0 d 0 l
  latch  : ∀ k l, k < 3 → l < 1024 → tget zeros y.latch ((k + 1) * 1024 + l) = tget zeros x.latch (k * 1024 + l)
  filled : y.latchN = min 4 (x.latchN + 1)
  late   : y.late = x.late.map fun q => { q with depth := q.depth + 1 }
  dirty  : ∀ q, q ∈ y.dirty ↔ q ∈ x.dirty ∨ x.spoils p d n q
  noted  : ∃ m, y.spanLog = x.spanLog ++ m ∧
    ∀ c ∈ m, x.spans ≠ [] ∧ p (c.1 % 1024) = true ∧ x.spanReg d n (c.1 / 1024)
  rest   : y = { x with
    regs := y.regs, ofile := y.ofile, latch := y.latch, latchN := y.latchN, late := y.late, dirty := y.dirty, spanLog := y.spanLog }

/-- Executing i answers a next state in which team t has the result of n registers at d in its active lanes, and which
otherwise differs from s in nothing but that i is retired. -/
abbrev Results (i : Instr) (s : State) (t : Nat) (x : Team) (d : Field) (n : Nat) (v : Nat → Nat → Word) : Prop :=
  ∃ y, (x.issued i).Wrote y x.act d n v ∧ exec i s = .next ((s.putTeam t y).retired t x i)

end Sys2Proof.Machine
end

