-- ==== Sys2Proof/Certificates/Slice0/Obligations.lean ====
section
/-!
DEFINITION. The statements for the provers, with the words and states that they compare the model with, written from the rules
of spec/ that they name.
-/

namespace Sys2Proof.Claims

open Sys2Proof.Machine

/-- What an instruction writes: its destination, how many registers, and word o of lane l. -/
abbrev Words := Option (Field × Nat × (Nat → Nat → Word))

/-- One source word a of the lane (R118). -/
def one (x : Team) (d a : Field) (f : Word → Word) : Words := some (d, 1, fun _ l => f (x.rd 0 a 0 l))

/-- Two source words a and b; a literal b is the one behind a's (R48). -/
def two (x : Team) (d a b : Field) (f : Word → Word → Word) : Words :=
  some (d, 1, fun _ l => f (x.rd 0 a 0 l) (x.rd (litCount [a]) b 0 l))

/-- Three source words c, a and b; c is what the destination held (R116). -/
def three (x : Team) (d a b : Field) (f : Word → Word → Word → Word) : Words :=
  some (d, 1, fun _ l => f (x.rd 0 d 0 l) (x.rd 0 a 0 l) (x.rd (litCount [a]) b 0 l))

/-- A pair written from two source words (R117): word o. -/
def twice (x : Team) (d a b : Field) (f : Nat → Word → Word → Word) : Words :=
  some (d, 2, fun o l => f o (x.rd 0 a 0 l) (x.rd (litCount [a]) b 0 l))

/-- An integer modulo 2^32. -/
def mod32 (n : Int) : Word := BitVec.ofInt 32 n

/-- An integer saturated to a range. -/
def sat (lo hi n : Int) : Word := BitVec.ofInt 32 (max lo (min hi n))

/-- The exact product under a reading (R123). -/
def prod : Sgn → Word → Word → Int
  | .i32, a, b => a.toInt * b.toInt
  | .n32, a, b => (a.toNat : Int) * b.toNat

/-- One restoring step (R125) on quotient bits and remainder. -/
def restore (a : Nat) (p : Nat × Nat) : Nat × Nat :=
  let r := (2 * p.2 + p.1 / 2 ^ 31) % 2 ^ 33
  if a ≤ r then (2 * p.1 % 2 ^ 32 + 1, r - a) else (2 * p.1 % 2 ^ 32, r)

/-- Four restoring steps. -/
def restore4 (a q r : Word) : Nat × Nat := (restore a.toNat)^[4] (q.toNat, r.toNat)

/-- What R121 to R126 write. -/
def arithmetic (x : Team) : Instr → Words
  | .add d a b => two x d a b fun a b => mod32 (a.toNat + b.toNat)
  | .sub d a b => two x d a b fun a b => mod32 (a.toNat - b.toNat)
  | .adds .i32 d a b => two x d a b fun a b => sat (-2 ^ 31) (2 ^ 31 - 1) (a.toInt + b.toInt)
  | .adds .n32 d a b => two x d a b fun a b => sat 0 (2 ^ 32 - 1) (a.toNat + b.toNat)
  | .subs .i32 d a b => two x d a b fun a b => sat (-2 ^ 31) (2 ^ 31 - 1) (a.toInt - b.toInt)
  | .subs .n32 d a b => two x d a b fun a b => sat 0 (2 ^ 32 - 1) ((a.toNat : Int) - b.toNat)
  | .addc d a b => three x d a b fun c a b => if 2 ^ 32 ≤ a.toNat + b.toNat + (c.getLsbD 0).toNat then 1#32 else 0#32
  | .subc d a b => three x d a b fun c a b => if (a.toNat : Int) - b.toNat - (c.getLsbD 0).toNat < 0 then 1#32 else 0#32
  | .mul d a b => two x d a b fun a b => mod32 (prod .i32 a b)
  | .mulhI32 d a b => two x d a b fun a b => mod32 (prod .i32 a b / 2 ^ 32)
  | .mulhN32 d a b => two x d a b fun a b => mod32 (prod .n32 a b / 2 ^ 32)
  | .mulwI32 d a b => twice x d a b fun o a b => mod32 (if o = 0 then prod .i32 a b else prod .i32 a b / 2 ^ 32)
  | .mulwN32 d a b => twice x d a b fun o a b => mod32 (if o = 0 then prod .n32 a b else prod .n32 a b / 2 ^ 32)
  | .mad d a b => three x d a b fun c a b => mod32 (prod .n32 a b + c.toNat)
  | .madhI32 d a b => three x d a b fun c a b => mod32 (prod .i32 a b / 2 ^ 32 + c.toNat)
  | .madhN32 d a b => three x d a b fun c a b => mod32 (prod .n32 a b / 2 ^ 32 + c.toNat)
  | .divstepN32 d a => some (d, 2, fun o l =>
      let p := restore4 (x.rd 0 a 0 l) (x.rd 0 d 0 l) (x.rd 0 d 1 l)
      mod32 (if o = 0 then p.1 else p.2))
  | .divstepI32 d a b => some (d, 2, fun o l =>
      let neg := if o = 0 then (x.rd 0 a 0 l).msb ^^ (x.rd (litCount [a]) b 0 l).msb else (x.rd (litCount [a]) b 0 l).msb
      if neg then mod32 (-((x.rd 0 d o l).toNat : Int)) else x.rd 0 d o l)
  | _ => none

/-- A word given bit by bit. -/
def bitsOf (f : Nat → Bool) : Word := BitVec.ofFnLE fun k : Fin 32 => f k.val

/-- 1 where a relation holds, else 0 (R130). -/
def truth (b : Bool) : Word := if b then 1#32 else 0#32

/-- Relation of SETC (R130). -/
def relation (c : SetCond) (a b : Word) : Bool :=
  match c with
  | .eq => decide (a = b)
  | .ne => decide (a ≠ b)
  | .ltI => decide (a.toInt < b.toInt)
  | .leI => decide (a.toInt ≤ b.toInt)
  | .gtI => decide (a.toInt > b.toInt)
  | .geI => decide (a.toInt ≥ b.toInt)
  | .ltN => decide (a.toNat < b.toNat)
  | .leN => decide (a.toNat ≤ b.toNat)
  | .gtN => decide (a.toNat > b.toNat)
  | .geN => decide (a.toNat ≥ b.toNat)

/-- Width of a field control word (R132). -/
def widthOf (b : Word) : Nat := min 32 (b.extractLsb' 8 6).toNat

/-- Position of a field control word (R132). -/
def posOf (b : Word) : Nat := (b.extractLsb' 0 5).toNat

/-- Bit k of PRM (R133): nibble i of c picks byte j of b:a; bit 3 of the nibble spreads that byte's sign. -/
def permuted (c a b : Word) (k : Nat) : Bool :=
  let nib := c.toNat / 2 ^ (4 * (k / 8)) % 16
  (b ++ a).getLsbD (8 * (nib % 8) + if nib < 8 then k % 8 else 7)

/-- What R127 to R135 write. -/
def logic (x : Team) : Instr → Words
  | .and d a b => two x d a b fun a b => bitsOf fun k => a.getLsbD k && b.getLsbD k
  | .or d a b => two x d a b fun a b => bitsOf fun k => a.getLsbD k || b.getLsbD k
  | .xor d a b => two x d a b fun a b => bitsOf fun k => a.getLsbD k ^^ b.getLsbD k
  | .andn d a b => two x d a b fun a b => bitsOf fun k => a.getLsbD k && !b.getLsbD k
  | .orn d a b => two x d a b fun a b => bitsOf fun k => a.getLsbD k || !b.getLsbD k
  | .xnor d a b => two x d a b fun a b => bitsOf fun k => !(a.getLsbD k ^^ b.getLsbD k)
  | .not d a => one x d a fun a => bitsOf fun k => !a.getLsbD k
  | .shl d a b => two x d a b fun a b => if b.toNat < 32 then mod32 (a.toNat * 2 ^ b.toNat) else 0#32
  | .shrN32 d a b => two x d a b fun a b => if b.toNat < 32 then mod32 (a.toNat / 2 ^ b.toNat) else 0#32
  | .shrI32 d a b => two x d a b fun a b =>
      if b.toNat < 32 then mod32 (a.toInt / 2 ^ b.toNat) else if a.msb then 0xFFFFFFFF#32 else 0#32
  | .rotl d a b => two x d a b fun a b => bitsOf fun k => a.getLsbD ((k + 32 - b.toNat % 32) % 32)
  | .rotr d a b => two x d a b fun a b => bitsOf fun k => a.getLsbD ((k + b.toNat) % 32)
  | .minI32 d a b => two x d a b fun a b => mod32 (min a.toInt b.toInt)
  | .maxI32 d a b => two x d a b fun a b => mod32 (max a.toInt b.toInt)
  | .minN32 d a b => two x d a b fun a b => mod32 (min a.toNat b.toNat)
  | .maxN32 d a b => two x d a b fun a b => mod32 (max a.toNat b.toNat)
  | .absI32 d a => one x d a fun a => mod32 |a.toInt|
  | .setc c d a b => two x d a b fun a b => truth (relation c a b)
  | .sel d a b => three x d a b fun c a b => if c ≠ 0#32 then a else b
  | .popc d a => one x d a fun a => mod32 ((List.range 32).filter fun k => a.getLsbD k).length
  | .clz d a => one x d a fun a => mod32 ((List.range 32).filter fun k => a.toNat < 2 ^ k).length
  | .ctz d a => one x d a fun a => mod32 ((List.range 32).filter fun k => a.toNat % 2 ^ (k + 1) = 0).length
  | .brev d a => one x d a fun a => bitsOf fun k => a.getLsbD (31 - k)
  | .bfxN32 d a b => two x d a b fun a b => ((a.setWidth 64).extractLsb' (posOf b) (widthOf b)).setWidth 32
  | .bfxI32 d a b => two x d a b fun a b => ((a.signExtend 64).extractLsb' (posOf b) (widthOf b)).signExtend 32
  | .bfi d a b => three x d a b fun c a b => bitsOf fun k =>
      if posOf b ≤ k ∧ k < posOf b + widthOf b then a.getLsbD (k - posOf b) else c.getLsbD k
  | .prm d a b => three x d a b fun c a b => bitsOf (permuted c a b)
  | .lea sc d a b => two x d a b fun a b => mod32 (a.toNat + b.toNat * 2 ^ sc.val)
  | .mov d a => one x d a fun a => a
  | .movi d imm => some (d, 1, fun _ _ => mod32 imm.toInt)
  | .movhi d imm => some (d, 1, fun _ l => bitsOf fun k => if k < 18 then (x.rd 0 d 0 l).getLsbD k else imm.getLsbD (k - 18))
  | _ => none

/-- A word read in another lane: active or not, and 0 at or beyond S (R119, R136). -/
def across (x : Team) (a : Field) (src : Nat) : Word := if src < x.lanes then x.rd 0 a 0 src else 0#32

/-- The source lane of SHFL (R136) in lane l. -/
def source (x : Team) (f : ShflForm) (a b : Field) (l : Nat) : Nat :=
  let n := (x.rd (litCount [a]) b 0 l).toNat
  let g := 32 * (l / 32)
  let i := l % 32
  match f with
  | .idx => g + n % 32
  | .xor => g + (i ^^^ (n % 32))
  | .up => if n ≤ i then g + i - n else l
  | .down => if i + n ≤ 31 then g + i + n else l
  | .bcast => match x.active.head? with
    | some m => (x.rd (litCount [a]) b 0 m).toNat % 1024
    | none => 0

/-- A nonempty list of words combined by an operator. -/
def join (f : Word → Word → Word) : List Word → Word
  | [] => 0#32
  | v :: r => r.foldl f v

/-- Operators of RED (R138). -/
def redOp : RedOp → Word → Word → Word
  | .addI32, a, b => mod32 (a.toNat + b.toNat)
  | .minI32, a, b => mod32 (min a.toInt b.toInt)
  | .maxI32, a, b => mod32 (max a.toInt b.toInt)
  | .minN32, a, b => mod32 (min a.toNat b.toNat)
  | .maxN32, a, b => mod32 (max a.toNat b.toNat)
  | .and, a, b => a &&& b
  | .or, a, b => a ||| b
  | .xor, a, b => a ^^^ b

/-- Operator of a SCAN (R138), and whether a lane's own word takes part. -/
def scanOp : ScanOp → (Word → Word → Word) × Bool
  | .addIncl => (redOp .addI32, true)
  | .addExcl => (redOp .addI32, false)
  | .maxI32Incl => (redOp .maxI32, true)
  | .minI32Incl => (redOp .minI32, true)
  | .orIncl => (redOp .or, true)

/-- What R136 and R138 write. -/
def exchange (x : Team) : Instr → Words
  | .shfl f d a b => some (d, 1, fun _ l => across x a (source x f a b l))
  | .red o d a => some (d, 1, fun _ _ => join (redOp o) (x.active.map fun l => x.rd 0 a 0 l))
  | .scan o d a => some (d, 1, fun _ l =>
      join (scanOp o).1 ((x.active.filter fun m => decide (m < l) || ((scanOp o).2 && decide (m = l))).map fun m => x.rd 0 a 0 m))
  | _ => none

/-- What VOTE writes in lane l (R137). -/
def ballot (x : Team) (f : VoteForm) (a : Field) (l : Nat) : Word :=
  match f with
  | .any => truth (x.active.any fun m => x.rd 0 a 0 m != 0#32)
  | .all => truth (x.active.all fun m => x.rd 0 a 0 m != 0#32)
  | .uni => truth (x.active.all fun m => x.active.all fun k => x.rd 0 a 0 m == x.rd 0 a 0 k)
  | .ballot => bitsOf fun k => x.act (32 * (l / 32) + k) && x.rd 0 a 0 (32 * (l / 32) + k) != 0#32

end Sys2Proof.Claims

open Sys2Proof Sys2Proof.Machine Sys2Proof.Claims

/-! The integer class. -/

/-- R121 to R126: in every active lane, and in no other, the destination holds what the rule computes; with zr nothing is
written but the latches. The latches move up, and nothing else changes but that the instruction is retired: no flag, no
memory, no other register. -/
def Sys2Proof.Claims.IntegerArithmeticPart : Prop :=
  ∀ i s t x d n v, arithmetic x i = some (d, n, v) → Runs i s t x → Results i s t x d n v

/-- R125: eight steps of DIVSTEP.N32 leave the quotient in vd and the remainder in vd + 1; with a divisor of 0 they leave all ones and
the dividend. -/
def Sys2Proof.Claims.DivisionByEightSteps : Prop :=
  ∀ n a : Word,
    (fun p : Word × Word => divStep4 a p.1 p.2)^[8] (n, 0#32)
      = if a = 0#32 then (0xFFFFFFFF#32, n) else (mod32 (n.toNat / a.toNat), mod32 (n.toNat % a.toNat))

/-- The integer arithmetic class, and eight division steps in a row. -/
def Obligations.IntegerArithmetic : Prop := Sys2Proof.Claims.IntegerArithmeticPart ∧ Sys2Proof.Claims.DivisionByEightSteps

/-- R127 to R135, as IntegerArithmetic. -/
def Sys2Proof.Claims.IntegerLogic : Prop :=
  ∀ i s t x d n v, logic x i = some (d, n, v) → Runs i s t x → Results i s t x d n v

/-- R136, R138: words exchanged and combined among the lanes of the team, as IntegerArithmetic. -/
def Sys2Proof.Claims.LaneExchange : Prop :=
  ∀ i s t x d n v, exchange x i = some (d, n, v) → Runs i s t x → Results i s t x d n v

/-- The integer logic class and the lane exchanges. -/
def Obligations.LogicAndLaneExchange : Prop := Sys2Proof.Claims.IntegerLogic ∧ Sys2Proof.Claims.LaneExchange

/-- R137: VOTE writes its word in every active lane; any, all and uni set Z from it, unless no lane is active; N, C and V stay. -/
def Sys2Proof.Claims.Vote : Prop :=
  ∀ f d a s t x, Runs (.vote f d a) s t x →
    ∃ y, (x.issued (.vote f d a)).Wrote y x.act d 1 (fun _ => ballot x f a) ∧
      exec (.vote f d a) s = .next ((s.putTeam t
        (match x.active with
        | [] => y
        | l :: _ => if f = .ballot then y
            else { y with ctx := { x.ctx with cc := { x.ctx.cc with z := ballot x f a l == 0#32 } } })).retired t x (.vote f d a))

/-! The float class. -/

namespace Sys2Proof.Claims

open Sys2Proof.Machine

/-- A pattern as a word. -/
def pat (n : Nat) : Word := BitVec.ofNat 32 n

/-- The two 16-bit elements of a word, each computed on its own (R150). -/
def halves (f : Nat → Nat → Nat → Nat) (c a b : Word) : Word :=
  BitVec.ofNat 16 (f (c.toNat / 2 ^ 16) (a.toNat / 2 ^ 16) (b.toNat / 2 ^ 16))
    ++ BitVec.ofNat 16 (f (c.toNat % 2 ^ 16) (a.toNat % 2 ^ 16) (b.toNat % 2 ^ 16))

/-- The narrow element that a conversion names (R151): format, lowest bit, width. -/
def element : CvtSel → Option (FFmt × Nat × Nat)
  | .f16lo => some (.f16, 0, 16)
  | .f16hi => some (.f16, 16, 16)
  | .bf16lo => some (.bf16, 0, 16)
  | .bf16hi => some (.bf16, 16, 16)
  | .e4m3b0 => some (.e4m3, 0, 8)
  | .e4m3b1 => some (.e4m3, 8, 8)
  | .e4m3b2 => some (.e4m3, 16, 8)
  | .e4m3b3 => some (.e4m3, 24, 8)
  | .e5m2b0 => some (.e5m2, 0, 8)
  | .e5m2b1 => some (.e5m2, 8, 8)
  | .e5m2b2 => some (.e5m2, 16, 8)
  | .e5m2b3 => some (.e5m2, 24, 8)
  | .i32 => none
  | .n32 => none

/-- CVT to FP32 (R151): a narrow element exactly, whatever the mode; an integer rounded once. -/
def widened (sel : CvtSel) (md : Rnd) (fl : Bool) (a : Word) : Word :=
  match element sel with
  | some (f, lo, w) => pat (f.convert .f32 md false false (a.toNat / 2 ^ lo % 2 ^ w))
  | none => pat (FFmt.f32.round md fl (FVal.ofInt (if sel = .i32 then a.toInt else a.toNat)))

/-- CVT from FP32 (R152): the element in its place, every other bit of c kept; or the whole word, saturated. -/
def narrowed (sel : CvtSel) (md : Rnd) (fl : Bool) (c a : Word) : Word :=
  match element sel with
  | some (f, lo, w) => bitsOf fun k =>
      if lo ≤ k ∧ k < lo + w then (FFmt.f32.convert f md fl fl a.toNat).testBit (k - lo) else c.getLsbD k
  | none =>
    let v := (FFmt.f32.decode a.toNat).flush fl
    if sel = .i32 then mod32 (v.toRange md (-2 ^ 31) (2 ^ 31 - 1)) else mod32 (v.toRange md 0 (2 ^ 32 - 1))

/-- What R143, R145 to R154 write, in the team's float mode: one rounding of the exact value. -/
def floating (x : Team) : Instr → Words
  | .fadd d a b => two x d a b fun a b => pat (FFmt.f32.addB x.rnd x.flush a.toNat b.toNat)
  | .fsub d a b => two x d a b fun a b => pat (FFmt.f32.subB x.rnd x.flush a.toNat b.toNat)
  | .fmul d a b => two x d a b fun a b => pat (FFmt.f32.mulB x.rnd x.flush a.toNat b.toNat)
  | .ffma d a b => three x d a b fun c a b => pat (FFmt.f32.fmaB x.rnd x.flush false false a.toNat b.toNat c.toNat)
  | .ffms d a b => three x d a b fun c a b => pat (FFmt.f32.fmaB x.rnd x.flush false true a.toNat b.toNat c.toNat)
  | .ffnma d a b => three x d a b fun c a b => pat (FFmt.f32.fmaB x.rnd x.flush true true a.toNat b.toNat c.toNat)
  | .ffnms d a b => three x d a b fun c a b => pat (FFmt.f32.fmaB x.rnd x.flush true false a.toNat b.toNat c.toNat)
  | .fmin d a b => two x d a b fun a b => pat (FFmt.f32.minNumB x.flush false a.toNat b.toNat)
  | .fmax d a b => two x d a b fun a b => pat (FFmt.f32.minNumB x.flush true a.toNat b.toNat)
  | .fminm d a b => two x d a b fun a b => pat (FFmt.f32.minB x.flush false a.toNat b.toNat)
  | .fmaxm d a b => two x d a b fun a b => pat (FFmt.f32.minB x.flush true a.toNat b.toNat)
  | .fabs d a => one x d a fun a => bitsOf fun k => a.getLsbD k && k != 31
  | .fneg d a => one x d a fun a => bitsOf fun k => if k = 31 then !a.getLsbD k else a.getLsbD k
  | .fcmp c d a b => two x d a b fun a b =>
      truth (fcondHolds c (((FFmt.f32.decode a.toNat).flush x.flush).compare ((FFmt.f32.decode b.toNat).flush x.flush)))
  | .frcp d a => one x d a fun a => pat (frcpB x.rnd x.flush a.toNat)
  | .frsq d a => one x d a fun a => pat (frsqB x.flush a)
  | .fsqrt d a => one x d a fun a => pat (fsqrtB x.rnd x.flush a.toNat)
  | .fexp2 d a => one x d a fun a => pat (fexp2B x.flush a)
  | .flog2 d a => one x d a fun a => pat (flog2B x.flush a)
  | .ftanh d a => one x d a fun a => pat (ftanhB x.flush a)
  | .hadd2F16 d a b => two x d a b (halves (fun _ => FFmt.f16.addB x.rnd x.flush) 0#32)
  | .hmul2F16 d a b => two x d a b (halves (fun _ => FFmt.f16.mulB x.rnd x.flush) 0#32)
  | .hfma2F16 d a b => three x d a b (halves fun c a b => FFmt.f16.fmaB x.rnd x.flush false false a b c)
  | .hadd2Bf16 d a b => two x d a b (halves (fun _ => FFmt.bf16.addB x.rnd x.flush) 0#32)
  | .hmul2Bf16 d a b => two x d a b (halves (fun _ => FFmt.bf16.mulB x.rnd x.flush) 0#32)
  | .hfma2Bf16 d a b => three x d a b (halves fun c a b => FFmt.bf16.fmaB x.rnd x.flush false false a b c)
  | .hmin2F16 d a b => two x d a b (halves (fun _ => FFmt.f16.minNumB x.flush false) 0#32)
  | .hmax2F16 d a b => two x d a b (halves (fun _ => FFmt.f16.minNumB x.flush true) 0#32)
  | .hmin2Bf16 d a b => two x d a b (halves (fun _ => FFmt.bf16.minNumB x.flush false) 0#32)
  | .hmax2Bf16 d a b => two x d a b (halves (fun _ => FFmt.bf16.minNumB x.flush true) 0#32)
  | .cvtToF32 sel d a => one x d a (widened sel x.rnd x.flush)
  | .cvtFromF32 sel d a => some (d, 1, fun _ l => narrowed sel x.rnd x.flush (x.rd 0 d 0 l) (x.rd 0 a 0 l))
  | .qpack q d a b => three x d a b fun c a b =>
      mod32 (c.toNat / 2 ^ qWidth q + qpackElem q x.rnd x.flush a b % 2 ^ qWidth q * 2 ^ (32 - qWidth q))
  | .qunpack q d a b => two x d a b (qunpackWord q x.rnd x.flush)
  | .fmtset d a => one x d a fun a =>
      let w : Word := bitsOf fun k =>
        if k = 14 then x.ctx.fmode.flush else if 15 ≤ k ∧ k < 17 then x.ctx.fmode.round.getLsbD (k - 15) else a.getLsbD k
      if fmtCheck w = 0 then w else 0#32
  | _ => none

/-- A quiet NaN with a cause in its low bits (R67). -/
def nanOf (cause : Nat) : Nat := 0x7FC00000 + cause

/-- A NaN quieted (R61). -/
def quiet (a : Word) : Nat := (a ||| 0x00400000#32).toNat

/-- A pattern is a NaN (R61). -/
abbrev isNaN (a : Word) : Prop := a.toNat % 2 ^ 31 > 0x7F800000

/-- A pattern is an infinity. -/
abbrev isInf (a : Word) : Prop := a.toNat % 2 ^ 31 = 0x7F800000

/-- A pattern is a zero. -/
abbrev isZero (a : Word) : Prop := a.toNat % 2 ^ 31 = 0

/-- An operand behind the flush (R65): a subnormal pattern becomes the zero of its sign. -/
def flushed (fl : Bool) (a : Word) : Word := if fl && a.toNat % 2 ^ 31 < 2 ^ 23 then a &&& 0x80000000#32 else a

/-- The value of a decoded finite number. -/
def value : FVal → ℚ
  | .fin neg m e => (if neg then -1 else 1) * (m : ℚ) * (2 : ℚ) ^ e
  | _ => 0

/-- The formats in which results are delivered (R58). -/
def formats : List FFmt := [.f32, .f16, .bf16, .e4m3, .e5m2, .e11m44]

/-- A pattern of a format stands for a finite value. -/
def HoldsValue (f : FFmt) (n : Nat) (v : ℚ) : Prop :=
  n < 2 * 2 ^ (f.eb + f.fb) ∧ ∃ neg m e, f.decode n = .fin neg m e ∧ v = value (.fin neg m e)

/-- The largest finite value of a format (R58). -/
def largest (f : FFmt) : ℚ := value (f.decode f.maxBits)

/-- Pattern n with value v is the number of the format that a mode picks for a number y (R62): the nearest, of two nearest the one whose
lowest fraction bit is 0; the nearest not greater in magnitude; the nearest not less; the nearest not greater. -/
def Picks (f : FFmt) (n : Nat) (v : ℚ) (y : ℝ) : Rnd → Prop
  | .rne => ∀ p w, HoldsValue f p w → |(v : ℝ) - y| ≤ |(w : ℝ) - y| ∧ (w ≠ v → |(v : ℝ) - y| = |(w : ℝ) - y| → n % 2 = 0)
  | .rz => |(v : ℝ)| ≤ |y| ∧ ∀ p w, HoldsValue f p w → |(w : ℝ)| ≤ |y| → |w| ≤ |v|
  | .ru => y ≤ v ∧ ∀ p w, HoldsValue f p w → y ≤ w → v ≤ w
  | .rd => (v : ℝ) ≤ y ∧ ∀ p w, HoldsValue f p w → (w : ℝ) ≤ y → w ≤ v

/-- What is delivered for a number beyond the largest finite one (R64). -/
def beyond (f : FFmt) (neg : Bool) : Rnd → Nat
  | .rne => if f.narrow then f.withSign neg f.maxBits else f.infBits neg
  | .rz => f.withSign neg f.maxBits
  | .ru => if f.narrow || neg then f.withSign neg f.maxBits else f.infBits neg
  | .rd => if f.narrow || !neg then f.withSign neg f.maxBits else f.infBits neg

/-- n is the number y, not 0, rounded once to a format (R62, R64): within the format's range the number that the mode picks, with y's sign;
beyond it what R64 says, where RNE goes beyond from half a unit above the largest finite number on. -/
def Rounded (f : FFmt) (md : Rnd) (y : ℝ) (n : Nat) : Prop :=
  ∀ neg : Bool, (neg = true ↔ y < 0) →
    (|y| ≤ largest f → n / 2 ^ (f.eb + f.fb) = neg.toNat ∧ ∃ v, HoldsValue f n v ∧ Picks f n v y md) ∧
    ((largest f : ℝ) < |y| →
      let far := (largest f : ℝ) + (2 : ℝ) ^ ((2 : ℤ) ^ f.eb - 3 - f.bias - f.fb) ≤ |y|
      (md ≠ .rne ∨ far ∨ f.narrow = true → n = beyond f neg md) ∧
      (md = .rne → ¬ far → f.narrow = false → n = f.withSign neg f.maxBits))

/-- n is the number y, not 0, rounded once, and flushed where the result is subnormal (R65). -/
def Delivered (f : FFmt) (md : Rnd) (fl : Bool) (y : ℝ) (n : Nat) : Prop :=
  ∃ r, Rounded f md y r ∧ n = if fl = true ∧ r / 2 ^ f.fb % 2 ^ f.eb = 0 then r / 2 ^ (f.eb + f.fb) * 2 ^ (f.eb + f.fb) else r

/-- A number rounded to an integer (R62). -/
def roundInt (md : Rnd) (y : ℚ) : Int :=
  match md with
  | .rd => ⌊y⌋
  | .ru => ⌈y⌉
  | .rz => if y < 0 then ⌈y⌉ else ⌊y⌋
  | .rne => if y - ⌊y⌋ < 1 / 2 then ⌊y⌋ else if 1 / 2 < y - ⌊y⌋ then ⌊y⌋ + 1 else if ⌊y⌋ % 2 = 0 then ⌊y⌋ else ⌊y⌋ + 1

/-- Least and greatest element of a QPACK type (R59, R153), and its width. -/
def packRange : QType → Int × Int × Nat
  | .i8 => (-128, 127, 8)
  | .n8 => (0, 255, 8)
  | .i4 => (-8, 7, 4)
  | .n4 => (0, 15, 4)

/-- The element that QUNPACK reads (R154): the low bits, signed or natural. -/
def packed (t : QType) (a : Word) : Int :=
  let n : Int := (a.toNat % 2 ^ (packRange t).2.2 : Nat)
  if (packRange t).2.1 < n then n - 2 ^ (packRange t).2.2 else n

end Sys2Proof.Claims

/-- R140 to R155: every form of the float class writes its word in the active lanes, in the team's float mode, and changes nothing
else: which operands, in which mode, go through which operation. The operations are those of Machine/Float.lean, whose values the
statements below tie to the exact ones. FRSQ, FEXP2,
FLOG2 and FTANH return one member of their set, chosen by a constant of Config (log 3). -/
def Obligations.FloatResults : Prop :=
  ∀ i s t x d n v, floating x i = some (d, n, v) → Runs i s t x → Results i s t x d n v

/-- R144, R68: special values of sums and products: the first NaN operand quieted; cause 3 for the sum of opposite infinities, cause 4
for zero times infinity even where the addend is infinite; in every mode, flushed or not. -/
def Sys2Proof.Claims.FloatSpecialValues : Prop :=
  ∀ (md : Rnd) (fl : Bool) (a b c : Word),
    (isNaN a → FFmt.f32.addB md fl a.toNat b.toNat = quiet a ∧ FFmt.f32.subB md fl a.toNat b.toNat = quiet a ∧
      FFmt.f32.mulB md fl a.toNat b.toNat = quiet a ∧
      ∀ p q, FFmt.f32.fmaB md fl p q a.toNat b.toNat c.toNat = quiet a) ∧
    (¬ isNaN a → isNaN b → FFmt.f32.addB md fl a.toNat b.toNat = quiet b ∧ FFmt.f32.subB md fl a.toNat b.toNat = quiet b ∧
      FFmt.f32.mulB md fl a.toNat b.toNat = quiet b ∧
      ∀ p q, FFmt.f32.fmaB md fl p q a.toNat b.toNat c.toNat = quiet b) ∧
    (¬ isNaN a → ¬ isNaN b → isNaN c → ∀ p q, FFmt.f32.fmaB md fl p q a.toNat b.toNat c.toNat = quiet c) ∧
    (isInf a → isInf b → a.msb ≠ b.msb → FFmt.f32.addB md fl a.toNat b.toNat = nanOf 3) ∧
    (isInf a → isInf b → a.msb = b.msb → FFmt.f32.subB md fl a.toNat b.toNat = nanOf 3) ∧
    (isZero a → isInf b → FFmt.f32.mulB md fl a.toNat b.toNat = nanOf 4 ∧
      (¬ isNaN c → ∀ p q, FFmt.f32.fmaB md fl p q a.toNat b.toNat c.toNat = nanOf 4)) ∧
    (isInf a → isZero b → FFmt.f32.mulB md fl a.toNat b.toNat = nanOf 4 ∧
      (¬ isNaN c → ∀ p q, FFmt.f32.fmaB md fl p q a.toNat b.toNat c.toNat = nanOf 4))

/-- R145: FMIN and FMAX deliver the other operand, flushed, when one is a NaN and the first one quieted when both are; FMINM and FMAXM deliver the
first NaN quieted; +0 is greater than −0. -/
def Sys2Proof.Claims.FloatMinMax : Prop :=
  ∀ (fl big : Bool) (a b : Word),
    (isNaN a → isNaN b → FFmt.f32.minNumB fl big a.toNat b.toNat = quiet a) ∧
    (isNaN a → ¬ isNaN b → FFmt.f32.minNumB fl big a.toNat b.toNat = (flushed fl b).toNat) ∧
    (¬ isNaN a → isNaN b → FFmt.f32.minNumB fl big a.toNat b.toNat = (flushed fl a).toNat) ∧
    (isNaN a → FFmt.f32.minB fl big a.toNat b.toNat = quiet a) ∧
    (¬ isNaN a → isNaN b → FFmt.f32.minB fl big a.toNat b.toNat = quiet b) ∧
    (isZero a → isZero b → FFmt.f32.minNumB fl big a.toNat b.toNat
        = if big then (if a.msb && b.msb then 0x80000000 else 0) else (if a.msb || b.msb then 0x80000000 else 0))

/-- R62, R65: rounding a value that FP32 holds gives its own pattern, in every mode: decoding loses nothing, and no value is
rounded twice. -/
def Sys2Proof.Claims.RoundingIsExactOnValues : Prop :=
  ∀ (md : Rnd) (a : Word), ¬ isNaN a → FFmt.f32.round md false (FFmt.f32.decode a.toNat) = a.toNat

/-- R62: for an exact value that does not overflow, rounding down gives at most the value and rounding up at least it; the other modes
give one of the two; toward zero is down for a positive value and up for a negative one. -/
def Sys2Proof.Claims.RoundingModes : Prop :=
  ∀ (neg : Bool) (m : Nat) (e : Int), 0 < m → (m.log2 : Int) + e < 127 →
    let r := fun md => FFmt.f32.roundFin md false neg m e
    let val := fun md => value (FFmt.f32.decode (r md))
    val .rd ≤ value (.fin neg m e) ∧ value (.fin neg m e) ≤ val .ru ∧
      (r .rne = r .rd ∨ r .rne = r .ru) ∧ r .rz = (if neg then r .ru else r .rd)

/-- R62, R64, R65: an exact value is rounded to the number that the mode picks in every format of R58, goes beyond the largest finite
number as R64 says, and is flushed with the flush bit set when the result is subnormal; rounding to an integer saturates. -/
def Sys2Proof.Claims.RoundingPicks : Prop :=
  (∀ f ∈ formats, ∀ md fl neg m e, 0 < m →
    Delivered f md fl ((value (.fin neg m e) : ℚ) : ℝ) (f.roundFin md fl neg m e)) ∧
  ∀ md lo hi neg m e, FVal.toRange md lo hi (.fin neg m e) = max lo (min hi (roundInt md (value (.fin neg m e))))

/-- R62, R65, R143: FADD, FSUB, FMUL and the fused forms, in FP32, FP16 and BF16: the exact result of the operands behind the flush is
rounded once. Zero results are those of R66. -/
def Sys2Proof.Claims.ArithmeticRoundsOnce : Prop :=
  ∀ f ∈ [FFmt.f32, FFmt.f16, FFmt.bf16], ∀ md fl a b c u v w, HoldsValue f a u → HoldsValue f b v → HoldsValue f c w →
    let x := value ((f.decode a).flush fl)
    let y := value ((f.decode b).flush fl)
    let z := value ((f.decode c).flush fl)
    (x + y ≠ 0 → Delivered f md fl ((x + y : ℚ) : ℝ) (f.addB md fl a b)) ∧
    (x - y ≠ 0 → Delivered f md fl ((x - y : ℚ) : ℝ) (f.subB md fl a b)) ∧
    (x * y ≠ 0 → Delivered f md fl ((x * y : ℚ) : ℝ) (f.mulB md fl a b)) ∧
    ∀ p q : Bool, let t := (if p then -1 else 1) * (x * y) + (if q then -1 else 1) * z
      t ≠ 0 → Delivered f md fl ((t : ℚ) : ℝ) (f.fmaB md fl p q a b c)

/-- R148: FRCP and FSQRT round the exact reciprocal and the exact square root once. -/
def Sys2Proof.Claims.QuotientsAndRoots : Prop :=
  ∀ md fl a u, HoldsValue .f32 a u →
    let x := value ((FFmt.f32.decode a).flush fl)
    (x ≠ 0 → Delivered .f32 md fl (1 / (x : ℝ)) (frcpB md fl a)) ∧ (0 < x → Delivered .f32 md fl (Real.sqrt x) (fsqrtB md fl a))

/-- R151 to R154: conversions between formats round once; QPACK rounds the exact product once and saturates it, a NaN gives 0; QUNPACK
rounds the product of the element and the multiplier once. -/
def Sys2Proof.Claims.ConversionsRoundOnce : Prop :=
  (∀ src ∈ formats, ∀ dst ∈ formats, ∀ md op fl n u, HoldsValue src n u →
    let x := value ((src.decode n).flush op)
    (x ≠ 0 → Delivered dst md fl ((x : ℚ) : ℝ) (src.convert dst md op fl n)) ∧
    (x = 0 → src.convert dst md op fl n = n / 2 ^ (src.eb + src.fb) * 2 ^ (dst.eb + dst.fb))) ∧
  (∀ t md fl (a b : Word) u v, HoldsValue .f32 a.toNat u → HoldsValue .f32 b.toNat v →
    qpackElem t md fl a b = max (packRange t).1 (min (packRange t).2.1
      (roundInt md (value ((FFmt.f32.decode a.toNat).flush fl) * value ((FFmt.f32.decode b.toNat).flush fl))))) ∧
  (∀ t md fl (a b : Word), isNaN a ∨ isNaN b → qpackElem t md fl a b = 0) ∧
  ∀ t md fl (a b : Word) v, HoldsValue .f32 b.toNat v →
    let y := packed t a * value ((FFmt.f32.decode b.toNat).flush fl)
    y ≠ 0 → Delivered .f32 md fl ((y : ℚ) : ℝ) (qunpackWord t md fl a b).toNat

/-- Rounding in its four modes, and the operations that round. -/
def Obligations.Rounding : Prop :=
  Sys2Proof.Claims.RoundingIsExactOnValues ∧
  Sys2Proof.Claims.RoundingModes ∧
  Sys2Proof.Claims.RoundingPicks ∧
  Sys2Proof.Claims.ArithmeticRoundsOnce ∧
  Sys2Proof.Claims.QuotientsAndRoots ∧
  Sys2Proof.Claims.ConversionsRoundOnce

/-- R66: an exact zero sum of numbers that are not zero is +0, and −0 when rounding down; zeros of one sign keep it. -/
def Sys2Proof.Claims.ZeroSums : Prop :=
  ∀ (md : Rnd) (a : Word), ¬ isNaN a → ¬ isInf a →
    FFmt.f32.subB md false a.toNat a.toNat = (if md = .rd then 0x80000000 else 0) ∧
    (isZero a → FFmt.f32.addB md false a.toNat a.toNat = a.toNat)

/-- Float results that are not numbers: NaNs, infinities, zeros, minima and maxima of them. -/
def Obligations.FloatSpecials : Prop :=
  Sys2Proof.Claims.FloatSpecialValues ∧
  Sys2Proof.Claims.FloatMinMax ∧
  Sys2Proof.Claims.ZeroSums

/-- R156: FMODE's result is the mode before the change, as Round and Flush of a format word; the new mode comes from the lowest active
lane; with no active lane the mode stays. -/
def Sys2Proof.Claims.FloatMode : Prop :=
  ∀ d a s t x, Runs (.fmode d a) s t x →
    ∃ y, (x.issued (.fmode d a)).Wrote y x.act d 1 (fun _ _ => bitsOf fun k =>
        if k = 14 then x.ctx.fmode.flush else if 15 ≤ k ∧ k < 17 then x.ctx.fmode.round.getLsbD (k - 15) else false) ∧
      exec (.fmode d a) s = .next ((s.putTeam t
        (match x.active with
        | [] => y
        | l :: _ => { y with ctx := { x.ctx with fmode :=
            { round := (x.rd 0 a 0 l).extractLsb' 15 2, flush := (x.rd 0 a 0 l).getLsbD 14 } } })).retired t x (.fmode d a))

/-- Votes, and the float mode. -/
def Obligations.VotesAndFloatMode : Prop := Sys2Proof.Claims.Vote ∧ Sys2Proof.Claims.FloatMode

/-! Team flow. -/

namespace Sys2Proof.Claims

open Sys2Proof.Machine

/-- The order of FP32 numbers that are not NaNs, +0 and −0 alike: bits 30:0 with the sign. -/
def orderKey (a : Word) : Int := if a.msb then -((a.toNat % 2 ^ 31 : Nat) : Int) else ((a.toNat % 2 ^ 31 : Nat) : Int)

/-- Z, N, C, V of CMPU (R104). -/
def compared (c : CmpT) (a b : Word) : CondCode :=
  match c with
  | .i32 => { z := decide (a = b), n := (mod32 (a.toInt - b.toInt)).msb, c := decide (a.toNat ≥ b.toNat),
              v := decide (a.toInt - b.toInt < -2 ^ 31 ∨ 2 ^ 31 ≤ a.toInt - b.toInt) }
  | .n32 => { z := decide (a = b), n := decide (a.toNat < b.toNat), c := decide (a.toNat ≥ b.toNat), v := false }
  | .f32 =>
    if isNaN a ∨ isNaN b then { z := false, n := false, c := false, v := true }
    else if orderKey a = orderKey b then { z := true, n := false, c := true, v := false }
    else if orderKey a < orderKey b then { z := false, n := true, c := false, v := false }
    else { z := false, n := false, c := true, v := false }

/-- When b is taken (R54). -/
def taken (f : CondCode) : Cond → Prop
  | .al => True
  | .eq => f.z = true
  | .ne => f.z = false
  | .hs => f.c = true
  | .lo => f.c = false
  | .mi => f.n = true
  | .pl => f.n = false
  | .vs => f.v = true
  | .vc => f.v = false
  | .hi => f.c = true ∧ f.z = false
  | .ls => f.c = false ∨ f.z = true
  | .ge => f.n = f.v
  | .lt => f.n ≠ f.v
  | .gt => f.z = false ∧ f.n = f.v
  | .le => f.z = true ∨ f.n ≠ f.v

/-- Every lane of the team is active (R83; a team has at most 1024 lanes, R82). -/
def allActive (x : Team) : Prop := ∀ l, l < x.lanes → l < 1024 → x.act l = true

/-- When bm is taken (R54). -/
def takenMask (x : Team) : MCond → Prop
  | .mz => x.active = []
  | .nmz => x.active ≠ []
  | .ma => allActive x
  | .nma => ¬ allActive x

/-- A branch: when it is taken, and its offset in words. -/
def branching (x : Team) : Instr → Option (Prop × BitVec 21)
  | .bCond c off => some (taken x.ctx.cc c, off)
  | .bMask c off => some (takenMask x c, off)
  | _ => none

/-- The code offset of a header, off words from the header of the team's clause (R28). -/
def headerAt (x : Team) (off : BitVec 21) : BitVec 52 := BitVec.ofInt 52 (x.clause.toNat + 4 * off.toInt)

/-- The code offset of the header behind the team's clause, which a call keeps (R103). -/
def returnWord (x : Team) : Word := BitVec.ofNat 32 (x.clause.toNat + 4 * (x.words.length + 1))

/-- A code offset in a register that the checks of R103 pass: a multiple of 4 below the code length. -/
def Reaches (s : State) (x : Team) (v : Word) : Prop :=
  v.toNat % 4 = 0 ∧ ∃ r, s.record? x.launch = some r ∧ v.toNat < r.codeLen

/-- At a code offset a whole clause can be fetched, and a header stands there (R47, R49). -/
def Fetches (s : State) (x : Team) (off : BitVec 52) : Prop :=
  s.clauseFault x.launch off = none ∧ isHeader (s.codeWord x.launch off) = true

/-- A transfer or a yield through a register whose value is no code offset, or the offset of a word that is no header (R47, R103, R107). -/
def offTarget (s : State) (x : Team) (i : Instr) : Prop :=
  ∃ a, (i = .ret a ∨ i = .br a ∨ (∃ d, i = .callr d a) ∨ (∃ b, i = .yieldF a b) ∨ ∃ d b, i = .yieldC d a b) ∧
    (¬ Reaches s x (x.rd 0 a 0 0) ∨ s.clauseFault x.launch ((x.rd 0 a 0 0).setWidth 52) = none ∧
      isHeader (s.codeWord x.launch ((x.rd 0 a 0 0).setWidth 52)) = false)

/-- Executing i raises a trap, and changes nothing before it is taken. -/
abbrev Traps (i : Instr) (s : State) (t : Nat) (x : Team) (r : Report) : Prop :=
  exec i s = .next ((s.putTeam t (x.issued i)).takeTrap t { r with word := x.word })

/-- The illegal-instruction trap with a subcode (R51). -/
def illegal (sub : BitVec 4) : Report := { cause := 1#8, sub := sub }

/-- Executing i retires it, and leaves the team as y and everything else as it was. -/
abbrev Makes (i : Instr) (s : State) (t : Nat) (x y : Team) : Prop := exec i s = .next ((s.putTeam t y).retired t x i)

/-- Every lane below S. -/
abbrev everyLane (x : Team) (l : Nat) : Bool := decide (l < x.lanes)

/-- The identity word of IDR (R111, R112). -/
def identityWord (s : State) (x : Team) : IdrForm → Word
  | .core => mod32 x.core
  | .die => mod32 (x.core / 64 : Nat)
  | .cluster => mod32 (x.cluster % 16384 : Nat)
  | .teams => match s.record? x.launch with
    | some r => mod32 r.teams
    | none => 0#32
  | .groups => mod32 ((x.lanes + 31) / 32 : Nat)
  | .launch => match aget s.launches x.launch with
    | some l => mod32 (l.queue % 64 * 2 ^ 26 + l.seq % 2 ^ 26 : Nat)
    | none => 0#32
  | .arch => 0x00B00401#32

/-- The words of IDR, RETIRED.HI, CYCLES.HI, REGION.PC and REGION.COUNT (R111 to R114). -/
def identity (s : State) (x : Team) : Instr → Words
  | .idr f d => some (d, 1, fun _ _ => identityWord s x f)
  | .cycles true d => some (d, 1, fun _ _ => if s.deterministic x.launch then x.retHi else x.cycHi)
  | .retired true d => some (d, 1, fun _ _ => x.retHi)
  | .regionPc d => some (d, 1, fun _ _ => x.regionPc)
  | .regionCount d => some (d, 1, fun _ _ => x.regionN)
  | _ => none

end Sys2Proof.Claims

/-- R104: CMPU sets Z, N, C and V from the lowest-numbered active lane, and changes nothing else: no latch, no register, no mask; with
no lane active it changes nothing at all. -/
def Obligations.Compare : Prop :=
  ∀ c a b s t x, Runs (.cmpu c a b) s t x →
    Makes (.cmpu c a b) s t x (match x.active with
      | [] => x.issued (.cmpu c a b)
      | l :: _ => { x.issued (.cmpu c a b) with
          ctx := { x.ctx with cc := compared c (x.rd 0 a 0 l) (x.rd (litCount [a]) b 0 l) } })

/-- R101: NOP changes nothing. R39, R108: WINBASE sets the window base to 16 times its number; a base that is not below the registers
of a lane traps with subcode 11 and leaves it, once every earlier load has performed. -/
def Sys2Proof.Claims.NopAndWindow : Prop :=
  (∀ s t x, Runs .nop s t x → Makes .nop s t x (x.issued .nop)) ∧
  (∀ b s t x, Runs (.winbase b) s t x →
    Makes (.winbase b) s t x { x.issued (.winbase b) with ctx := { x.ctx with win := 16 * b.toNat } }) ∧
  ∀ b s t x, s.focus = some t → aget s.teams t = some x → x.late = [] → x.lits ≤ x.litN → x.regsN ≤ 16 * b.toNat →
    Traps (.winbase b) s t x (illegal 11#4)

/-- R105: MPUSH writes the old activity of every lane and keeps active the lanes whose predicate is not 0; MELSE and MPOP set the mask from
the save register, read in every lane; none of them makes a lane at or beyond S active. MPUSH whose destination is its predicate's own register reads the old
predicate in every lane (log 49). -/
def Obligations.Masking : Prop :=
  (∀ d p s t x, Runs (.mpush d p) s t x → ∃ y m,
    (x.issued (.mpush d p)).Wrote y (everyLane x) d 1 (fun _ l => if x.act l then 1#32 else 0#32) ∧
    (∀ l, l < 1024 → m.getLsbD l = (x.act l && x.rd 0 p 0 l != 0#32)) ∧
    Makes (.mpush d p) s t x { y with ctx := { x.ctx with mask := m } }) ∧
  (∀ v p s t x, Runs (.melse v p) s t x → ∃ m : BitVec 1024,
    (∀ l, l < 1024 → m.getLsbD l = (everyLane x l && x.rd 0 v 0 l != 0#32 && x.rd (litCount [v]) p 0 l == 0#32)) ∧
    Makes (.melse v p) s t x { x.issued (.melse v p) with ctx := { x.ctx with mask := m } }) ∧
  ∀ v s t x, Runs (.mpop v) s t x → ∃ m : BitVec 1024,
    (∀ l, l < 1024 → m.getLsbD l = (everyLane x l && x.rd 0 v 0 l != 0#32)) ∧
    Makes (.mpop v) s t x { x.issued (.mpop v) with ctx := { x.ctx with mask := m } }

/-- R28, R47, R54, R102: a branch whose condition holds goes to the header it names, and traps with subcode 9 where no header stands;
otherwise the team goes on behind the clause, and the target is not looked at. -/
def Obligations.Branches : Prop :=
  ∀ i c off s t x, branching x i = some (c, off) → Issues i s t x →
    (¬ c → s.goesOn x → Makes i s t x (x.issued i)) ∧
    (c → Fetches s x (headerAt x off) →
      exec i s = .next ((s.putTeam t (x.issued i)).retiredTo t x i (headerAt x off))) ∧
    (c → s.clauseFault x.launch (headerAt x off) = none → isHeader (s.codeWord x.launch (headerAt x off)) = false →
      Traps i s t x (illegal 9#4))

/-- R103: CALL leaves the return offset in o7 of every lane and shifts no latch; CALLR leaves it in its destination in every lane, as a
result; RET and BR write nothing; all go to the header they name. -/
def Sys2Proof.Claims.TransfersPart : Prop :=
  (∀ off s t x, Issues (.call off) s t x → Fetches s x (headerAt x off) → ∃ y,
    (∀ j l, l < 1024 → tget zeros y.ofile (j * 1024 + l)
      = if j = 7 ∧ l < x.lanes then returnWord x else tget zeros x.ofile (j * 1024 + l)) ∧
    (∀ q, q ∈ y.dirty ↔ q ∈ x.dirty ∨ ∃ l, l < x.lanes ∧ l < 1024 ∧ q = 32 * (x.regsN + 7) + l / 32) ∧
    y = { x.issued (.call off) with ofile := y.ofile, dirty := y.dirty } ∧
    exec (.call off) s = .next ((s.putTeam t y).retiredTo t x (.call off) (headerAt x off))) ∧
  (∀ d a s t x, Issues (.callr d a) s t x → Reaches s x (x.rd 0 a 0 0) → Fetches s x ((x.rd 0 a 0 0).setWidth 52) → ∃ y,
    (x.issued (.callr d a)).Wrote y (everyLane x) d 1 (fun _ _ => returnWord x) ∧
    exec (.callr d a) s = .next ((s.putTeam t y).retiredTo t x (.callr d a) ((x.rd 0 a 0 0).setWidth 52))) ∧
  ∀ i a s t x, i = .ret a ∨ i = .br a → Issues i s t x → Reaches s x (x.rd 0 a 0 0) →
    Fetches s x ((x.rd 0 a 0 0).setWidth 52) →
    exec i s = .next ((s.putTeam t (x.issued i)).retiredTo t x i ((x.rd 0 a 0 0).setWidth 52))

/-- R47, R103, R107: CALLR, RET, BR, YIELD.F and YIELD.C trap with subcode 9 where the register's target is no multiple of 4 below the
code length, or no header stands there, and CALL where no header stands at its offset; the destination and o7 keep what they held. -/
def Sys2Proof.Claims.BadTargets : Prop :=
  (∀ off s t x, Issues (.call off) s t x → s.clauseFault x.launch (headerAt x off) = none →
    isHeader (s.codeWord x.launch (headerAt x off)) = false → Traps (.call off) s t x (illegal 9#4)) ∧
  ∀ i s t x, s.focus = some t → aget s.teams t = some x → x.pending i = false → x.decodeCheck i = none → offTarget s x i →
    Traps i s t x (illegal 9#4)

/-- Transfers of control through offsets and registers. -/
def Obligations.Transfers : Prop := Sys2Proof.Claims.TransfersPart ∧ Sys2Proof.Claims.BadTargets

/-- R94, R107: YIELD goes on at the next header and gives the slot away: the team is last in the age order and no team is current.
YIELD.F and YIELD.C go to their continuation and give the slot away, parked unless their condition holds. A team that is not current has no
slot to give away. -/
def Obligations.Yields : Prop :=
  (∀ s t x, Runs .yield s t x →
    exec .yield s = .next (((s.putTeam t (x.issued .yield)).leave x.core t).retired t x .yield)) ∧
  (∀ a b s t x, Issues (.yieldF a b) s t x → Reaches s x (x.rd 0 a 0 0) → Fetches s x ((x.rd 0 a 0 0).setWidth 52) →
    let m := (x.rd (litCount [a]) b 0 0).extractLsb' 0 12
    let p := if ∀ o ∈ x.ops, ¬ m.getLsbD (o.flag - 1) then none else some (Park.flags m (x.rd 0 a 0 0))
    exec (.yieldF a b) s = .next (((s.putTeam t { x.issued (.yieldF a b) with park := p }).leave x.core t).retiredTo t x
      (.yieldF a b) ((x.rd 0 a 0 0).setWidth 52))) ∧
  (∀ d a b s t x, Issues (.yieldC d a b) s t x → Reaches s x (x.rd 0 a 0 0) → Fetches s x ((x.rd 0 a 0 0).setWidth 52) →
    let ad := (x.rd 0 d 0 0).toNat
    ad % 8 = 0 → ad + 8 ≤ Config.scratchBytes → s.counterBad (.sp (x.core / 64) ad) = none →
    let goal : BitVec 64 := x.rd 0 b 1 0 ++ x.rd 0 b 0 0
    let p := if goal.toNat ≤ s.counter (.sp (x.core / 64) ad) then none else some (Park.counter ad goal (x.rd 0 a 0 0))
    exec (.yieldC d a b) s = .next (((s.putTeam t { x.issued (.yieldC d a b) with park := p }).leave x.core t).retiredTo t x
      (.yieldC d a b) ((x.rd 0 a 0 0).setWidth 52))) ∧
  ∀ (s : State) c t,
    ((s.core c).current = some t → ((s.leave c t).core c).current = none ∧ ((s.leave c t).core c).issued = 0 ∧
      ((s.leave c t).core c).age = (s.core c).age.filter (· != t) ++ [t]) ∧
    ((s.core c).current ≠ some t → s.leave c t = s)

/-- R109: STGPOST fills the slot of the post index, flips its phase and moves the index on; STGTAKE writes the payload in the active lanes,
sets C alone to the phase, empties the slot and moves the take index on; on a full, or an empty, slot the team waits. -/
def Obligations.StageRings : Prop :=
  (∀ a q s t x p r sl, Runs (.stgpost a q) s t x → s.place? x.cluster x.core = some p → p.rings[q.toNat]? = some r →
    r.slots[r.post]? = some sl →
    (sl.full = false → exec (.stgpost a q) s = .next (((s.putTeam t (x.issued (.stgpost a q))).putPlace x.cluster { p with
      rings := p.rings.set q.toNat { r with
        slots := r.slots.set r.post { full := true, phase := !sl.phase, payload := x.rdFirst 0 a },
        post := if r.post + 1 = r.slots.length then 0 else r.post + 1 } }).retired t x (.stgpost a q))) ∧
    (sl.full = true → exec (.stgpost a q) s = .next ((s.putTeam t (x.issued (.stgpost a q))).park t (.ring q.toNat true)))) ∧
  ∀ d q s t x p r sl, Runs (.stgtake d q) s t x → s.place? x.cluster x.core = some p → p.rings[q.toNat]? = some r →
    r.slots[r.take]? = some sl →
    (sl.full = true → ∃ y, (x.issued (.stgtake d q)).Wrote y x.act d 1 (fun _ _ => sl.payload) ∧
      exec (.stgtake d q) s = .next ((((s.putTeam t (x.issued (.stgtake d q))).putPlace x.cluster { p with
        rings := p.rings.set q.toNat { r with
          slots := r.slots.set r.take { sl with full := false },
          take := if r.take + 1 = r.slots.length then 0 else r.take + 1 } }).putTeam t
        { y with ctx := { x.ctx with cc := { x.ctx.cc with c := sl.phase } } }).retired t x (.stgtake d q))) ∧
    (sl.full = false → exec (.stgtake d q) s = .next ((s.putTeam t (x.issued (.stgtake d q))).park t (.ring q.toNat false)))

/-- R111 to R114: the identity and region words, and the upper halves latched by CYCLES and RETIRED, in every active lane, as a result. -/
def Sys2Proof.Claims.IdentityReads : Prop :=
  ∀ i s t x d n v, identity s x i = some (d, n, v) → Runs i s t x → Results i s t x d n v

/-- R98, R113: RETIRED returns the lower word of the team's count of retired instructions and keeps the upper one for RETIRED.HI; in a
deterministic launch CYCLES does the same, and CYCLES.HI returns what RETIRED.HI returns; else CYCLES returns a cycle count that has moved
on by a free amount (log 5). That the two upper words are latched apart, and that RETIRED does not count itself, is log 28. -/
def Sys2Proof.Claims.LocalCounts : Prop :=
  (∀ d s t x, Runs (.retired false d) s t x → ∃ y,
    (x.issued (.retired false d)).Wrote { y with retHi := x.retHi } x.act d 1 (fun _ _ => mod32 x.retired.toNat) ∧
    y.retHi = mod32 (x.retired.toNat / 2 ^ 32 : Nat) ∧ Makes (.retired false d) s t x y) ∧
  (∀ d s t x, Runs (.cycles false d) s t x → s.deterministic x.launch = true → ∃ y,
    (x.issued (.cycles false d)).Wrote { y with retHi := x.retHi } x.act d 1 (fun _ _ => mod32 x.retired.toNat) ∧
    y.retHi = mod32 (x.retired.toNat / 2 ^ 32 : Nat) ∧ Makes (.cycles false d) s t x y) ∧
  ∀ d s t x, Runs (.cycles false d) s t x → s.deterministic x.launch = false → ∃ y,
    let n := (s.core x.core).cycles + 1#64 + BitVec.ofNat 64 (Config.freeCycles s.fresh)
    (x.issued (.cycles false d)).Wrote { y with cycHi := x.cycHi } x.act d 1 (fun _ _ => n.extractLsb' 0 32) ∧
    y.cycHi = n.extractLsb' 32 32 ∧
    exec (.cycles false d) s = .next (((({ s with fresh := s.fresh + 1 } : State).putCore x.core
      { s.core x.core with cycles := n }).putTeam t y).retired t x (.cycles false d))

/-- Identity reads and local counts. -/
def Obligations.IdentityAndCounts : Prop := Sys2Proof.Claims.IdentityReads ∧ Sys2Proof.Claims.LocalCounts

/-- R101: HALT, with no flag set, nothing to publish behind a stall, no packet outstanding and no record of drops, ends the team: it has
left the module's teams and its core's age order, and holds no lock and no unpublished byte; a team that waited at HALT for its
flags ends as they are clear. -/
def Sys2Proof.Claims.HaltEndsTheTeam : Prop :=
  ∀ s t x, let Ended := fun u : State => aget u.teams t = none ∧ t ∉ (u.core x.core).age ∧
      (∀ b ∈ (u.core x.core).unpub, b.team ≠ t) ∧ ∀ l ∈ (u.die (x.core / 64)).locks, l.2 ≠ t
    x.ops = [] → x.sentTo = [] → x.redDrop = none → x.msgDrop = none → s.duskStalls x.core t = false →
    (Issues .halt s t x → ∃ u, exec .halt s = .next u ∧ Ended u) ∧
    (aget s.teams t = some x → t ∈ (s.core x.core).age → x.park = some .halt →
      (s.core x.core).rotation = [] ∨ (s.core x.core).rotation.head? = some t → ∃ u, exec (.teamEnd t) s = .next u ∧ Ended u)

/-- NOP, WINBASE and HALT. -/
def Obligations.NopWindowAndHalt : Prop := Sys2Proof.Claims.NopAndWindow ∧ Sys2Proof.Claims.HaltEndsTheTeam

/-- R41, R42, R44, R49: a header that passes its checks and whose wait flags are clear starts its clause: the words behind it are in
the buffer, the latches are empty, no literal is taken; a region-entry header names the region's address, counts it and
captures the team's state. A team whose wait flags are not clear, or whose last capture is not written yet, gives its slot away with
nothing done. A header that fails a check traps with subcode 5 or 6 before its flags are looked at. -/
def Obligations.ClauseStarts : Prop :=
  ∀ wait setA setB len lits region s t x, s.focus = some t → aget s.teams t = some x → x.started = false →
    let i := Instr.clauseStart wait setA setB len lits region
    (setA.toNat < 13 → setB.toNat < 13 → (setA = 0#4 → setB = 0#4) → lits.toNat ≤ len.toNat →
      (∀ o ∈ x.ops, ¬ wait.getLsbD (o.flag - 1)) → (region = true → x.planes = [] ∧ x.headQueued = false ∧ x.late = []) →
      s.clauseFault x.launch x.clause = none →
      ∃ u y, exec i s = .next u ∧ aget u.teams t = some y ∧ y.started = true ∧ y.clause = x.clause ∧ y.idx = 0 ∧
        y.lits = 0 ∧ y.litN = lits.toNat ∧ y.setA = setA.toNat ∧ y.setB = setB.toNat ∧ y.latchN = 0 ∧
        y.words.length = len.toNat + 1 ∧
        (∀ k, k ≤ len.toNat → y.words[k]? = some (leWord (s.vaBytes (s.rootOf x.launch) .fetch
          (s.codeVa x.launch x.clause + 4 * (k + 1)) 4))) ∧
        y.regs = x.regs ∧ y.ofile = x.ofile ∧ y.ops = x.ops ∧ y.ctx = x.ctx ∧ y.retired = x.retired ∧
        (region = false → y.regionPc = x.regionPc ∧ y.regionN = x.regionN ∧ u.mem = s.mem) ∧
        (region = true → y.regionPc = mod32 x.clause.toNat ∧ y.regionN = x.regionN + 1#32 ∧ y.regionCtx = x.ctx)) ∧
    (setA.toNat < 13 → setB.toNat < 13 → (setA = 0#4 → setB = 0#4) → lits.toNat ≤ len.toNat →
      (∃ o ∈ x.ops, wait.getLsbD (o.flag - 1) = true) ∨ region = true ∧ (x.planes ≠ [] ∨ x.headQueued = true ∨ x.late ≠ []) →
      exec i s = .next ((s.putTeam t { x with park := none }).leave x.core t)) ∧
    (13 ≤ setA.toNat ∨ 13 ≤ setB.toNat ∨ setA = 0#4 ∧ setB ≠ 0#4 →
      exec i s = .next ((s.putTeam t { x with park := none }).takeTrap t
        { illegal 5#4 with word := s.codeWord x.launch x.clause })) ∧
    (setA.toNat < 13 → setB.toNat < 13 → (setA = 0#4 → setB = 0#4) → len.toNat < lits.toNat →
      exec i s = .next ((s.putTeam t { x with park := none }).takeTrap t
        { illegal 6#4 with word := s.codeWord x.launch x.clause }))

/-! Encoding, steps, retirement, traps. -/

namespace Sys2Proof.Claims

open Sys2Proof.Machine

/-- Words written out from the encodings of the spec (R26 to R29, R40, R53 and the entries of each class), with the instruction that each
stands for. -/
def specWords : List (Word × Instr) :=
  [(0b0000000_0000_0000000_0000000_0000000#32, .nop),
   (0b0000000_0001_0000000_0000000_0000000#32, .halt),
   (0b0000001_1011_111111111111111111110#32, .bCond .ge (-2)),
   (0b0001000_0000_0000000_0000000000_0101#32, .winbase 5),
   (0b0011101_0000_0000100_11111111111011#32, .movi 4 (-5)),
   (0b0010000_0100_0000001_0000010_0000011#32, .adds .i32 1 2 3),
   (0b0101000_0000_1110000_0000001_1111111#32, .fadd 112 1 127),
   (0b0111001_0010_0000101_0000110_0000100#32, .stSh .w32 5 6 4),
   (0b1001000_0000_0000111_0001000_0000000#32, .cstage 7 8),
   (0b1010001_0011_0000010_0010000_0001000#32, .mmqs 3 2 16 8),
   (0b1011000_0001_0000001_0000000_0000000#32, .snext 1),
   (0b1011111_0000_0000011_0000100_0000000#32, .mark 3 4),
   (0b1101110_0000_0001001_0000000_0001101#32, .sysrd 9 13),
   (0b1111_000000000001_0010_0000_0011_01_1_0#32, .clauseStart 1 2 0 3 1 true)]

/-- Instructions whose class a role must own (R90), by the major opcode of the word: 1 copy, 2 matrix, 0 none. -/
def classOf (w : Word) : Nat :=
  let m := w.toNat / 2 ^ 25
  if 0x48 ≤ m ∧ m ≤ 0x4A ∨ 0x5E ≤ m ∧ m ≤ 0x62 ∨ 0x64 ≤ m ∧ m ≤ 0x66 ∨ m = 0x68 ∧ w.toNat / 2 ^ 21 % 16 = 0 then 1
  else if 0x50 ≤ m ∧ m ≤ 0x55 then 2 else 0

/-- Functions, conditions and widths that the opcode map assigns under a major (R53); none under a major that it does not assign. -/
def assigned (major : Nat) : List Nat :=
  let upTo := fun n => List.range (n + 1)
  match major with
  | 0x00 => upTo 1 | 0x01 => upTo 14 | 0x02 => upTo 3 | 0x03 => upTo 0 | 0x04 => upTo 2 | 0x05 => upTo 2 | 0x06 => upTo 2
  | 0x07 => upTo 2 | 0x08 => upTo 0 | 0x09 => upTo 1 | 0x0A => upTo 6 | 0x0B => upTo 3 | 0x0C => upTo 1
  | 0x10 => upTo 7 | 0x11 => upTo 4 | 0x12 => upTo 2 | 0x13 => upTo 1 | 0x14 => upTo 6 | 0x15 => upTo 4 | 0x16 => upTo 4
  | 0x17 => upTo 9 | 0x18 => upTo 0 | 0x19 => upTo 6 | 0x1A => upTo 0 | 0x1B => upTo 4 | 0x1C => upTo 0 | 0x1D => upTo 1
  | 0x1E => upTo 4 | 0x1F => upTo 3 | 0x20 => upTo 7 | 0x21 => upTo 4
  | 0x28 => upTo 1 | 0x29 => upTo 0 | 0x2A => upTo 3 | 0x2B => upTo 5 | 0x2C => upTo 7 | 0x2D => upTo 5 | 0x2E => upTo 9
  | 0x2F => upTo 13 | 0x30 => upTo 13 | 0x31 => upTo 7 | 0x32 => upTo 1
  | 0x38 => upTo 6 | 0x39 => upTo 4 | 0x3A => upTo 6 | 0x3B => upTo 4 | 0x3C => upTo 6 | 0x3D => upTo 4 | 0x3E => upTo 1
  | 0x3F => upTo 10 | 0x40 => upTo 10 | 0x41 => upTo 7
  | 0x48 => upTo 1 | 0x49 => upTo 3 | 0x4A => upTo 5
  | 0x50 => upTo 0 | 0x51 => upTo 15 | 0x52 => upTo 0 | 0x53 => upTo 1 | 0x54 => upTo 4 | 0x55 => upTo 2
  | 0x58 => upTo 2 | 0x59 => upTo 1 | 0x5A => upTo 1 | 0x5B => upTo 0
  | 0x5E => upTo 1 | 0x5F => upTo 1 | 0x60 => upTo 1 | 0x61 => upTo 0 | 0x62 => upTo 2 | 0x64 => upTo 0 | 0x65 => upTo 2
  | 0x66 => upTo 5 | 0x68 => upTo 0 | 0x69 => upTo 1 | 0x6A => upTo 0 | 0x6C => upTo 1 | 0x6D => upTo 2 | 0x6E => upTo 1
  | _ => []

/-- The subcode of a word that stands for no instruction in an instruction position (R29, R45, R51 to R53): a header; a major that is not
assigned; a function that is not; WINBASE with bits of its immediate set that must be 0. -/
def unassigned (w : Word) : Option (BitVec 4) :=
  let m := w.toNat / 2 ^ 25
  if 0x78 ≤ m then some 8#4
  else if assigned m = [] then some 0#4
  else if w.toNat / 2 ^ 21 % 16 ∉ assigned m then some 1#4
  else if m = 0x08 ∧ w.toNat / 2 ^ 4 % 2 ^ 10 ≠ 0 then some 10#4
  else none

/-- The field value is illegal as the destination of one word (R31): a latch, ln, tm or 127. -/
def notDest (n : Nat) : Prop := 120 ≤ n ∧ n ≠ 124

/-- The field value names no pair (R117): neither an even v register up to v110 nor o0, o2, o4 or o6. -/
def notPair (n : Nat) : Prop := n % 2 = 1 ∨ 119 ≤ n

/-- The field value names no four registers (R165): neither v0, v4 to v108 nor o0 or o4. -/
def notFour (n : Nat) : Prop := n % 4 ≠ 0 ∨ 117 ≤ n

/-- Majors each of whose functions writes one word to the field at bits 20 to 14. -/
def writingMajors : List Nat :=
  [0x0A, 0x0B, 0x0C, 0x10, 0x12] ++ (List.range 14).map (· + 0x14) ++ (List.range 11).map (· + 0x28) ++
    [0x48, 0x59, 0x5A, 0x5B, 0x5F, 0x60, 0x61, 0x62, 0x64, 0x69, 0x6E]

/-- Majors and functions that write one word to that field, under a major where others do not. -/
def writingFunctions : List (Nat × Nat) :=
  [(0x04, 1), (0x06, 0), (0x09, 1), (0x11, 0), (0x11, 1), (0x11, 2), (0x3E, 0), (0x49, 2), (0x49, 3), (0x4A, 0), (0x4A, 3), (0x4A, 5),
    (0x55, 2), (0x5E, 0), (0x65, 0), (0x65, 1)]

/-- An operand field of the word holds a value that is illegal in its position (R31, R32, R39, R107, R109, R117, R165, R181, R222, R235 to
R242, R252 to R259, R348 and the entries of each class). Bits 20 to 14, 13 to 7 and 6 to 0 are d, a and b. -/
def forbidden (w : Word) : Prop :=
  let m := w.toNat / 2 ^ 25
  let f := w.toNat / 2 ^ 21 % 16
  let d := w.toNat / 2 ^ 14 % 128
  let a := w.toNat / 2 ^ 7 % 128
  let b := w.toNat % 128
  (m ∈ writingMajors ∨ (m, f) ∈ writingFunctions) ∧ notDest d ∨
  match m with
  | 0x07 => f = 2 ∧ (124 ≤ d ∨ notPair b)
  | 0x09 => 16 ≤ b
  | 0x11 => 3 ≤ f ∧ notPair d
  | 0x13 => notPair d
  | 0x38 => f ≤ 4 ∧ notDest d ∨ f = 5 ∧ d ≠ 124 ∧ notPair d ∨ f = 6 ∧ d ≠ 124 ∧ notFour d
  | 0x3A => f ≤ 4 ∧ notDest d ∨ f = 5 ∧ d ≠ 124 ∧ notPair d ∨ f = 6 ∧ d ≠ 124 ∧ notFour d
  | 0x3C => f ≤ 4 ∧ notDest d ∨ f = 5 ∧ d ≠ 124 ∧ notPair d ∨ f = 6 ∧ d ≠ 124 ∧ notFour d
  | 0x39 => f = 3 ∧ d ≠ 124 ∧ notPair d ∨ f = 4 ∧ d ≠ 124 ∧ notFour d
  | 0x3B => f = 3 ∧ d ≠ 124 ∧ notPair d ∨ f = 4 ∧ d ≠ 124 ∧ notFour d
  | 0x3D => f = 3 ∧ d ≠ 124 ∧ notPair d ∨ f = 4 ∧ d ≠ 124 ∧ notFour d
  | 0x3F => f ≠ 9 ∧ notDest d ∨ f = 9 ∧ notPair d
  | 0x40 => f ≠ 9 ∧ notDest d ∨ f = 9 ∧ notPair d
  | 0x49 => f = 0 ∧ notPair b ∨ f = 1 ∧ notPair d
  | 0x50 => 16 ≤ d ∨ 97 ≤ a ∨ notPair b
  | 0x51 => 16 ≤ d ∨ 97 ≤ a ∨ notPair b
  | 0x52 => 16 ≤ d ∨ notPair a ∨ notPair b
  | 0x53 => f = 1 ∧ (16 ≤ d ∨ 16 ≤ a)
  | 0x54 => f = 0 ∧ (notFour d ∨ 16 ≤ a ∨ notPair b) ∨ f = 1 ∧ (16 ≤ d ∨ notFour a ∨ notPair b) ∨
      f = 2 ∧ (120 ≤ d ∨ 16 ≤ a ∨ notPair b) ∨ f = 3 ∧ 16 ≤ a ∨ f = 4 ∧ (notPair d ∨ 16 ≤ a)
  | 0x55 => f = 0 ∧ (112 ≤ d ∨ 112 ≤ a) ∨ f = 1 ∧ 16 ≤ d ∨ f = 2 ∧ 16 ≤ a
  | 0x58 => 8 ≤ d
  | 0x59 => 8 ≤ a ∨ 8 ≤ b ∨ a = b
  | 0x5A => 8 ≤ a
  | 0x5B => notPair b
  | 0x5E => f = 0 ∧ notPair a
  | 0x65 => f ≠ 0 ∧ notPair a
  | 0x66 => notPair a
  | 0x68 => notPair a ∨ notPair b
  | 0x6A => b ≠ 124 ∧ notFour b
  | 0x6C => f = 1 ∧ 3 ≤ b
  | 0x6D => f = 1 ∧ notPair b ∨ f = 2 ∧ notPair a
  | _ => False

/-- The instruction of a team is not looked at yet: the core's matrix state belongs to another launch (R220), or a register that it reads,
or an access before it, is outstanding (R93). -/
def heldBack (s : State) (x : Team) (i : Instr) : Prop :=
  classRole i = 2 ∧ (s.core x.core).owner ≠ some x.launch ∨ x.pending i = true

/-- The instruction names a stage ring that the launch does not have (R109). -/
def lacksRing (s : State) (x : Team) (i : Instr) : Prop :=
  ∃ f q : Field, (i = .stgpost f q ∨ i = .stgtake f q) ∧
    ∀ p, s.place? x.cluster x.core = some p → p.rings.length ≤ q.toNat

/-- Source and kept registers of SPCMP by element format (R239). -/
def prunes : Nat → Option (Nat × Nat)
  | 1 => some (4, 2)
  | 2 => some (4, 2)
  | 3 => some (2, 1)
  | 4 => some (2, 1)
  | 5 => some (2, 1)
  | 7 => some (1, 1)
  | _ => none

/-- In some active lane SPCMP's spans satisfy a relation of their first fields and lengths. -/
def someSpan (x : Team) (i : Instr) (p : Nat → Nat → Nat → Nat → Prop) : Prop :=
  ∃ d a v l src keep, i = .spcmp d a v ∧ l ∈ x.active ∧ prunes ((x.rd 0 v 0 l).toNat % 16) = some (src, keep) ∧
    p d.toNat a.toNat src keep

/-- A span of SPCMP reaches beyond v111 (R31, R239). -/
def spansTooFar (x : Team) (i : Instr) : Prop := someSpan x i fun d a src keep => 111 < a + src - 1 ∨ 111 < d + keep

/-- A span of SPCMP reaches beyond the team's allocation (R38, R239). -/
def spansBeyond (x : Team) (i : Instr) : Prop :=
  someSpan x i fun d a src keep => x.regsN < x.ctx.win + a + src ∨ x.regsN < x.ctx.win + d + keep + 1

/-- An operand reads a latch that the clause has not filled (R36). -/
def readsEmptyLatch (x : Team) (i : Instr) : Prop :=
  ∃ o ∈ i.operands, o.rd = true ∧ 120 ≤ o.f.toNat ∧ o.f.toNat < 124 ∧ x.latchN ≤ o.f.toNat - 120

/-- The instruction asks for more literals than remain (R48). -/
def lacksLiterals (x : Team) (i : Instr) : Prop := x.litN < x.lits + literalsOf i

/-- A transfer that does not stand last in its clause (R46). -/
def misplaced (x : Team) (i : Instr) : Prop := i.isTransfer = true ∧ x.idx + 1 < x.words.length - x.litN

/-- A register operand beyond the team's allocation (R38), or such a window base (R39). -/
def beyondWindow (x : Team) (i : Instr) : Prop :=
  (∃ o ∈ i.operands, 0 < o.span ∧ o.f.toNat < 112 ∧ x.regsN ≤ x.ctx.win + o.f.toNat + (o.span - 1)) ∨
    ∃ b, i = .winbase b ∧ x.regsN ≤ 16 * b.toNat

/-- Code offset of the team's next instruction word, in its started clause (R28). -/
def placeOf (x : Team) : Word := BitVec.ofNat 32 (x.clause.toNat + 4 * (x.idx + 1))

/-- The TCAUSE word (R350). -/
def causeWord (r : Report) : Word := BitVec.ofNat 32 (r.cause.toNat * 256 + r.sub.toNat)

/-- What the team keeps whatever happens to its position: registers, operand file, streams, metadata, flags, references. -/
def Keeps (x y : Team) : Prop :=
  y.regs = x.regs ∧ y.ofile = x.ofile ∧ y.streams = x.streams ∧ y.mdata = x.mdata ∧ y.ops = x.ops ∧ y.pendRegs = x.pendRegs ∧
    y.barRefs = x.barRefs ∧ y.redDrop = x.redDrop ∧ y.msgDrop = x.msgDrop ∧ y.sentTo = x.sentTo ∧ y.regionPc = x.regionPc ∧
    y.regionN = x.regionN ∧ y.regionCtx = x.regionCtx ∧ y.capture = x.capture ∧ y.planes = x.planes ∧ y.cycHi = x.cycHi ∧
    y.retHi = x.retHi ∧ y.headQueued = x.headQueued ∧ y.lost = x.lost ∧ y.spans = x.spans ∧ y.spanLog = x.spanLog ∧
    y.markers = x.markers ∧ y.released = x.released ∧ y.unseen = x.unseen ∧
    y.launch = x.launch ∧ y.cluster = x.cluster ∧ y.core = x.core ∧ y.lanes = x.lanes ∧ y.regsN = x.regsN

/-- What the storage of the module holds in both states alike: every byte of main memory, the dies with their scratchpads, locks and
barriers, the clusters with their shared memory and rings. -/
def SameStorage (s u : State) : Prop :=
  (∀ a, tget zeros u.mem a = tget zeros s.mem a) ∧ u.dies = s.dies ∧ u.clusters = s.clusters

/-- Nothing but cores and teams differs that a register instruction could touch. -/
def SameWorld (s u : State) : Prop :=
  u.launches = s.launches ∧ u.queues = s.queues ∧ u.graphs = s.graphs ∧ u.waves = s.waves ∧ u.copies = s.copies ∧
    u.ranges = s.ranges ∧ u.packets = s.packets ∧ u.events = s.events ∧ u.replies = s.replies ∧ u.serr = s.serr ∧
    u.mgmt = s.mgmt ∧ u.keys = s.keys ∧ u.islands = s.islands ∧ u.links = s.links ∧ u.remotes = s.remotes

/-- A core's storage is the same: matrix state, B store, array queue, stack cache, unpublished bytes, allowances, counts. -/
def SameCore (c d : Core) : Prop :=
  d.acc = c.acc ∧ d.rowMax = c.rowMax ∧ d.rowSum = c.rowSum ∧ d.bst = c.bst ∧ d.queue = c.queue ∧ d.stack = c.stack ∧
    d.unpub = c.unpub ∧ d.snap = c.snap ∧ d.allow = c.allow ∧ d.incoming = c.incoming ∧ d.spawnQ = c.spawnQ ∧
    d.children = c.children ∧ d.segs = c.segs ∧ d.arriving = c.arriving ∧ d.blog = c.blog ∧ d.handleNo = c.handleNo ∧
    d.cerr = c.cerr ∧ d.cycles = c.cycles ∧ d.owner = c.owner ∧ d.residents = c.residents ∧ d.rotation = c.rotation

end Sys2Proof.Claims

/-- The decoder reads words written out from the spec's encodings as the instructions they stand for. -/
def Obligations.DecodesSpecWords : Prop := ∀ p ∈ specWords, decodeTableWord 32 p.1.toNat = some p.2

/-- Every well-formed instruction with an encoding is what its word decodes to, with every operand at every value; and a word that
decodes decodes to an instruction whose own word decodes to it again: decoding tells instructions apart by nothing but the
fields that the word of the instruction holds. -/
def Obligations.DecodeAndEncodeAgree : Prop :=
  (∀ i w, encode i = some w → i.wf = true → decodeTableWord 32 w.toNat = some i) ∧
  ∀ w i, decodeTableWord 32 w = some i → ∃ v, encode i = some v ∧ decodeTableWord 32 v.toNat = some i

/-- R45, R93, R94, R96: a step of a core runs, for the team that the slot goes to, the instruction that its word decodes to; before its
clause has started, the header that memory holds at its place. Then the rotation of a deterministic launch moves on, the team that issues
beside it in banking mode B follows, and arriving work wakes its islands (R371). -/
def Sys2Proof.Claims.StepRunsTheInstruction : Prop :=
  ∀ s n rest t s' x i, s.script = .core n :: rest → ({ s with script := rest } : State).pick exec n = .team t s' →
    aget s'.teams t = some x →
    (if x.started then decodeInstr x.word = .ok i
      else s'.clauseFault x.launch x.clause = none ∧ decodeHeader (s'.codeWord x.launch x.clause) = .ok i) →
    (∀ u, exec i { s' with focus := some t } = .next u →
      let v := u.turned n t x.started
      (s'.partner exec n t = none → step s = stir (.next v)) ∧
      ∀ p, s'.partner exec n t = some p →
        step s = stir (if (v.core n).age.contains p && v.ready exec p then (v.pairing n p).teamStep exec p else .next v)) ∧
    ∀ f, exec i { s' with focus := some t } = .fault f → step s = .fault f

/-- R29, R45, R51 to R53: a word that stands for no instruction traps with the subcode of R51 when a team comes to it; every other word
decodes to an instruction. -/
def Sys2Proof.Claims.UnassignedWordsTrap : Prop :=
  (∀ w, unassigned w = none → ∃ i, decodeInstr w = .ok i) ∧
  ∀ (s : State) n rest t s' x sub, s.script = .core n :: rest → ({ s with script := rest } : State).pick exec n = .team t s' →
    aget s'.teams t = some x → x.started = true → unassigned x.word = some sub → s'.partner exec n t = none →
    let u := ({ s' with focus := some t } : State).takeTrap t { illegal sub with word := x.word }
    step s = stir (.next (u.turned n t true))

/-- What a step of a core runs. -/
def Obligations.StepRunsDecoded : Prop := Sys2Proof.Claims.StepRunsTheInstruction ∧ Sys2Proof.Claims.UnassignedWordsTrap

/-- R373: right after reset the module is ready: nothing is launched, no queue is configured, no key but key 0 is loaded, no graph is
bound, no barrier is allocated, every error count is 0. Every byte of main memory reads 0 (log 2, the model's choice). -/
def Sys2Proof.Claims.ResetState : Prop :=
  let r := State.reset
  r.phase = .ready ∧ r.launches = [] ∧ r.teams = [] ∧ r.clusters = [] ∧ r.keys = [] ∧ (∀ q, (r.queue q).cfg = none) ∧
    (∀ p, (r.graph p).live = false) ∧ r.waves = [] ∧ r.copies = [] ∧ (∀ d, (r.die d).barriers = [] ∧ (r.die d).locks = []) ∧
    (∀ a, tget zeros r.mem a = 0#8) ∧ (∀ n, (r.core n).cerr = 0#32 ∧ (r.core n).age = []) ∧ ∀ k, tget zeros r.serr k = 0#32

/-- The memory right after reset has the canonical form. -/
def Sys2Proof.Claims.ResetMemoryIsCanonical : Prop := Memory.wf State.reset.mem = true

/-- The module right after reset. -/
def Obligations.Reset : Prop := Sys2Proof.Claims.ResetState ∧ Sys2Proof.Claims.ResetMemoryIsCanonical

/-- Every step keeps the canonical form of main memory: addresses rise, and no byte is listed that an unlisted address reads as. -/
def Obligations.MemoryStaysCanonical : Prop :=
  ∀ s u, Memory.wf s.mem = true → step s = .next u → Memory.wf u.mem = true

/-- No instruction is refused, in any state; and no step is. -/
def Sys2Proof.Claims.NothingIsRefusedPart : Prop := (∀ i s r, exec i s ≠ .refused r) ∧ ∀ s r, step s ≠ .refused r

/-- R52: a step always has an effect, unless the script names an event that cannot occur: every word that a team comes to executes or
traps. -/
def Sys2Proof.Claims.EveryStepMoves : Prop := ∀ s : State, (∀ i r, s.script ≠ .event i :: r) → s.Moves

/-- No refusal, and a next state for every step but an event that cannot occur. -/
def Obligations.NothingIsRefused : Prop := Sys2Proof.Claims.NothingIsRefusedPart ∧ Sys2Proof.Claims.EveryStepMoves

/-- R45, R48, R94, R113: what retiring does: the team's count of retired instructions and its literals go on; it stands at the next word, or
behind the last one at the next header, with empty latches; the core counts an issue, and after 64 the team is left; an issue beside the current
team counts toward its own team's 64 (R96). A denied page is forgotten. Nothing else of the team or the module changes but cached translations. -/
def Obligations.Retirement : Prop :=
  ∀ (s : State) t x i, aget s.teams t = some x →
    let u := s.retired t x i
    (∃ y, aget u.teams t = some y ∧ y.retired = x.retired + 1#64 ∧ Keeps x y ∧ y.ctx = x.ctx ∧ y.park = x.park ∧
      y.trap = x.trap ∧ y.denied = [] ∧
      if x.idx + 1 < x.words.length - x.litN then
        y.clause = x.clause ∧ y.started = x.started ∧ y.words = x.words ∧ y.idx = x.idx + 1 ∧
          y.lits = x.lits + literalsOf i ∧ y.latch = x.latch ∧ y.latchN = x.latchN ∧ y.setA = x.setA ∧ y.setB = x.setB ∧
          y.longs = x.longs ∧ y.late = x.late
      else y.clause = BitVec.ofNat 52 (x.clause.toNat + 4 * (x.words.length + 1)) ∧ y.started = false ∧ y.latchN = 0 ∧
        y.late = x.late.map fun q => { q with depth := 4 }) ∧
    (∀ n, n ≠ t → aget u.teams n = aget s.teams n) ∧ (∀ n, n ≠ x.core → u.core n = s.core n) ∧
    SameCore (s.core x.core) (u.core x.core) ∧ SameStorage s u ∧ SameWorld s u ∧
    let c := s.core x.core
    let d := u.core x.core
    (c.current ≠ some t → aget c.paired t = none → d = c) ∧
    (∀ n, c.current ≠ some t → aget c.paired t = some n → d = { c with paired := aput c.paired t (n + 1) }) ∧
    (c.current = some t → c.issued + 1 < 64 → d = { c with issued := c.issued + 1 }) ∧
    (c.current = some t → 64 ≤ c.issued + 1 →
      d = { c with issued := 0, current := none, age := c.age.filter (· != t) ++ [t] })

/-- R31, R32, R36, R38, R39, R46, R47, R48, R51, R103, R109, R239: the checks at decode, the lowest subcode first. -/
def Sys2Proof.Claims.IllegalInstructions : Prop :=
  ∀ i w s t x, encode i = some w → isHeader w = false → s.focus = some t → aget s.teams t = some x → ¬ heldBack s x i →
    let two := forbidden w ∨ lacksRing s x i ∨ spansTooFar x i
    (two → Traps i s t x (illegal 2#4)) ∧
    (¬ two → readsEmptyLatch x i → Traps i s t x (illegal 3#4)) ∧
    (¬ two → ¬ readsEmptyLatch x i → lacksLiterals x i → Traps i s t x (illegal 4#4)) ∧
    (¬ two → ¬ readsEmptyLatch x i → ¬ lacksLiterals x i → misplaced x i → Traps i s t x (illegal 7#4)) ∧
    (¬ two → ¬ readsEmptyLatch x i → ¬ lacksLiterals x i → ¬ misplaced x i → offTarget s x i → Traps i s t x (illegal 9#4)) ∧
    (¬ two → ¬ readsEmptyLatch x i → ¬ lacksLiterals x i → ¬ misplaced x i → ¬ offTarget s x i →
      beyondWindow x i ∨ spansBeyond x i → Traps i s t x (illegal 11#4))

/-- R90, R91, R93, R220, R356, R365: before its checks, an instruction of the matrix class waits while the core's matrix state belongs to
another launch, and any instruction while a register that it reads is still to be written; behind the checks at decode, one of a class
that the team's role does not own raises the role trap, an uncorrectable error in a register that it reads raises the storage error trap,
and a plane that it overwrites and that is still to be captured makes the team wait; a wait leaves nothing done. -/
def Sys2Proof.Claims.ChecksBehindDecoding : Prop :=
  ∀ i w s t x, encode i = some w → isHeader w = false → s.focus = some t → aget s.teams t = some x →
    let parks := fun p => exec i s = .next ((s.putTeam t (x.issued i)).park t p)
    (classOf w = 2 → (s.core x.core).owner ≠ some x.launch → parks (.owner [x.core])) ∧
    (classOf w ≠ 2 ∨ (s.core x.core).owner = some x.launch → x.pending i = true → parks .result) ∧
    (¬ heldBack s x i → x.decodeCheck i = none → ¬ lacksRing s x i → ¬ spansTooFar x i → ¬ spansBeyond x i → ¬ offTarget s x i →
      (x.role ≠ 0 → classOf w ≠ 0 → classOf w ≠ x.role → Traps i s t x { cause := 2#8, info0 := mod32 x.role }) ∧
      (x.role = 0 ∨ classOf w = 0 ∨ classOf w = x.role →
        (∀ r, s.regError t x i = some r → Traps i s t x r) ∧
        (s.regError t x i = none → x.planes.any (x.writesPlane i) = true → parks .capture)))

/-- The checks in front of an instruction. -/
def Obligations.ChecksInFront : Prop := Sys2Proof.Claims.IllegalInstructions ∧ Sys2Proof.Claims.ChecksBehindDecoding

/-- R343, R344, R350: a trap is taken by the team's handler: the report is in the trap registers, the context in the trap shadow, every
lane is active, the handler's header is next with empty latches; registers, flags and outstanding operations stay. -/
def Sys2Proof.Claims.TrapIsTakenByTheHandler : Prop :=
  ∀ (s : State) t x r, aget s.teams t = some x → x.late = [] → x.trap.vec ≠ 0#32 → x.trap.inTrap = false →
    Fetches s x (x.trap.vec.setWidth 52) →
    ∃ y, aget (s.takeTrap t r).teams t = some y ∧ Keeps x y ∧
      y.trap.cause = causeWord r ∧ (x.started = true → y.trap.pc = placeOf x) ∧
      (x.started = false → y.trap.pc = BitVec.ofNat 32 x.clause.toNat) ∧
      y.trap.word = r.word ∧ y.trap.lane = r.lane ∧ y.trap.info0 = r.info0 ∧ y.trap.info1 = r.info1 ∧
      y.trap.info2 = r.info2 ∧ y.trap.info3 = r.info3 ∧ y.trap.regPc = x.regionPc ∧ y.trap.regCnt = x.regionN ∧
      y.trap.vec = x.trap.vec ∧ y.trap.inTrap = true ∧
      y.trap.shadow = x.ctx ∧ y.trap.regionCtx = x.regionCtx ∧ y.trap.latch = x.latch ∧ y.trap.latchN = x.latchN ∧ y.trap.lits = x.lits ∧
      (∀ l, l < x.lanes → l < 1024 → y.act l = true) ∧ y.ctx = { x.ctx with mask := y.ctx.mask } ∧
      y.clause = x.trap.vec.setWidth 52 ∧ y.started = false ∧ y.latchN = 0 ∧ y.lits = 0 ∧ y.retired = x.retired ∧
      (∀ n, n ≠ t → aget (s.takeTrap t r).teams n = aget s.teams n) ∧ SameStorage s (s.takeTrap t r)

/-- R345: a trap that no handler takes (none is set, the team is in it, or no header stands there) ends the launch: none of its teams, copies,
waves and graphs is left, it counts as ended, and the host receives one event of kind 1 with the cause and subcode and the code offset of the trapping
instruction. Memory stays as it is. -/
def Sys2Proof.Claims.TrapEndsTheLaunch : Prop :=
  ∀ (s : State) t x l r, aget s.teams t = some x → x.late = [] → aget s.launches x.launch = some l →
    (x.trap.vec = 0#32 ∨ x.trap.inTrap = true ∨
      s.clauseFault x.launch (x.trap.vec.setWidth 52) = none ∧
        isHeader (s.codeWord x.launch (x.trap.vec.setWidth 52)) = false) →
    let u := s.takeTrap t r
    let pc := if x.started then placeOf x else BitVec.ofNat 32 x.clause.toNat
    (∃ d c, u.events = s.events ++ [⟨d, 1, l.queue, l.seq, causeWord r, BitVec.ofNat 64 pc.toNat, c⟩] ∧
      ∀ g, (s.queue l.queue).cfg = some g → d = .queue g.eventDest) ∧
    (∀ n y, aget u.teams n = some y → y.launch ≠ x.launch) ∧ (∀ c ∈ u.copies, c.2.launch ≠ x.launch) ∧
    (∀ w ∈ u.waves, w.2.launch ≠ x.launch) ∧ (∀ g ∈ u.graphs, g.2.live = true → g.2.launch ≠ x.launch) ∧
    (∃ k, aget u.launches x.launch = some k ∧ k.phase = .ended) ∧
    (u.queue l.queue).ended = ((s.queue l.queue).ended + 1) % 2 ^ 56 ∧ ∀ a, tget zeros u.mem a = tget zeros s.mem a

/-- R343: a trap is precise: every load of the team that has not performed performs first, and nothing else comes between. -/
def Sys2Proof.Claims.LoadsPerformBeforeATrap : Prop :=
  ∀ (s : State) t x r, aget s.teams t = some x →
    s.takeTrap t r = (s.performLoads t).enterTrap t r false ∧
    ∃ y, aget (s.performLoads t).teams t = some y ∧ y.late = [] ∧ y.ctx = x.ctx ∧ y.trap = x.trap ∧ y.clause = x.clause ∧
      y.idx = x.idx ∧ y.started = x.started ∧ y.words = x.words ∧ y.ops = x.ops ∧ y.launch = x.launch ∧ y.core = x.core

/-- Taking a trap. -/
def Obligations.TakingTraps : Prop :=
  Sys2Proof.Claims.TrapIsTakenByTheHandler ∧
  Sys2Proof.Claims.TrapEndsTheLaunch ∧
  Sys2Proof.Claims.LoadsPerformBeforeATrap

/-! Local memory. -/

namespace Sys2Proof.Claims

open Sys2Proof.Machine

/-- Bytes of a load (R165). -/
def loadBytes : LdW → Nat
  | .n8 => 1
  | .i8 => 1
  | .n16 => 2
  | .i16 => 2
  | .n32 => 4
  | .w64 => 8
  | .w128 => 16

/-- Registers that a load writes. -/
def loadRegs : LdW → Nat
  | .w64 => 2
  | .w128 => 4
  | _ => 1

/-- The load extends the sign (R166). -/
def signed : LdW → Bool
  | .i8 => true
  | .i16 => true
  | _ => false

/-- Bytes of a store (R165). -/
def storeBytes : StW → Nat
  | .w8 => 1
  | .w16 => 2
  | .w32 => 4
  | .w64 => 8
  | .w128 => 16

/-- Word i of what a load makes of its bytes, little-endian (R5, R166). -/
def loadWord (w : LdW) (b : Nat → Byte) (i : Nat) : Word := bitsOf fun k =>
  let n := 32 * i + k
  if n < 8 * loadBytes w then (b (n / 8)).getLsbD (n % 8) else signed w && (b (loadBytes w - 1)).msb

/-- The effective address of lane l, when n literals stand before the base (R166). -/
def address (x : Team) (n : Nat) (a : Field) (off : BitVec 7) (size l : Nat) : Nat :=
  (mod32 ((x.rd n a 0 l).toNat + off.toInt * size)).toNat

/-- A byte that lane l stores: byte i of its data, from bits 7:0 of the first register upward (R167). -/
def dataByte (x : Team) (d : Field) (l i : Nat) : Byte := (x.rd 0 d (i / 4) l).extractLsb' (8 * (i % 4)) 8

/-- In every active lane an access of some bytes is aligned and lies within a space of a size (R160). -/
def Fits (x : Team) (size limit : Nat) (ea : Nat → Nat) : Prop :=
  ∀ l ∈ x.active, ea l % size = 0 ∧ ea l + size ≤ limit

/-- Lane l accesses byte a. -/
abbrev covers (size : Nat) (ea : Nat → Nat) (l a : Nat) : Prop := ea l ≤ a ∧ a < ea l + size

/-- Bytes read before and after a store of the active lanes: the highest-numbered lane decides, every other byte is as it was (R167). -/
def StoredBytes (x : Team) (size : Nat) (d : Field) (ea : Nat → Nat) (before after : Nat → Byte) : Prop :=
  (∀ l ∈ x.active, ∀ a, covers size ea l a → (∀ m ∈ x.active, l < m → ¬ covers size ea m a) →
    after a = dataByte x d l (a - ea l)) ∧
  ∀ a, (∀ l ∈ x.active, ¬ covers size ea l a) → after a = before a

/-- No landing holds a load of the active lanes (R179, R197). -/
def LoadClear (s : State) (x : Team) (dest : Dest) (size : Nat) (ea : Nat → Nat) : Prop :=
  ∀ l ∈ x.active, ∀ i, i < size → s.landingLoad dest (ea l + i) = .clear

/-- No landing holds a store of the active lanes (R180). -/
def StoreClear (s : State) (x : Team) (dest : Dest) (size : Nat) (ea : Nat → Nat) : Prop :=
  ∀ l ∈ x.active, ∀ i, i < size → s.landingStore dest (ea l + i) = true

/-- What a load or an atomic leaves of its team: its result of n registers, and the note of what they held while it has not yet returned to the
array (R230). -/
def Returns (i : Instr) (x y : Team) (d : Field) (n : Nat) (v : Nat → Nat → Word) : Prop :=
  ({ x.issued i with inFlight := y.inFlight } : Team).Wrote y x.act d n v ∧
    ∃ old, y.inFlight = (x.issued i).inFlight ++ old ∧ ∀ g ∈ old, ∀ c ∈ g, c.2 = x.reg (c.1 / 1024) (c.1 % 1024)

/-- What a load leaves of its team (R166). -/
def Loaded (i : Instr) (x y : Team) (w : LdW) (d : Field) (b : Nat → Nat → Byte) : Prop :=
  Returns i x y d (loadRegs w) fun o l => loadWord w (b l) o

/-- Loads of the team perform as they are issued: the slot holds none back, or is one of a rotation, and no older load is outstanding (R97, R168). -/
def Prompt (s : State) (x : Team) : Prop := (s.lazy = false ∨ (s.core x.core).rotation ≠ []) ∧ x.late = []

/-- The value that the newest of some publications gives a byte. -/
def lastWrite (ps : List Pub) (a : Nat) : Option Byte := ps.findSome? fun p => (p.cells.find? (·.1 == a)).map (·.2)

/-- What a core's plain load sees of a scratchpad byte (R171): what has landed; the core's own unpublished store; its own latest publication behind
its snapshot; the snapshot. A byte that nothing has published reads 0 (log 2). -/
def seenByte (s : State) (core a : Nat) : Byte :=
  let c := s.core core
  let pubs := (s.die (core / 64)).pubs
  let newer := pubs.take (pubs.length - c.snap)
  (((s.landed (.sp (core / 64)) a).map (·.2.2)).or <| ((c.unpub.find? (·.addr == a)).map (·.seen)).or <|
    (lastWrite (newer.filter (·.core == some core)) a).or (lastWrite (pubs.drop (pubs.length - c.snap)) a)).getD 0#8

/-- A value that a load may return for a byte of .sp (R171, R180). -/
def scratchByte (s : State) (core a : Nat) (v : Byte) : Prop :=
  match s.spPair core a with
  | some p => v = p.1 ∨ v = p.2
  | none => v = seenByte s core a

/-- A value that a load may return for a byte of .sh (R168, R180): what has landed there, or what has been stored since; else what it holds. -/
def sharedByte (s : State) (k core a : Nat) (v : Byte) : Prop :=
  match s.landed (.sh k core) a with
  | some q => v = q.2.2 ∨ a ∈ q.2.1.rewritten ∧ v = s.shByte k core a
  | none => v = s.shByte k core a

/-- The byte addresses that the active lanes access. -/
def accessed (x : Team) (size : Nat) (ea : Nat → Nat) : List Nat :=
  x.active.flatMap fun l => (List.range size).map fun i => ea l + i

/-- A range without the note of bytes rewritten behind its landing (R180). -/
def unmarked (r : Nat × Range) : Nat × Range := (r.1, { r.2 with rewritten := [] })

/-- What remains of a place but its shared memory. -/
def shell (p : Place) : Place := { p with sh := [] }

/-- The new word of an atomic (R182), from the word, the operand and the new value of cas. -/
def updated (o : AtomOp) (w d n : Word) : Word :=
  match o with
  | .addI32 => redOp .addI32 w d
  | .minI32 => redOp .minI32 w d
  | .maxI32 => redOp .maxI32 w d
  | .minN32 => redOp .minN32 w d
  | .maxN32 => redOp .maxN32 w d
  | .and => bitsOf fun k => w.getLsbD k && d.getLsbD k
  | .or => bitsOf fun k => w.getLsbD k || d.getLsbD k
  | .xor => bitsOf fun k => w.getLsbD k ^^ d.getLsbD k
  | .xchg => d
  | .cas => if w = d then n else w
  | .addF32 => pat (FFmt.f32.addB .rne false w.toNat d.toNat)

/-- The words of a space, and the old value of each lane, after the atomics of some lanes in their order (R182). -/
def atomics (o : AtomOp) (x : Team) (d : Field) (ea : Nat → Nat) (mem : Nat → Word) :
    List Nat → (Nat → Word) × (Nat → Word)
  | [] => (mem, fun _ => 0#32)
  | l :: r =>
    let w := mem (ea l)
    let new := updated o w (x.rd 0 d 0 l) (if o = .cas then x.rd 0 d 1 l else 0#32)
    let p := atomics o x d ea (fun a => if a = ea l then new else mem a) r
    (p.1, fun m => if m = l then w else p.2 m)

/-- A word of four bytes, little-endian (R5). -/
def wordOf (b : Nat → Byte) (a : Nat) : Word := b (a + 3) ++ b (a + 2) ++ b (a + 1) ++ b a

/-- Slice, bank and L of a scratchpad word (R161). -/
def lockKey (a : Nat) : Nat × Nat × Nat :=
  let k := a / 256 % 2 ^ 19
  let part := fun i => k / 2 ^ (3 * i) % 8
  (k % 24, a / 8 % 32, part 0 ^^^ part 1 ^^^ part 2 ^^^ part 3 ^^^ part 4 ^^^ part 5 ^^^ part 6 ^^^ (a / 4 % 2 * 4))

/-- An access to local memory: its space (0 .sh, 1 .sp, 2 .st), size, and address in a lane. -/
def access (x : Team) : Instr → Option (Nat × Nat × (Nat → Nat))
  | .ldSh w _ a off => some (0, loadBytes w, address x 0 a off (loadBytes w))
  | .stSh w d a off => some (0, storeBytes w, address x (litCount [d]) a off (storeBytes w))
  | .ldSp w _ a off => some (1, loadBytes w, address x 0 a off (loadBytes w))
  | .stSp w d a off => some (1, storeBytes w, address x (litCount [d]) a off (storeBytes w))
  | .ldSt w _ a off => some (2, loadBytes w, address x 0 a off (loadBytes w))
  | .stSt w d a off => some (2, storeBytes w, address x (litCount [d]) a off (storeBytes w))
  | .atomSh _ _ a off => some (0, 4, address x 0 a off 4)
  | .atomSp _ _ a off => some (1, 4, address x 0 a off 4)
  | .ldlk _ a off => some (1, 4, address x 0 a off 4)
  | .stul d a off => some (1, 4, address x (litCount [d]) a off 4)
  | _ => none

/-- Bytes of a space (R159). -/
def spaceSize (s : State) (x : Team) : Nat → Nat
  | 0 => match s.record? x.launch with
    | some r => r.shared
    | none => 0
  | 1 => 96 * 2 ^ 20
  | _ => 2 ^ 20

/-- The virtual address of offset e in the team's stack window (R163). -/
def stackAddress (s : State) (x : Team) (e : Nat) : Nat :=
  match s.cfgOf x.launch, s.record? x.launch with
  | some c, some r => c.stackBase.toNat + 2 ^ 20 * (x.cluster % 16384 * r.teams + x.tm) + e
  | _, _ => 0

/-- The queue and the record of the team's launch are there. -/
def Placed (s : State) (x : Team) : Prop := (s.cfgOf x.launch).isSome = true ∧ (s.record? x.launch).isSome = true

/-- Stack accesses of the active lanes can be made: valid addresses, translated, in lines that the core's stack cache holds (R163). -/
def StackClear (s : State) (t : Nat) (x : Team) (acc : Access) (size : Nat) (ea : Nat → Nat) : Prop :=
  x.tm < 64 ∧ Placed s x ∧ Fits x size (2 ^ 20) ea ∧ ∀ l ∈ x.active,
    s.faultIn (s.rootOf x.launch) (stackAddress s x (ea l)) size acc = none ∧
      ∀ v ∈ [stackAddress s x (ea l), stackAddress s x (ea l) + (size - 1)], x.deniedAt v = false ∧
        (acc = .write → s.codePage (s.rootOf x.launch) v = false) ∧ ((s.core x.core).line? t (v / 128)).isSome = true

/-- The translations that stack accesses use are cached (R363). -/
def stackCached (s : State) (x : Team) (acc : Access) (size : Nat) (ea : Nat → Nat) : State :=
  x.active.foldl (fun u l => u.cache (s.rootOf x.launch) (stackAddress s x (ea l)) size acc) s

end Sys2Proof.Claims

/-- R5, R159, R166, R180: a load from .sh that performs as it is issued returns the little-endian value of its bytes in each active lane, zero- or
sign-extended; of a byte that a landing wrote and a store since has written, one of the two values. -/
def Sys2Proof.Claims.SharedLoads : Prop :=
  ∀ w d a off s t x, Runs (.ldSh w d a off) s t x → Prompt s x →
    let ea := address x 0 a off (loadBytes w)
    Fits x (loadBytes w) (spaceSize s x 0) ea → LoadClear s x (.sh x.cluster x.core) (loadBytes w) ea →
    (∀ l ∈ x.active, s.shBad x.cluster x.core (ea l) (loadBytes w) = false) →
    ∃ y b n, (∀ l ∈ x.active, ∀ i, i < loadBytes w → sharedByte s x.cluster x.core (ea l + i) (b l i)) ∧
      Loaded (.ldSh w d a off) x y w d b ∧
      ((∀ c ∈ accessed x (loadBytes w) ea, s.shContended x.cluster x.core c = false) → n = s.fresh) ∧
      exec (.ldSh w d a off) s = .next ((({ s with fresh := n } : State).putTeam t y).retired t x (.ldSh w d a off))

/-- R167: a store to .sh changes in the cluster's shared memory of the team's core the bytes at its effective addresses, and no other byte of any
space; the place's rings and cursors stay. -/
def Sys2Proof.Claims.SharedStores : Prop :=
  ∀ w d a off s t x, Runs (.stSh w d a off) s t x → (s.place? x.cluster x.core).isSome = true →
    let ea := address x (litCount [d]) a off (storeBytes w)
    Fits x (storeBytes w) (spaceSize s x 0) ea → StoreClear s x (.sh x.cluster x.core) (storeBytes w) ea →
    ∃ u : State, StoredBytes x (storeBytes w) d ea (s.shByte x.cluster x.core) (u.shByte x.cluster x.core) ∧
      (∀ k c b, k ≠ x.cluster ∨ c ≠ x.core → u.shByte k c b = s.shByte k c b) ∧
      (∀ k c, (u.place? k c).map shell = (s.place? k c).map shell) ∧
      u.ranges.map unmarked = s.ranges.map unmarked ∧
      u = { s.putTeam t (x.issued (.stSh w d a off)) with clusters := u.clusters, errors := u.errors, ranges := u.ranges } ∧
      exec (.stSh w d a off) s = .next (u.retired t x (.stSh w d a off))

/-- R171, R180: a load from .sp that performs as it is issued returns what the core sees of each byte, where no landing holds it; of a byte that a
landing wrote and a store since has written, one of the two values. A byte that nothing has published reads 0 (log 2). -/
def Sys2Proof.Claims.ScratchpadLoads : Prop :=
  ∀ w d a off s t x, Runs (.ldSp w d a off) s t x → Prompt s x →
    let ea := address x 0 a off (loadBytes w)
    Fits x (loadBytes w) (spaceSize s x 1) ea → LoadClear s x (.sp (x.core / 64)) (loadBytes w) ea →
    (∀ l ∈ x.active, s.spBad (x.core / 64) (ea l) (loadBytes w) = false) →
    ∃ y b n, (∀ l ∈ x.active, ∀ i, i < loadBytes w → scratchByte s x.core (ea l + i) (b l i)) ∧
      Loaded (.ldSp w d a off) x y w d b ∧
      ((∀ c ∈ accessed x (loadBytes w) ea, s.contended x.core c = false) → n = s.fresh) ∧
      exec (.ldSp w d a off) s = .next ((({ s with fresh := n } : State).putTeam t y).retired t x (.ldSp w d a off))

/-- R168 (log 6): a load need not perform as it is issued, and behind one that has not performed it does not: then it is noted, behind the older ones, with
its addresses, its registers are still to be written and no register is written, and its result will be the top latch. When a team's oldest such load performs, each lane's registers hold what its bytes then are, and so does the latch
entry that the load has come to; the load is outstanding no more. -/
def Sys2Proof.Claims.LateLoads : Prop :=
  (∀ w d a off s t x space i ea, i = .ldSh w d a off ∧ space = .sh x.cluster x.core ∧ Fits x (loadBytes w) (spaceSize s x 0) ea ∧
        (∀ l ∈ x.active, s.shBad x.cluster x.core (ea l) (loadBytes w) = false) ∨
      i = .ldSp w d a off ∧ space = .sp (x.core / 64) ∧ Fits x (loadBytes w) (spaceSize s x 1) ea ∧
        (∀ l ∈ x.active, s.spBad (x.core / 64) (ea l) (loadBytes w) = false) →
    Runs i s t x → ¬ Prompt s x → ea = address x 0 a off (loadBytes w) → LoadClear s x space (loadBytes w) ea →
    ∃ y, y.late = (x.late.map fun q => { q with depth := q.depth + 1 }) ++
        [⟨s.nextId, space, w, x.regNo d 0, x.active.map fun l => (l, ea l), 0⟩] ∧
      y.regs = x.regs ∧ y.ofile = x.ofile ∧ y.latchN = min 4 (x.latchN + 1) ∧ y.ctx = x.ctx ∧
      (∀ q, q ∈ y.pendRegs ↔ q ∈ x.pendRegs ∨ ∃ o r, o < loadRegs w ∧ x.regNo d o = some r ∧ q = ⟨r, .load s.nextId⟩) ∧
      exec i s = .next ((({ s with nextId := s.nextId + 1 } : State).putTeam t y).retired t x i)) ∧
  ∀ s t x p r, aget s.teams t = some x → x.late = p :: r → (p.lanes.map (·.1)).Nodup → (∀ c ∈ p.lanes, c.1 < 1024) →
    p.dest = .sh x.cluster x.core ∨ p.dest = .sp (x.core / 64) →
    ∃ (y : Team) (b : Nat → Nat → Byte) (n : Nat), exec (.loadCompletion t) s = .next (({ s with fresh := n } : State).putTeam t y) ∧
      (∀ c ∈ p.lanes, ∀ i, i < loadBytes p.width →
        if p.dest = .sh x.cluster x.core then sharedByte s x.cluster x.core (c.2 + i) (b c.1 i)
        else scratchByte s x.core (c.2 + i) (b c.1 i)) ∧
      (∀ c ∈ p.lanes, ∀ o, o < loadRegs p.width → ∀ k, p.reg = some k →
        (if k < 256 then y.reg (k + o) c.1 else tget zeros y.ofile ((k - 256 + o) * 1024 + c.1)) = loadWord p.width (b c.1) o) ∧
      (p.depth < 4 → ∀ c ∈ p.lanes, tget zeros y.latch (p.depth * 1024 + c.1) = loadWord p.width (b c.1) 0) ∧
      y.late = x.late.filter (·.id != p.id) ∧ y.pendRegs = x.pendRegs.filter (·.ref != .load p.id)

/-- Loads from shared memory and the scratchpad. -/
def Obligations.Loads : Prop :=
  Sys2Proof.Claims.SharedLoads ∧
  Sys2Proof.Claims.ScratchpadLoads ∧
  Sys2Proof.Claims.LateLoads

/-- R170, R175: a store to .sp leaves its bytes unpublished, owned by the team, in its core alone; where the core's unpublished bytes would
cover more than 4,096 lines, the team's bytes are published first. Nothing else changes. -/
def Sys2Proof.Claims.ScratchpadStores : Prop :=
  ∀ w d a off s t x, Runs (.stSp w d a off) s t x →
    let ea := address x (litCount [d]) a off (storeBytes w)
    let room := fun s : State => (s.core x.core).linesWith (accessed x (storeBytes w) ea) ≤ 4096
    let s0 := s.putTeam t (x.issued (.stSp w d a off))
    let s1 := if room s then s0 else s0.publishTeam x.core t
    Fits x (storeBytes w) (spaceSize s x 1) ea → StoreClear s x (.sp (x.core / 64)) (storeBytes w) ea →
    (¬ room s → s.duskStalls x.core t = false) → room s1 →
    ∃ un : List UByte,
      (∀ l ∈ x.active, ∀ b, covers (storeBytes w) ea l b → (∀ m ∈ x.active, l < m → ¬ covers (storeBytes w) ea m b) →
        let v := dataByte x d l (b - ea l)
        un.find? (·.addr == b) = some ⟨b, v, v, t, s.nextId⟩) ∧
      (∀ b, (∀ l ∈ x.active, ¬ covers (storeBytes w) ea l b) →
        un.find? (·.addr == b) = (s1.core x.core).unpub.find? (·.addr == b)) ∧
      exec (.stSp w d a off) s
        = .next ((s1.putCore x.core { s1.core x.core with unpub := un }).retired t x (.stSp w d a off))

/-- Stores to shared memory and the scratchpad. -/
def Obligations.Stores : Prop := Sys2Proof.Claims.SharedStores ∧ Sys2Proof.Claims.ScratchpadStores

/-- R18, R163: stack accesses read and write the team's own lines in the core's stack cache, at B + 2^20 × (c × T + t); a store makes its lines dirty;
nothing else changes but cached translations. Behind an access that needed more lines than the cache has, it holds its 512 again (log 13). -/
def Sys2Proof.Claims.StackAccesses : Prop :=
  (∀ w d a off s t x, Issues (.ldSt w d a off) s t x →
    let ea := address x 0 a off (loadBytes w)
    let s1 := stackCached (s.putTeam t (x.issued (.ldSt w d a off))) x .read (loadBytes w) ea
    StackClear s t x .read (loadBytes w) ea → s1.goesOn x → (x.atLast = true → (s.core x.core).stack.length ≤ 512) →
    (∀ l ∈ x.active, s.stBad t (stackAddress s x (ea l)) = false ∧
      s.stBad t (stackAddress s x (ea l) + (loadBytes w - 1)) = false) →
    ∃ y, Loaded (.ldSt w d a off) x y w d (fun l i => (s.core x.core).stByte t (stackAddress s x (ea l) + i)) ∧
      exec (.ldSt w d a off) s = .next (((s1.putTeam t y).trimStack x.core).retired t x (.ldSt w d a off))) ∧
  (∀ w d a off s t x, Issues (.stSt w d a off) s t x →
    let ea := address x (litCount [d]) a off (storeBytes w)
    let s1 := stackCached (s.putTeam t (x.issued (.stSt w d a off))) x .write (storeBytes w) ea
    StackClear s t x .write (storeBytes w) ea → s1.goesOn x → (x.atLast = true → (s.core x.core).stack.length ≤ 512) →
    ∃ st, let c : Core := { s.core x.core with stack := st }
      StoredBytes x (storeBytes w) d (fun l => stackAddress s x (ea l)) ((s.core x.core).stByte t) (c.stByte t) ∧
      (∀ n b, n ≠ t → c.stByte n b = (s.core x.core).stByte n b) ∧
      (∀ l ∈ x.active, ∃ ln, c.line? t (stackAddress s x (ea l) / 128) = some ln ∧ ln.dirty = true) ∧
      exec (.stSt w d a off) s = .next (((s1.putCore x.core c).trimStack x.core).retired t x (.stSt w d a off))) ∧
  ∀ (s : State) n, ((s.core n).stack.length ≤ 512 → s.trimStack n = s) ∧ ((s.trimStack n).core n).stack.length ≤ 512

/-- R159, R160, R164: an access that is misaligned, or not wholly in its space, traps with the space, the lowest failing lane and its address, in front
of every other check; a handler or child team has no stack address that is valid. -/
def Sys2Proof.Claims.LocalMemoryFaults : Prop :=
  ∀ i s t x space size ea, access x i = some (space, size, ea) → Issues i s t x →
    let bad := fun l => ea l % size ≠ 0 ∨ spaceSize s x space < ea l + size
    let rep := fun (sub : BitVec 4) (l : Nat) =>
      ({ cause := 3#8, sub := sub, lane := mod32 l, info0 := mod32 space, info1 := mod32 (ea l) } : Report)
    (¬ (space = 2 ∧ 64 ≤ x.tm) → ∀ l ∈ x.active, bad l → (∀ m ∈ x.active, m < l → ¬ bad m) →
      Traps i s t x (rep (if ea l % size ≠ 0 then 1#4 else 2#4) l)) ∧
    (space = 2 → 64 ≤ x.tm → ∀ l ∈ x.active.head?, Traps i s t x (rep 2#4 l))

/-- Stack accesses, and the local-memory faults. -/
def Obligations.StackAccessesAndFaults : Prop := Sys2Proof.Claims.StackAccesses ∧ Sys2Proof.Claims.LocalMemoryFaults

/-- R180, R182, R183: an atomic in .sh: lane after lane the latest value of the word is replaced by its new value, and the old one is the lane's
result; of the landings only the note of rewritten bytes and no other byte changes. -/
def Sys2Proof.Claims.SharedAtomics : Prop :=
  ∀ o d a off s t x, Runs (.atomSh o d a off) s t x → (s.place? x.cluster x.core).isSome = true →
    let ea := address x 0 a off 4
    Fits x 4 (spaceSize s x 0) ea → StoreClear s x (.sh x.cluster x.core) 4 ea →
    (∀ l ∈ x.active, s.shBad x.cluster x.core (ea l) 4 = false) →
    let p := atomics o x d ea (wordOf (s.shLatest x.cluster x.core)) x.active
    ∃ (u : State) (y : Team), Returns (.atomSh o d a off) x y d 1 (fun _ => p.2) ∧
      (∀ b, b % 4 = 0 → wordOf (u.shLatest x.cluster x.core) b = p.1 b) ∧
      u.ranges.map unmarked = s.ranges.map unmarked ∧
      (∀ k c b, k ≠ x.cluster ∨ c ≠ x.core → u.shByte k c b = s.shByte k c b) ∧
      (∀ k c, (u.place? k c).map shell = (s.place? k c).map shell) ∧
      u = { s with clusters := u.clusters, errors := u.errors, ranges := u.ranges } ∧
      exec (.atomSh o d a off) s = .next ((u.putTeam t y).retired t x (.atomSh o d a off))

/-- R170, R182, R183: an atomic in .sp, with every lock bit free or the team's own: lane after lane the latest value of the word is replaced, each
time as a publication of its own by the team's core; no other word's latest value changes. -/
def Sys2Proof.Claims.ScratchpadAtomics : Prop :=
  ∀ o d a off s t x, Runs (.atomSp o d a off) s t x →
    let ea := address x 0 a off 4
    let die := x.core / 64
    Fits x 4 (spaceSize s x 1) ea → StoreClear s x (.sp die) 4 ea →
    (∀ l ∈ x.active, s.lockFree die t (lockOf (ea l)) = true ∧ s.spBad die (ea l) 4 = false) →
    let p := atomics o x d ea (wordOf (s.spLatest die)) x.active
    ∃ (u : State) (y : Team) (new : List Pub), Returns (.atomSp o d a off) x y d 1 (fun _ => p.2) ∧
      (∀ b, b % 4 = 0 → wordOf (u.spLatest die) b = p.1 b) ∧
      (u.die die).pubs = new ++ (s.die die).pubs ∧ new.length = x.active.length ∧
      (∀ q ∈ new, q.kind = .atomic ∧ q.core = some x.core) ∧ (u.die die).locks = (s.die die).locks ∧
      u.ranges.map unmarked = s.ranges.map unmarked ∧
      u = { s with cores := u.cores, dies := u.dies, ranges := u.ranges, errors := u.errors, sums := u.sums } ∧
      exec (.atomSp o d a off) s = .next ((u.putTeam t y).retired t x (.atomSp o d a off))

/-- Atomics in shared memory and the scratchpad. -/
def Obligations.Atomics : Prop := Sys2Proof.Claims.SharedAtomics ∧ Sys2Proof.Claims.ScratchpadAtomics

/-- R161: two scratchpad words share a lock exactly when slice, bank and L are the same. -/
def Obligations.LockBits : Prop :=
  ∀ a b, a < 96 * 2 ^ 20 → b < 96 * 2 ^ 20 → (lockOf a = lockOf b ↔ lockKey a = lockKey b)

/-- R94, R183, R185: LDLK takes every lock of its words for the team, and its result is their latest values, with Z set; when another team holds one, it
takes none, writes no lane, shifts no latch, clears Z and gives the slot away; with no active lane it sets Z. N, C and V stay. -/
def Sys2Proof.Claims.TakingLocks : Prop :=
  ∀ d a off s t x, Runs (.ldlk d a off) s t x →
    let i := Instr.ldlk d a off
    let ea := address x 0 a off 4
    let die := x.core / 64
    let z := fun (y : Team) b => ({ y with ctx := { x.ctx with cc := { x.ctx.cc with z := b } } } : Team)
    (x.active = [] → Makes i s t x (z (x.issued i) true)) ∧
    (x.active ≠ [] → Fits x 4 (spaceSize s x 1) ea → LoadClear s x (.sp die) 4 ea →
      ((∀ l ∈ x.active, s.lockFree die t (lockOf (ea l)) = true) →
        (∀ l ∈ x.active, s.spBad die (ea l) 4 = false) →
        ∃ y locks, Returns i x y d 1 (fun _ l => wordOf (s.spLatest die) (ea l)) ∧
          (∀ b, ({ s.die die with locks := locks } : Die).holder b
            = if ∃ l ∈ x.active, lockOf (ea l) = b then some t else (s.die die).holder b) ∧
          exec i s = .next (((s.putDie die { s.die die with locks := locks }).putTeam t (z y true)).retired t x i)) ∧
      ((∃ l ∈ x.active, s.lockFree die t (lockOf (ea l)) = false) →
        exec i s = .next (((s.putTeam t (z (x.issued i) false)).leave x.core t).retired t x i)))

/-- R164, R186: STUL, for a team that holds every lock of its words, publishes each lane's word in turn, and then releases those locks and no
other; where a lane's lock is not the team's it traps with subcode 4 and does nothing. -/
def Sys2Proof.Claims.ReleasingLocks : Prop :=
  ∀ d a off s t x, Runs (.stul d a off) s t x →
    let i := Instr.stul d a off
    let ea := address x (litCount [d]) a off 4
    let die := x.core / 64
    let held := fun l => (s.die die).holder (lockOf (ea l)) = some t
    Fits x 4 (spaceSize s x 1) ea →
    ((∀ l ∈ x.active, held l) → StoreClear s x (.sp die) 4 ea →
      ∃ u : State, StoredBytes x 4 d ea (s.spLatest die) (u.spLatest die) ∧
        (∀ b, (u.die die).holder b = if ∃ l ∈ x.active, lockOf (ea l) = b then none else (s.die die).holder b) ∧
        (u.die die).pubs.length = (s.die die).pubs.length + x.active.length ∧
        u.ranges.map unmarked = s.ranges.map unmarked ∧
        u = { s.putTeam t (x.issued i) with cores := u.cores, dies := u.dies, ranges := u.ranges, errors := u.errors, sums := u.sums } ∧
        exec i s = .next (u.retired t x i)) ∧
    ∀ l ∈ x.active, ¬ held l → (∀ m ∈ x.active, m < l → held m) →
      Traps i s t x { cause := 3#8, sub := 4#4, lane := mod32 l, info0 := 1#32, info1 := mod32 (ea l) }

/-- Load-lock and store-unlock. -/
def Obligations.Locks : Prop := Sys2Proof.Claims.TakingLocks ∧ Sys2Proof.Claims.ReleasingLocks

/-- R94, R173: dusk.core publishes nothing; the wider scopes publish the team's unpublished bytes as one batch, the newest of its die, once nothing stalls
it and the packets that its scope names have performed; with nothing unpublished nothing is published; package and system scope also note how far
the team has released (R414). DAWN makes the snapshot the newest point, but for
core scope, keeps the unpublished bytes, and gives the slot away. -/
def Obligations.DuskAndDawn : Prop :=
  (∀ s t x, Runs (.dusk .core) s t x → Makes (.dusk .core) s t x (x.issued (.dusk .core))) ∧
  (∀ c s t x, Runs (.dusk c) s t x → c ≠ .core → s.duskStalls x.core t = false →
    (c = .pkg → ∀ e ∈ x.sentTo, 98 ≤ e.1) → (c = .sys → x.sentTo = []) →
    (c = .die ∨ x.redDrop = none ∧ x.msgDrop = none) →
    let mine := (s.core x.core).unpub.filter (·.team == t)
    ∃ u : State, (u.core x.core).unpub = (s.core x.core).unpub.filter (·.team != t) ∧
      (u.die (x.core / 64)).pubs = (if mine = [] then [] else
        [⟨.batch, some x.core, mine.map fun b => (b.addr, b.val), mine.map fun b => (b.addr, b.time), some t⟩]) ++ (s.die (x.core / 64)).pubs ∧
      (u.core x.core).snap = (s.core x.core).snap ∧
      u = { s.putTeam t (if c = .die then x.issued (.dusk c) else { x.issued (.dusk c) with
          markers := none, released := (u.die (x.core / 64)).pubs.length }) with
        cores := u.cores, dies := u.dies, errors := u.errors, sums := u.sums } ∧
      exec (.dusk c) s = .next (u.retired t x (.dusk c))) ∧
  ∀ c s t x, Runs (.dawn c) s t x →
    let w := s.putTeam t (x.issued (.dawn c))
    let k : Core := { s.core x.core with snap := (s.die (x.core / 64)).pubs.length, segs := [] }
    exec (.dawn c) s = .next (((if c = .core then w else w.putCore x.core k).leave x.core t).retired t x (.dawn c))

/-! Copies, counters, barriers. -/

namespace Sys2Proof.Claims

open Sys2Proof.Machine

/-- The team with an operation attached to its flag (R43): the first of a clause takes SetA, later ones SetB when it names a flag; with SetA 0 the
operation has no flag. -/
def attached (x : Team) (ref : OpRef) : Team :=
  let f := if x.longs = 0 ∨ x.setB = 0 then x.setA else x.setB
  { x with longs := x.longs + 1, ops := x.ops ++ if f = 0 then [] else [⟨f, ref⟩] }

/-- The counter that a reference names for CWAIT and CREAD (R208): bits 31:30 give the space, bits 29:0 an offset that is a multiple of 8. -/
def counterAt (s : State) (x : Team) (ref : Word) : Option CounterLoc :=
  let off := ref.toNat % 2 ^ 30
  if off % 8 = 0 ∧ ref.toNat / 2 ^ 30 = 0 ∧ off + 8 ≤ spaceSize s x 1 then some (.sp (x.core / 64) off)
  else if off % 8 = 0 ∧ ref.toNat / 2 ^ 30 = 1 ∧ off + 8 ≤ spaceSize s x 0 then some (.sh x.cluster x.core off)
  else none

/-- The status word of a copy (R207); of a walk (R299). -/
def statusOf (c : Copy) : Word :=
  let st := match c.phase with
    | .held => 0
    | .landing => 1
    | .complete => 2
    | .failed => 3
  let err := if c.isWalk then (if c.err = 0 then 0 else 1) else c.err % 16
  let clipped := if c.isWalk then 0 else min c.clipped (2 ^ 24 - 1)
  mod32 (st * 2 ^ 30 + (if c.viaFb then 2 ^ 29 else 0) + (if c.viaPrim then 2 ^ 28 else 0) + err * 2 ^ 24 + clipped : Nat)

/-- Instructions that act on a barrier by its handle in source A. -/
def onBarrier (i : Instr) (a : Field) : Prop :=
  i = .bref a ∨ (∃ d, i = .barrive d a) ∨ (∃ b, i = .bexpect a b) ∨ ∃ d b, i = .bwait d a b

/-- The barrier after a change that may complete its phase (R212). -/
def phased (b : Barrier) : Barrier :=
  if b.need ≤ b.arrived ∧ b.pending = 0 ∨ b.err ≠ none ∧ 0 < b.arrived then
    { b with phase := b.phase + 1#32, arrived := 0, pending := 0 }
  else b

/-- The number of copies that a CSTAGE is to release, and its table argument (R194). -/
def staging (x : Team) : Instr → Option (Field × Nat × Nat)
  | .cstage d a => some (d, (x.rdFirst 0 a).toNat, 0)
  | .cstageArg d a b => some (d, (x.rdFirst 0 a).toNat, (x.rdFirst (litCount [a]) b).toNat)
  | _ => none

end Sys2Proof.Claims

/-- k bytes at offset o, little-endian (R5). -/
def Sys2Proof.Claims.littleAt (raw : List Byte) (o k : Nat) : Nat :=
  ((List.range k).map fun i => (raw.getD (o + i) 0#8).toNat * 256 ^ i).sum

/-- The schedule entry that 160 bytes stand for (R189, R190), with its three addresses as the table flags leave them. -/
def Sys2Proof.Claims.scheduleEntry (raw : List Byte) (src dst fb : BitVec 64) : CopyEntry :=
  let n := Sys2Proof.Claims.littleAt raw
  let ctl := n 0 4
  let dims := List.range (ctl / 2 ^ 5 % 8 + 1)
  let per := fun o => dims.map fun d => n (o + 4 * d) 4
  { fill := BitVec.ofNat 32 (n 4 4), src := src, dst := dst, fb := fb, counter := BitVec.ofNat 32 (n 32 4),
    incr := BitVec.ofNat 32 (n 36 4), deadline := BitVec.ofNat 32 (n 40 4), tag := BitVec.ofNat 16 (n 44 2), contrib := n 46 1,
    rank := n 47 1, size := 2 ^ (ctl / 2 ^ 2 % 8), ext := per 48, sstride := per 68, dstride := per 88,
    origin := dims.map fun d => (BitVec.ofNat 32 (n (108 + 4 * d) 4)).toInt, bound := per 128,
    acc := ctl.testBit 26, combine := ctl / 2 ^ 22 % 16, bar := ctl.testBit 21, useFb := ctl.testBit 20, clip := ctl.testBit 19 }

/-- The entry at place j behind the cursor, its control word, and the bytes that it stands in (R188). -/
def Sys2Proof.Claims.entryBytes (s : State) (x : Team) (p : Place) (hdr : Record) (j : Nat) : List Byte :=
  s.vaBytes (s.rootOf x.launch) .read (hdr.sched.toNat + 160 * ((p.cursor + j) % hdr.schedN)) 160

/-- The address of an entry at offset o, or, with table flag k set, table entry n (R192). -/
def Sys2Proof.Claims.entryAddress (s : State) (x : Team) (hdr : Record) (raw : List Byte) (k o n : Nat) : BitVec 64 :=
  if (Sys2Proof.Claims.littleAt raw 0 4).testBit k then
    BitVec.ofNat 64 (Sys2Proof.Claims.littleAt (s.vaBytes (s.rootOf x.launch) .read (hdr.atab.toNat + 8 * n) 8) 0 8)
  else BitVec.ofNat 64 (Sys2Proof.Claims.littleAt raw o 8)

/-- The destination that a copy address names (R191). -/
def Sys2Proof.Claims.destOf (s : State) (x : Team) (v : BitVec 64) : Option Loc :=
  let n := v.toNat
  match n / 2 ^ 60 with
  | 0 => some ⟨.main, n % 2 ^ 52⟩
  | 1 => some ⟨.sh x.cluster x.core, n % 2 ^ 32⟩
  | 2 => (aget s.clusters x.cluster).map fun c =>
    let p := n / 2 ^ 32 % 2 ^ 8
    ⟨.sh x.cluster (64 * c.die + 8 * (c.y0 + p / c.width) + (c.x0 + p % c.width)), n % 2 ^ 32⟩
  | 3 => some ⟨.sp (n / 2 ^ 32 % 4), n % 2 ^ 32⟩
  | 4 => some ⟨.bst x.core, n % 2 ^ 32⟩
  | 5 => some ⟨.peer (n / 2 ^ 52 % 2 ^ 8), n % 2 ^ 52⟩
  | _ => none

/-- R189 to R192, R208, R214: a copy that CSTAGE releases is the one that the bytes of its schedule entry describe: its element size, extents,
strides, clipping, combining, fallback and flags; its addresses, or the table entries that its table flags take in order; its destination and range; its
counter and increment; the barrier bound at its place. -/
def Sys2Proof.Claims.EntriesAreRead : Prop :=
  ∀ (s : State) x p hdr arg j c, s.stageEntry x p hdr arg j = .ok c →
    let raw := Sys2Proof.Claims.entryBytes s x p hdr j
    let ctl := Sys2Proof.Claims.littleAt raw 0 4
    let base := arg + ctl / 2 ^ 8 % 256
    let one := fun k => (ctl.testBit k).toNat
    let addr := Sys2Proof.Claims.entryAddress s x hdr raw
    let e := Sys2Proof.Claims.scheduleEntry raw (addr 16 8 base) (addr 18 16 (base + one 16)) (addr 17 24 (base + one 16 + one 18))
    let ref := e.counter.toNat
    c.kind = .copy e ∧ some c.dst = Sys2Proof.Claims.destOf s x e.dst ∧ c.launch = x.launch ∧ c.cluster = x.cluster ∧
      c.len = (List.zipWith (fun n k => (n - 1) * k) e.ext e.dstride).sum + e.size ∧ c.total = e.ext.prod ∧ c.incr = e.incr ∧
      c.counter = (match ref / 2 ^ 30 with
        | 0 => .sp (x.core / 64) (ref % 2 ^ 30)
        | 1 => .sh x.cluster x.core (ref % 2 ^ 30)
        | _ => .none) ∧
      c.bar = (if e.bar then p.bound else none) ∧ (e.bar = true → p.bound ≠ none) ∧ c.useFb = false ∧ c.next = 0

/-- R193, R194: an entry that can be read, with its table entries, is malformed, and reported with subcode 1 and its place, where a reserved bit or byte is set,
Dims, Size or Combine holds an illegal code, an extent or a source stride is 0, the destination strides let elements overlap, the tile is larger than 2^31
bytes, or Combine stands with another element size than 4, with Fb, or with Rank not below N. -/
def Sys2Proof.Claims.MalformedEntries : Prop :=
  ∀ (s : State) x p (hdr : Record) arg j,
    let raw := Sys2Proof.Claims.entryBytes s x p hdr j
    let ctl := Sys2Proof.Claims.littleAt raw 0 4
    let base := arg + ctl / 2 ^ 8 % 256
    let taken := ([16, 18, 17].filter fun k => ctl.testBit k).length
    let e := Sys2Proof.Claims.scheduleEntry raw 0#64 0#64 0#64
    let n := e.ext.length
    s.faultIn (s.rootOf x.launch) (hdr.sched.toNat + 160 * ((p.cursor + j) % hdr.schedN)) 160 .read = none →
    (∀ k, k < taken → base + k < hdr.atabN ∧ s.faultIn (s.rootOf x.launch) (hdr.atab.toNat + 8 * (base + k)) 8 .read = none) →
    (ctl % 4 ≠ 0 ∨ 2 ^ 27 ≤ ctl ∨ (∃ i, 148 ≤ i ∧ i < 160 ∧ raw.getD i 0#8 ≠ 0#8) ∨ 5 < n ∨ 16 < e.size ∨ 8 < e.combine ∨
      0 ∈ e.ext ∨ 0 ∈ e.sstride ∨ (∃ k, e.dstride[0]? = some k ∧ k < e.size) ∨
      (∃ d k m q, e.dstride[d + 1]? = some k ∧ e.dstride[d]? = some m ∧ e.ext[d]? = some q ∧ k < m * q) ∨
      2 ^ 31 < e.size * e.ext.prod ∨ e.combine ≠ 0 ∧ (e.size ≠ 4 ∨ e.useFb = true ∨ e.contrib ≤ e.rank)) →
    s.stageEntry x p hdr arg j = .error (.trap { cause := 4#8, sub := 1#4, info0 := BitVec.ofNat 32 j })

/-- R188, R194: CSTAGE, when the entries from the cursor on are well-formed and nothing stalls its dusk.die, reserves n consecutive handles, releases the
copies as slots and ranges are there, moves the cursor on by n, and returns the first handle; each copy stands in the slot that its handle names. What it
cannot release makes it wait with the rest to do. With no lane active it does nothing; a count of 0 or above 64 traps with subcode 5; the trap of the first
entry that fails its checks is CSTAGE's, with nothing released. -/
def Sys2Proof.Claims.CopiesAreReleased : Prop :=
  ∀ i s t x d n arg, staging x i = some (d, n, arg) → Runs i s t x → x.todo.begun = false →
    (x.active = [] → Makes i s t x (x.issued i)) ∧
    ∀ hdr p, x.active ≠ [] → s.record? x.launch = some hdr → s.place? x.cluster x.core = some p →
      (n = 0 ∨ 64 < n → Traps i s t x { cause := 4#8, sub := 5#4 }) ∧
      (∀ cs, 1 ≤ n → n ≤ 64 → hdr.schedN ≠ 0 → (List.range n).mapM (s.stageEntry (x.issued i) p hdr arg) = .ok cs →
        s.duskStalls x.core t = false →
        let h := (s.core x.core).handleNo
        let v := ((s.putTeam t (x.issued i)).publishTeam x.core t).takeHandles x.core n
        let rel := v.2.releaseAll x.core (numbered h cs)
        (rel.1 = [] → ∃ (u : State) (y : Team), ({ x.issued i with todo := y.todo } : Team).Wrote y x.act d 1 (fun _ _ => h) ∧
          (∀ j c, cs[j]? = some c → ∃ k, aget u.copies (x.core * 1024 + (h + BitVec.ofNat 32 j).toNat % 1024) = some k ∧
            k.handle = h + BitVec.ofNat 32 j ∧ k.kind = c.kind ∧ k.dst = c.dst ∧ k.counter = c.counter ∧ k.cluster = x.cluster) ∧
          (∃ q, u.place? x.cluster x.core = some q ∧ q.cursor = (p.cursor + n) % hdr.schedN) ∧
          (u.core x.core).handleNo = h + BitVec.ofNat 32 n ∧ aget u.teams t = some y ∧ exec i s = .next (u.retired t x i)) ∧
        (rel.1 ≠ [] → exec i s = .next ((rel.2.putTeam t
          { x.issued i with todo := { copies := rel.1, handle := h, begun := true } }).park t .slot))) ∧
      ∀ r, 1 ≤ n → n ≤ 64 → hdr.schedN ≠ 0 → (List.range n).mapM (s.stageEntry (x.issued i) p hdr arg) = .error (.trap r) → Traps i s t x r

/-- Releasing copies: the entries, what is malformed, and what CSTAGE does. -/
def Obligations.ReleasingCopies : Prop :=
  Sys2Proof.Claims.EntriesAreRead ∧ Sys2Proof.Claims.MalformedEntries ∧ Sys2Proof.Claims.CopiesAreReleased

/-- R42, R43, R208, R209: CWAIT attaches to the clause's flag an operation that is outstanding until the counter is at least the target; a reference that
names no counter traps with subcode 4; with no lane active it attaches nothing. -/
def Sys2Proof.Claims.WaitingForCounters : Prop :=
  ∀ a b s t x, Runs (.cwait a b) s t x →
    (x.active = [] → Makes (.cwait a b) s t x (x.issued (.cwait a b))) ∧
    (x.active ≠ [] →
      (∀ loc, counterAt s x (x.rdFirst 0 a) = some loc → Makes (.cwait a b) s t x
        (attached (x.issued (.cwait a b)) (.cwait loc (x.rdFirst 0 b 1 ++ x.rdFirst 0 b 0)))) ∧
      (counterAt s x (x.rdFirst 0 a) = none → Traps (.cwait a b) s t x { cause := 4#8, sub := 4#4 }))

/-- R207, R208, R210: CREAD returns the 64 bits of its counter; WMREAD the watermark of its handle's range, CSTAT its status word, all ones for a handle
that names nothing; reading the status of a failed copy of the own cluster acknowledges it and lets its range go. -/
def Sys2Proof.Claims.CopyReads : Prop :=
  (∀ d a s t x, Runs (.cread d a) s t x →
    (∀ loc, counterAt s x (x.rdFirst 0 a) = some loc ∧ s.counterBad loc = none ∨ x.active = [] →
      Results (.cread d a) s t x d 2 fun o _ => mod32 (s.counter loc / 2 ^ (32 * o) : Nat)) ∧
    (x.active ≠ [] → counterAt s x (x.rdFirst 0 a) = none → Traps (.cread d a) s t x { cause := 4#8, sub := 4#4 })) ∧
  (∀ d a s t x, Runs (.wmread d a) s t x → Results (.wmread d a) s t x d 1 fun _ _ =>
    match s.copy? x.core (x.rdFirst 0 a) with
    | some q => match aget s.ranges q.2.range with
      | some r => mod32 r.mark
      | none => 0#32
    | none => 0xFFFFFFFF#32) ∧
  ∀ d a s t x, Runs (.cstat d a) s t x →
    (s.copy? x.core (x.rdFirst 0 a) = none → Results (.cstat d a) s t x d 1 fun _ _ => 0xFFFFFFFF#32) ∧
    ∀ key c, s.copy? x.core (x.rdFirst 0 a) = some (key, c) →
      (c.phase ≠ .failed ∨ c.cluster ≠ x.cluster ∨ x.active = [] → Results (.cstat d a) s t x d 1 fun _ _ => statusOf c) ∧
      (c.phase = .failed → c.cluster = x.cluster → x.active ≠ [] →
        ∃ y, (x.issued (.cstat d a)).Wrote y x.act d 1 (fun _ _ => statusOf c) ∧
          exec (.cstat d a) s = .next (((((s.putTeam t (x.issued (.cstat d a))).ackRange c.range).retireAt c.range key).putTeam t
            y).retired t x (.cstat d a)))

/-- Waiting for counters, reading counters and copies. -/
def Obligations.CountersAndCopyReads : Prop := Sys2Proof.Claims.WaitingForCounters ∧ Sys2Proof.Claims.CopyReads

/-- R211, R214: BALLOC takes the lowest free entry of the die's pool (log 8): count, timeout, phase 0, no error, one reference; the handle in every active lane,
Z 1. With no free entry, or 16 references held, it returns all ones with Z 0. With no lane active no barrier instruction does anything. -/
def Sys2Proof.Claims.AllocatingBarriers : Prop :=
  ∀ d a b s t x, Runs (.balloc d a b) s t x →
    let i := Instr.balloc d a b
    let die := x.core / 64
    let z := fun (y : Team) v => ({ y with ctx := { x.ctx with cc := { x.ctx.cc with z := v } } } : Team)
    let free := fun k => k < 1024 ∧ ∀ e, aget (s.die die).barriers k = some e → e.live = false
    (x.active = [] → Makes i s t x (x.issued i)) ∧
    (x.active ≠ [] → (16 ≤ x.barRefs.length ∨ ∀ k, ¬ free k) →
      ∃ y, (x.issued i).Wrote y x.act d 1 (fun _ _ => 0xFFFFFFFF#32) ∧ Makes i s t x (z y false)) ∧
    ∀ k, x.active ≠ [] → x.barRefs.length < 16 → free k → (∀ j, j < k → ¬ free j) →
      let gen := match aget (s.die die).barriers k with
        | some e => e.gen
        | none => 0
      let h := mod32 (gen % 16 * 2 ^ 12 + die % 4 * 2 ^ 10 + k : Nat)
      let n := (x.rdFirst 0 a).toNat % 2 ^ 16
      let e : Barrier := { gen := gen, live := true, need := max n 1, refs := 1, timeout := x.rdFirst (litCount [a]) b }
      let pool := aput (s.die die).barriers k e
      ∃ y, ({ x.issued i with barRefs := x.barRefs ++ [h] } : Team).Wrote y x.act d 1 (fun _ _ => h) ∧
        exec i s = .next (((s.putDie die { s.die die with barriers := pool }).putTeam t (z y true)).retired t x i)

/-- R211 to R214: the barrier instructions on a barrier of this module: a reference more or less, an arrival in the phase that BARRIVE returns, behind the flush
acknowledgements of the module's endpoints and dusk.die (log 29), expected bytes and the cluster's bound barrier; a phase completes when its arrivals and bytes are there. -/
def Sys2Proof.Claims.BarrierInstructions : Prop :=
  ∀ s t x h b, x.active ≠ [] → barPeer h = 0 → s.barrier? h = some b →
    (∀ a, Runs (.bref a) s t x → x.rdFirst 0 a = h → x.barRefs.length < 16 →
      exec (.bref a) s = .next (((s.putBarrier h { b with refs := b.refs + 1 }).putTeam t
        { x.issued (.bref a) with barRefs := x.barRefs ++ [h] }).retired t x (.bref a))) ∧
    (∀ a, Runs (.bfree a) s t x → x.rdFirst 0 a = h → h ∈ x.barRefs →
      exec (.bfree a) s = .next (((s.putBarrier h
        (if b.refs ≤ 1 then { gen := (b.gen + 1) % 16 } else { b with refs := b.refs - 1 })).putTeam t
          { x.issued (.bfree a) with barRefs := x.barRefs.erase h }).retired t x (.bfree a))) ∧
    (∀ d a, Runs (.barrive d a) s t x → x.rdFirst 0 a = h → s.duskStalls x.core t = false → (∀ e ∈ x.sentTo, 98 ≤ e.1) →
      ∃ y, let w := (s.putTeam t (x.issued (.barrive d a))).publishTeam x.core t
        ({ x.issued (.barrive d a) with markers := none, released := (w.die (x.core / 64)).pubs.length } : Team).Wrote y x.act d 1
          (fun _ _ => b.phase) ∧
        exec (.barrive d a) s = .next (((w.putBarrier h (phased { b with arrived := b.arrived + 1 })).putTeam t y).retired t x (.barrive d a))) ∧
    (∀ a v p, Runs (.bexpect a v) s t x → x.rdFirst 0 a = h → s.place? x.cluster x.core = some p →
      exec (.bexpect a v) s = .next ((((s.putTeam t (x.issued (.bexpect a v))).putBarrier h
        (phased { b with pending := b.pending + (x.rdFirst (litCount [a]) v).toInt })).putPlace x.cluster
          { p with bound := some h }).retired t x (.bexpect a v)))

/-- R211, R212, R214, R338: a handle that names no live barrier of its generation, and no peer of the queue, traps with subcode 3, as BREF does with 16
references held and BFREE for a reference not held; a peer's barrier is told of a reference, an arrival behind dusk.sys, expected bytes. -/
def Sys2Proof.Claims.BarrierHandles : Prop :=
  (∀ i a s t x, onBarrier i a → Runs i s t x → x.active ≠ [] → s.handleOk x.launch (x.rdFirst 0 a) = false →
    Traps i s t x { cause := 4#8, sub := 3#4 }) ∧
  (∀ a s t x, Runs (.bref a) s t x → x.active ≠ [] → 16 ≤ x.barRefs.length →
    Traps (.bref a) s t x { cause := 4#8, sub := 3#4 }) ∧
  (∀ a s t x, Runs (.bfree a) s t x → x.active ≠ [] → x.rdFirst 0 a ∉ x.barRefs →
    Traps (.bfree a) s t x { cause := 4#8, sub := 3#4 }) ∧
  ∀ a s t x h, x.active ≠ [] → x.rdFirst 0 a = h → barPeer h ≠ 0 → s.handleOk x.launch h = true →
    let told := fun (s : State) (op : Nat) (v : Word) =>
      ({ s with replies := s.replies ++ [.barrierToPeer h op v] } : State)
    (Runs (.bref a) s t x → x.barRefs.length < 16 → exec (.bref a) s = .next (((told s 1 0#32).putTeam t
      { x.issued (.bref a) with barRefs := x.barRefs ++ [h] }).retired t x (.bref a))) ∧
    (Runs (.bfree a) s t x → h ∈ x.barRefs → exec (.bfree a) s = .next (((told s 2 0#32).putTeam t
      { x.issued (.bfree a) with barRefs := x.barRefs.erase h }).retired t x (.bfree a))) ∧
    (∀ v p, Runs (.bexpect a v) s t x → s.place? x.cluster x.core = some p →
      exec (.bexpect a v) s = .next ((((told s 4 (x.rdFirst (litCount [a]) v)).putTeam t
        (x.issued (.bexpect a v))).putPlace x.cluster { p with bound := some h }).retired t x (.bexpect a v))) ∧
    ∀ d, Runs (.barrive d a) s t x → x.sentTo = [] → x.redDrop = none → x.msgDrop = none → s.duskStalls x.core t = false →
      ∃ y v, let w := (s.putTeam t (x.issued (.barrive d a))).publishTeam x.core t
        ({ x.issued (.barrive d a) with markers := none, released := (w.die (x.core / 64)).pubs.length } : Team).Wrote y x.act d 1 (fun _ _ => v) ∧
        exec (.barrive d a) s = .next (((told { w with fresh := w.fresh + 1 } 3 0#32).putTeam t y).retired t x (.barrive d a))

/-- R43, R93, R214: BWAIT, on a barrier of this module or of a peer, attaches to the clause's flag an operation that is outstanding until its phase has passed, and
leaves its destination to be written then in the lanes now active; with no lane active no barrier instruction does anything. -/
def Sys2Proof.Claims.WaitingAtBarriers : Prop :=
  (∀ d a v s t x, Runs (.bwait d a v) s t x → x.active ≠ [] → s.handleOk x.launch (x.rdFirst 0 a) = true →
    let reg := (x.regNo d 0).getD 511
    let ref := OpRef.bwait (x.rdFirst 0 a) (x.rdFirst (litCount [a]) v) reg x.ctx.mask
    let y := attached (x.issued (.bwait d a v)) ref
    Makes (.bwait d a v) s t x { y with pendRegs := y.pendRegs ++ if reg = 511 then [] else [⟨reg, ref⟩] }) ∧
  ∀ i a s t x, onBarrier i a ∨ i = .bfree a → Runs i s t x → x.active = [] → Makes i s t x (x.issued i)

/-- Barrier handles, peers' barriers, waiting. -/
def Obligations.BarrierHandlesAndWaits : Prop := Sys2Proof.Claims.BarrierHandles ∧ Sys2Proof.Claims.WaitingAtBarriers

/-- R212 to R214: a barrier's timeout sets its error bit and completes its phase, once, and not while an absence is counted; absence and presence tokens, one in
flight in the module before one of a peer, count up and down; a peer's team adds a reference, an arrival, bytes, and its failed copy sets the error bit; a BWAIT is over
once its phase has passed or the barrier is freed, and at once where the error bit is set: it writes 1 but for a phase from that of the error on (log 29). -/
def Sys2Proof.Claims.BarrierEvents : Prop :=
  (∀ (s : State) die k b, aget (s.die die).barriers k = some b → b.live = true → b.timeout ≠ 0#32 → b.absences = 0 →
    b.err = none →
    let e := { b with err := some b.phase, phase := b.phase + 1#32, arrived := 0, pending := 0 }
    exec (.barrierTimeout die k) s
      = .next (s.putDie die { s.die die with barriers := aput (s.die die).barriers k e })) ∧
  (∀ (s : State) h b presence, s.barrier? h = some b →
    let counted := fun u : State => u.putBarrier h { b with absences := if presence then b.absences - 1 else b.absences + 1 }
    ((∀ q ∈ s.packets, q.2.kind ≠ .token h presence) → exec (.barrierToken h presence) s = .next (counted s)) ∧
    ∀ q, (s.packets.find? fun q => q.2.isToken h presence && s.mayArrive q.1 q.2) = some q →
      exec (.barrierToken h presence) s = .next (counted (s.arrive q.1 q.2))) ∧
  (∀ (s : State) h phase reg mask, barPeer h = 0 →
    (s.barrier? h = none → s.pollOp (.bwait h phase reg mask) = some 0#32) ∧
    ∀ b, s.barrier? h = some b →
      let passed := 1 ≤ (b.phase - phase).toNat ∧ (b.phase - phase).toNat ≤ 2 ^ 31
      (b.err = none → ¬ passed → s.pollOp (.bwait h phase reg mask) = none) ∧
      (b.err = none → passed → s.pollOp (.bwait h phase reg mask) = some 1#32) ∧
      ∀ q, b.err = some q →
        s.pollOp (.bwait h phase reg mask) = some (truth (decide (2 ^ 31 ≤ (phase - q).toNat)))) ∧
  ∀ (s : State) h b (v : Word), s.barrier? h = some b →
    let said := fun (s : State) (w : Word) => ({ s with replies := s.replies ++ [.data (leBytes 4 w.toNat)] } : State)
    exec (.crossModuleBarrierAccess h 1 v) s = .next (said (s.putBarrier h { b with refs := b.refs + 1 }) 0#32) ∧
    exec (.crossModuleBarrierAccess h 3 v) s = .next (said (s.putBarrier h (phased { b with arrived := b.arrived + 1 })) b.phase) ∧
    exec (.crossModuleBarrierAccess h 4 v) s = .next (said (s.putBarrier h (phased { b with pending := b.pending + v.toInt })) 0#32) ∧
    exec (.crossModuleBarrierAccess h 7 v) s = .next (said (s.putBarrier h (if b.err = none then
      { b with err := some b.phase, phase := b.phase + 1#32, arrived := 0, pending := 0 } else b)) 0#32)

/-- Barriers of this module. -/
def Obligations.Barriers : Prop :=
  Sys2Proof.Claims.AllocatingBarriers ∧
  Sys2Proof.Claims.BarrierInstructions ∧
  Sys2Proof.Claims.BarrierEvents

/-- R192, R196, R198: the landing of the next element of a copy that does not combine, whose source can be read and whose destination can be written: the
watermark moves to the next element, or to the end behind the last. Bytes for shared memory or a scratchpad stand in the range; with its last element it takes its
place, and what it holds, but for bytes rewritten since, is in shared memory, or is the newest publication of the die (R199). Into the B store of a core that the launch
owns, into main memory and to a peer exactly the element's bytes go at once. -/
def Sys2Proof.Claims.CopyLandings : Prop :=
  ∀ (s : State) range r core slot c e bs v clip w, aget s.ranges range = some r → r.owner = .copy core slot → slot < 1024 →
    aget s.copies (core * 1024 + slot) = some c → c.kind = .copy e → e.combine = 0 → c.range = range →
    c.open = true → c.frozen = false → c.err = 0 → c.next ≠ c.total → s.canLand range r c.launch = true → r.place = none →
    s.elementRead (core * 1024 + slot) c e = (.ok bs v, clip) → bs.length = e.size →
    v.engineCheck c.launch c.denied { c.dst with addr := c.dst.addr + e.dstOff c.next } e.size = .ok [] w →
    let at_ := c.dst.addr + e.dstOff c.next
    let last := c.next + 1 = c.total
    let held := (r.data ++ cellsAt at_ bs).filter fun b => !r.rewritten.contains b.1
    ∃ u, exec (.copyLanding range) s = .next u ∧
      (∃ k, aget u.copies (core * 1024 + slot) = some k ∧ k.next = c.next + 1 ∧
        k.clipped = c.clipped + (if clip then 1 else 0)) ∧
      (∃ q, aget u.ranges range = some q ∧
        q.mark = if c.next + 1 < e.elements then e.dstOff (c.next + 1) else e.span) ∧
      (∀ k n, c.dst.dest = .sh k n → r.dest = .sh k n → (s.place? k n).isSome = true →
        (∃ q, aget u.ranges range = some q ∧ q.data = r.data ++ cellsAt at_ bs ∧ (q.place.isSome = true ↔ last)) ∧
        ∀ a, u.shByte k n a = if last then ((held.reverse.find? (·.1 == a)).map (·.2)).getD (s.shByte k n a) else s.shByte k n a) ∧
      (∀ d, c.dst.dest = .sp d → r.dest = .sp d →
        (∃ q, aget u.ranges range = some q ∧ q.data = r.data ++ cellsAt at_ bs ∧
          q.place = if last then some (s.die d).pubs.length else none) ∧
        (u.die d).pubs = if last then ⟨.landing, none, held, [], none⟩ :: (s.die d).pubs else (s.die d).pubs) ∧
      (∀ n, c.dst.dest = .bst n → (s.core n).owner = some c.launch → ∀ a,
        tget zeros (u.core n).bst a = if at_ ≤ a then (bs[a - at_]?).getD (tget zeros (s.core n).bst a) else tget zeros (s.core n).bst a) ∧
      (c.dst.dest = .main → u.mem = (w.writeVa (s.rootOf c.launch) at_ bs).mem) ∧
      ∀ i, c.dst.dest = .peer i → u.replies = s.replies ++ [.toPeer i at_ bs]

/-- R5, R6, R362: bytes written at virtual addresses whose translations name one key and consecutive bytes of main memory stand there, as that key reads it; every
other byte reads under that key as before. -/
def Sys2Proof.Claims.MainMemoryWrites : Prop :=
  ∀ (s : State) root va (bs : List Byte) key pa,
    (∀ i, i < bs.length → ∃ e, s.xlate root (va + i) .write = .ok e ∧ e.key = key ∧ e.pa (va + i) = pa + i) →
    ∀ a, (s.writeVa root va bs).plainByte (s.keyVal key) a =
      if pa ≤ a then (bs[a - pa]?).getD (s.plainByte (s.keyVal key) a) else s.plainByte (s.keyVal key) a

/-- R205: the combining operators. -/
def Sys2Proof.Claims.merged : Nat → Word → Word → Word
  | 1, a, c => Sys2Proof.Claims.mod32 (a.toNat + c.toNat)
  | 2, a, c => Sys2Proof.Claims.mod32 (min a.toInt c.toInt)
  | 3, a, c => Sys2Proof.Claims.mod32 (max a.toInt c.toInt)
  | 4, a, c => Sys2Proof.Claims.mod32 (min a.toNat c.toNat)
  | 5, a, c => Sys2Proof.Claims.mod32 (max a.toNat c.toNat)
  | 6, a, c => BitVec.ofNat 32 (FFmt.f32.addB .rne false a.toNat c.toNat)
  | 7, a, c => BitVec.ofNat 32 (FFmt.f32.minNumB false false a.toNat c.toNat)
  | _, a, c => BitVec.ofNat 32 (FFmt.f32.minNumB false true a.toNat c.toNat)

/-- R205: once a combine group has its contributions, each read, its next element lands for every member at once: the contributions in the order of their ranks,
behind the destination's earlier value where Acc is set, combined by the group's operator. -/
def Sys2Proof.Claims.CombinedLandings : Prop :=
  ∀ (s : State) range r core slot c e g vs v w old z, aget s.ranges range = some r → r.owner = .copy core slot → slot < 1024 →
    aget s.copies (core * 1024 + slot) = some c → c.kind = .copy e → 1 ≤ e.combine → e.combine ≤ 8 → c.open = true → c.frozen = false →
    c.err = 0 → c.next ≠ c.total → s.canLand range r c.launch = true → s.groupReady (core * 1024 + slot) = true →
    s.groupOf (core * 1024 + slot) = g → (g.map (·.1)).Nodup → (g.map (·.2.1.range)).Nodup →
    (∀ m ∈ g, m.2.1.frozen = false ∧ aget s.copies m.1 = some m.2.1 ∧
      ∃ q, aget s.ranges m.2.1.range = some q ∧ q.place = none ∧ q.dest = m.2.1.dst.dest ∧ s.canLand m.2.1.range q m.2.1.launch = true) →
    gather s g = .ok (vs, v) → ∀ k0 c0 e0, g.head? = some (k0, c0, e0) →
    let at_ := c0.dst.addr + e0.dstOff c0.next
    v.engineCheck c0.launch c0.denied { c0.dst with addr := at_ } 4 = .ok [] w →
    (if e0.acc then w.earlier c0.launch c0.denied { c0.dst with addr := at_ } else .ok [] w) = .ok old z →
    let ranked := (List.range e0.contrib).map fun k => ((vs.find? (·.1 == k)).map (·.2)).getD 0#32
    let all := if e0.acc then leWord old :: ranked else ranked
    let word := all.tail.foldl (Sys2Proof.Claims.merged e0.combine) (all.headD 0#32)
    let bs := leBytes 4 word.toNat
    ∃ u, exec (.copyLanding range) s = .next u ∧
      (∀ m ∈ g, ∃ k, aget u.copies m.1 = some k ∧ k.next = m.2.1.next + 1) ∧
      (∀ m ∈ g, ∀ q, aget s.ranges m.2.1.range = some q → ∃ n, aget u.ranges m.2.1.range = some n ∧
        n.mark = (if c0.next + 1 < e0.elements then e0.dstOff (c0.next + 1) else e0.span) ∧
        ((∃ k p, m.2.1.dst.dest = .sh k p) ∨ (∃ d, m.2.1.dst.dest = .sp d) → n.data = q.data ++ cellsAt at_ bs)) ∧
      (∀ n, (∀ m ∈ g, m.2.1.dst.dest = .bst n ∧ (s.core n).owner = some m.2.1.launch) → ∀ a,
        tget zeros (u.core n).bst a = if at_ ≤ a then (bs[a - at_]?).getD (tget zeros (s.core n).bst a) else tget zeros (s.core n).bst a) ∧
      ((∀ m ∈ g, m.2.1.dst.dest = .main) →
        u.mem = (g.foldl (fun t m => t.writeVa (s.rootOf m.2.1.launch) at_ bs) z).mem)

/-- R199, R207, R208: a copy whose elements have landed completes, in the order in which last bytes have landed: its status says so, its watermark is at its end, its counter has gained the
increment, or the tile's bytes for an increment of 0, modulo 2^64; the slot of a copy into a landing unit is free at once. A stopped copy fails, and keeps its slot and its
frozen watermark until the failure has been read. -/
def Sys2Proof.Claims.CopyCompletions : Prop :=
  ∀ (s : State) core slot c e r l, aget s.copies (core * 1024 + slot) = some c → c.kind = .copy e → c.open = true →
    c.frozen = false → aget s.ranges c.range = some r → aget s.launches c.launch = some l → l.phase = .running → r.acked = false →
    s.itsCompletion c.range = true → (c.err ≠ 0 ∨ c.next = c.total) →
    let failed := decide (c.err ≠ 0)
    let c' : Copy := { c with phase := if failed then .failed else .complete }
    let v := (s.putCopy (core * 1024 + slot) c').closeRange c.range c.launch failed
    let n := if c.incr = 0#32 then e.bytes else c.incr.toNat
    ∃ u, exec (.copyCompletion core slot) s = .next u ∧
      (c.counter ≠ .none → (∀ k m a, c.counter = .sh k m a → (s.place? k m).isSome = true) →
        u.counter c.counter = (v.counter c.counter + n) % 2 ^ 64) ∧
      (failed = false → (∃ m, r.unit = .core m) → (∀ d, r.dest ≠ .sp d) →
        aget u.copies (core * 1024 + slot) = none ∧ aget u.ranges c.range = none) ∧
      (failed = true → r.unit ≠ .unregistered → aget u.copies (core * 1024 + slot) = some c' ∧
        ∃ q, aget u.ranges c.range = some q ∧ q.failed = true ∧ q.done = true ∧ q.mark = r.mark)

/-- R198, R199, R202, R205, R220: a range held behind others lands once each of them has passed the overlap, has failed or has gone, a contribution only with
its group, a copy into a B store only while its launch owns the core's matrix state; a range whose landing has ended, with a failure
read, and in a scratchpad with every counted core behind its place, leaves with its slot; a copy with a fallback that misses its deadline goes on from there. -/
def Sys2Proof.Claims.CopyRangesAndDeadlines : Prop :=
  (∀ (s : State) range r core slot c, aget s.ranges range = some r → r.owner = .copy core slot → r.behind ≠ [] →
    aget s.copies (core * 1024 + slot) = some c → c.phase = .held →
    (∀ b ∈ r.behind, ∀ q, aget s.ranges b.1 = some q → q.failed = true ∨ b.2 ≤ q.mark) →
    let waits := (∃ e, c.kind = .copy e ∧ e.combine ≠ 0 ∧ c.err = 0 ∧ c.next < c.total) ∨
      ∃ n, c.dst.dest = .bst n ∧ (s.core n).owner ≠ some c.launch ∧ s.launchHalted c.launch = false
    let freed := fun p => exec (.copyOverlapRelease range) s
      = .next ((s.putRange range { r with behind := [] }).putCopy (core * 1024 + slot) { c with phase := p })
    (¬ waits → freed .landing) ∧ (waits → freed .held)) ∧
  (∀ (s : State) range r core slot, aget s.ranges range = some r → r.owner = .copy core slot → r.done = true →
    (r.failed = true → r.acked = true) → (∀ d, r.dest = .sp d → r.place.getD 0 ≤ s.leastSnap d ∧
      ∀ q ∈ s.ranges, q.2.dest = .sp d → q.2.failed = false → ∀ p, q.2.place = some p → r.place.getD 0 ≤ p) →
    exec (.copyDeregistration range) s
      = .next { s with ranges := adel s.ranges range, copies := adel s.copies (core * 1024 + slot) }) ∧
  ∀ (s : State) core slot c e, aget s.copies (core * 1024 + slot) = some c → c.kind = .copy e → e.useFb = true →
    e.deadline ≠ 0#32 → c.open = true → c.useFb = false → c.frozen = false → c.err = 0 →
    ∃ u k, exec (.copyDeadline core slot) s = .next u ∧ aget u.copies (core * 1024 + slot) = some k ∧ k.useFb = true ∧
      k.next = c.next ∧ u.ranges = s.ranges

/-- What the copy engine does. -/
def Obligations.CopyEngine : Prop :=
  Sys2Proof.Claims.CopyLandings ∧
  Sys2Proof.Claims.MainMemoryWrites ∧
  Sys2Proof.Claims.CombinedLandings ∧
  Sys2Proof.Claims.CopyCompletions ∧
  Sys2Proof.Claims.CopyRangesAndDeadlines

/-! Matrix. -/

namespace Sys2Proof.Claims

open Sys2Proof.Machine

/-- The launch of the team owns the matrix state of these cores (R220). -/
def Owned (s : State) (x : Team) (cores : List Nat) : Prop := ∀ c ∈ cores, (s.core c).owner = some x.launch

/-- The accumulator row of lane l (R225). -/
def rowOf (b : Field) (l : Nat) : Nat := 8 * (b.toNat + l / 8) + l % 8

/-- The lowest active lane of the quarter of lane l (R225). -/
def leadOf (x : Team) (l : Nat) : Nat := ((x.active.find? fun k => k / 8 == l / 8).getD l)

/-- The active lanes of each quarter that issues, ascending (R225). -/
def quartersOf (x : Team) : List (List Nat) :=
  ((List.range 128).map fun q => x.active.filter fun l => l / 8 == q).filter (· ≠ [])

/-- The operation reads lane registers when its pass runs (R230). -/
def readsRegisters : ArrayKind → Bool
  | .mm _ _ _ _ _ _ => true
  | _ => false

/-- Executing i puts operations at the end of the queue of the team's core, attaches them to the team's flag and notes the registers
that they will write (R43, R93, R229), and that registers are still to be read (R230). -/
def Queues (i : Instr) (s : State) (t : Nat) (x : Team) (kinds : List ArrayKind) (regs : List Nat) : Prop :=
  let ref := OpRef.array s.nextId
  let k := s.core x.core
  let ops := kinds.map fun kind => ({ op := s.nextId, team := t, pc := x.pcOff.setWidth 32, kind := kind, since := k.blog.length } : ArrayOp)
  let y := attached (x.issued i) ref
  let y := { y with pendRegs := y.pendRegs ++ regs.map fun r => ⟨r, ref⟩
                    spans := y.spans ++ if kinds.any readsRegisters then [s.nextId] else [] }
  exec i s = .next (((({ s with nextId := s.nextId + 1 } : State).putCore x.core { k with queue := k.queue ++ ops }).putTeam t
    y).retired t x i)

/-- The format words of every quarter agree and pass the checks of R77 (R226). -/
def Agreed (x : Team) (v : Field) : Prop :=
  ∀ l ∈ x.active, x.rd 0 v 1 l = x.rd 0 v 1 (leadOf x l) ∧ fmtCheck (x.rd 0 v 1 l) = 0

/-- Bytes of B that a step reads (R228). -/
def readsB (sparse : Bool) (d w : Word) (a : Nat) : Prop :=
  let t := d.toNat % 2 ^ 8
  let u := d.toNat / 2 ^ 8 % 2 ^ 8
  10240 * t ≤ a ∧ a < 10240 * (t + if sparse then 2 else 1) ∨
    w.toNat / 2 ^ 12 % 4 ≠ 0 ∧ 10240 * u ≤ a ∧ a < 10240 * (u + 1)

/-- Elements of a step (R222, R228): 64 or 128 bytes of them. -/
def stepLength (sparse : Bool) (w : Word) : Nat :=
  let c := w.toNat % 16
  (if c ≤ 2 then 32 else if c ≤ 6 then 64 else 128) * if sparse then 2 else 1

/-- Register n of the team in a lane: a lane register below 256, else an entry of the operand file. -/
def numbered (x : Team) (n l : Nat) : Word := if n < 256 then x.reg n l else tget zeros x.ofile ((n - 256) * 1024 + l)

/-- The team with an operation complete that read registers when its pass ran (R230): what is written is not kept for it any more. -/
def unwatched (op : Nat) (x : Team) : Team :=
  { x with spans := x.spans.filter (· ≠ op), spanLog := if x.spans.filter (· ≠ op) = [] then [] else x.spanLog }

/-- Registers of an A span (R222): 16, with parameters 22. -/
def spanOf (w : Word) : Nat := if w.toNat / 2 ^ 12 % 4 = 0 then 16 else 22

/-- Words of a row of A as a pass of an operation of team t may read them (R230): each is the one that was fixed by an earlier read, or what its register held at issue, what a load had
still to bring then, or what has been written to it since. -/
def FreeWords (s : State) (t base log : Nat) (r : MmRow) (ws : List Word) : Prop :=
  ws.length = r.words.length ∧ ∀ n < ws.length, match aget r.fixed n with
    | some v => ws.getD n 0#32 = v
    | none => ws.getD n 0#32 = r.words.getD n 0#32 ∨ r.early.getD n none = some (ws.getD n 0#32) ∨
      ∃ x, aget s.teams t = some x ∧ ((base + n) * 1024 + r.lane, ws.getD n 0#32) ∈ x.spanLog.drop log

/-- The B store as a pass of an operation may read it (R232): of each element the bytes that an earlier read has fixed, or those of one moment since the operation's issue. -/
def FreeB (c : Core) (o : ArrayOp) (p : Step) (B : Nat → Byte) : Prop :=
  ∀ a, match aget o.seen a with
    | some v => B a = v
    | none => ∃ m, o.since ≤ m ∧ ∀ b ∈ p.elemAt a, aget o.seen b = none → B b = c.bAt m b

/-- A row that a pass of the operation may read (R230, R241). -/
def PassRow (s : State) (o : ArrayOp) (p : Step) (a : ARow) : Prop :=
  match o.kind with
  | .mm d w base sparse rows log => p = stepOf sparse d w ∧ ∃ r ∈ rows, ∃ ws, FreeWords s o.team base log r ws ∧
      a = ⟨r.row, wordByte ws, if sparse then some r.mdata else none⟩
  | .mmc d w _ _ rows => p = stepOf false d w ∧ ∃ r ∈ rows, a = ⟨r.1, listByte (r.2.2.map (·.getD 0#8)), none⟩
  | _ => False

/-- c' is core c with an operation of its queue wholly performed, as far as an element, or with more its row, goes (R228, R229); the words and B bytes that
the operation reads are free within R230 and R232. -/
def Performed (s : State) (row col : Nat) (o : ArrayOp) (more : Bool) (c c' : Core) : Prop :=
  (o.pass? = none ∧ ∃ f, c' = (({ s with fresh := f } : State).arrayWork c o).1) ∨
    (∃ q, o.pass? = some q ∧ (∀ a ∈ q.2, a.row ≠ row) ∧ c' = c) ∨
    ∃ p a B, PassRow s o p a ∧ a.row = row ∧ FreeB c o p (tget zeros B) ∧
      c' = if more then { ({ c with bst := B } : Core).pass p [a] with bst := c.bst }
        else { c with acc := tset zeros c.acc (accKey row col) (({ c with bst := B } : Core).passElem p a p.blocks col (c.accAt row col)) }

/-- A value that a read ahead of the outstanding operations may return for an element (R231): that before the first of them; one behind a whole number of
blocks of it; or one that a read behind it may return. -/
def Seen (s : State) (row col : Nat) : List ArrayOp → Core → BitVec 56 → Prop
  | [], c, v => v = c.accAt row col
  | o :: r, c, v => v = c.accAt row col ∨
    (∃ p a B, PassRow s o p a ∧ a.row = row ∧ FreeB c o p (tget zeros B) ∧ ∃ n, 0 < n ∧ n < p.blocks ∧
      v = ({ c with bst := B } : Core).passElem p a n col (c.accAt row col)) ∨
    ∃ c', Performed s row col o (r.any ArrayOp.wholeRow) c c' ∧ Seen s row col r c' v

/-- An operation without the note of what reads have fixed of it. -/
def unread (o : ArrayOp) : ArrayOp :=
  { o with seen := [], looks := [], kind := match o.kind with
    | .mm d w base sparse rows log => .mm d w base sparse (rows.map fun r => { r with fixed := [] }) log
    | k => k }

/-- Operand fields of MMQ and MMQS: row block, A, descriptor pair, and the first metadata register of MMQS. -/
def step? : Instr → Option (Field × Field × Field × Option Nat)
  | .mmq b a v => some (b, a, v, none)
  | .mmqs j b a v => some (b, a, v, some j.toNat)
  | _ => none

/-- The matrix trap with a quarter and a value (R242, R343). -/
def matrixReport (sub : BitVec 4) (quarter : Word) (value : Nat) : Report :=
  { cause := 8#8, sub := sub, info0 := quarter, info1 := mod32 value }

/-- Rank of an element's magnitude (R239): NaN above infinity above finite values, those by their magnitude in units of 2^-140. -/
def rank (c n : Nat) : Nat ×ₗ Nat :=
  toLex (match elemVal c n 0 with
    | .nan _ _ => (2, 0)
    | .inf _ => (1, 0)
    | .fin _ m e => (0, m * 2 ^ (e + 140).toNat))

/-- Element i of eight keeps its place (R239): fewer than four rank above it; among equals the lower index ranks higher. -/
def keeps (c : Nat) (e : Nat → Nat) (i : Nat) : Bool :=
  decide (((List.range 8).filter fun j => rank c (e i) < rank c (e j) ∨ rank c (e i) = rank c (e j) ∧ j < i).length < 4)

/-- Word o of the result of SPCMP on eight elements of z bits (R239): the four kept elements in ascending order, and then their indices. -/
def pruned (c z : Nat) (e : Nat → Nat) (o : Nat) : Word :=
  let idx := (List.range 8).filter (keeps c e)
  let at_ := fun t => idx.getD t 0
  let values := (List.range 4).foldl (fun n t => n + e (at_ t) * 2 ^ (z * t)) 0
  if o < (z + 7) / 8 then mod32 (values / 2 ^ (32 * o) : Nat)
  else mod32 ((List.range 4).foldl (fun n t => n + at_ t * 2 ^ (3 * t)) 0 : Nat)

/-- A half of a metadata word is well formed (R240). -/
def wellFormedHalf (h : Nat) : Prop := h < 4096 ∧ h % 8 < h / 8 % 8 ∧ h / 8 % 8 < h / 64 % 8 ∧ h / 64 % 8 < h / 512 % 8

/-- An integer element of an operand (R59, R76). -/
def integerOf (c n : Nat) : Int :=
  if c = 5 ∧ 128 ≤ n then (n : Int) - 256 else if c = 7 ∧ 8 ≤ n then (n : Int) - 16 else n

/-- Element k, of z bits, of bytes (R5). -/
def elementAt (z : Nat) (f : Nat → Byte) (k : Nat) : Nat := (f (z * k / 8)).toNat / 2 ^ (z * k % 8) % 2 ^ z

/-- Bits of an element of a code (R75). -/
def widthOfCode (c : Nat) : Nat := if c ≤ 2 then 16 else if c ≤ 6 then 8 else 4

/-- Element k of packed bytes (R5, R219). -/
def elementOf (c : Nat) (f : Nat → Byte) (k : Nat) : Nat :=
  if c ≤ 2 then (f (2 * k)).toNat + 256 * (f (2 * k + 1)).toNat else elementAt (widthOfCode c) f k

/-- An element of an operand, with the scale and the zero point of its slot (R71, R223). -/
structure Elem where
  code  : Nat
  bits  : Nat
  scale : Nat
  zero  : Nat

/-- The value of an element by itself, less its zero point where it has one (R58, R59, R71). -/
def Elem.own (e : Elem) : FVal :=
  match e.code with
  | 1 => FFmt.f16.decode e.bits
  | 2 => FFmt.bf16.decode e.bits
  | 3 => FFmt.e4m3.decode e.bits
  | 4 => FFmt.e5m2.decode e.bits
  | 6 => FVal.ofInt ((e.bits : Int) - e.zero)
  | 8 => FVal.ofInt ((e.bits : Int) - (e.zero % 16 : Nat))
  | c => FVal.ofInt (integerOf c e.bits)

/-- What is multiplied to give the value that enters: the element, and in a group its scale (R71). -/
def Elem.parts (grouped : Bool) (e : Elem) : List FVal := e.own :: if grouped then [FFmt.f16.decode e.scale] else []

/-- The value that enters is finite; infinite; none, because 0 meets infinity (R70). -/
def Elem.Finite (g : Bool) (e : Elem) : Prop := ∀ v ∈ e.parts g, ∃ n m x, v = .fin n m x
def Elem.Infinite (g : Bool) (e : Elem) : Prop := (∃ n, .inf n ∈ e.parts g) ∧ ∀ v ∈ e.parts g, (∃ n, v = .inf n) ∨ value v ≠ 0
def Elem.Clash (g : Bool) (e : Elem) : Prop := (∃ n, .inf n ∈ e.parts g) ∧ ∃ n x, .fin n 0 x ∈ e.parts g

/-- A finite value that enters, behind the flush (R65, R71). -/
def Elem.num (g fl : Bool) (e : Elem) : ℚ :=
  let v := ((e.parts g).map value).prod
  if fl = true ∧ |v| < 1 / 2 ^ 126 then 0 else v

/-- The sign of what enters. -/
def Elem.minus (g : Bool) (e : Elem) : Bool := ((e.parts g).map FVal.isNeg).foldl xor false

/-- A product of two elements is infinite; has no value (R70); its sign. -/
def bigProduct (g fl : Bool) (p : Elem × Elem) : Prop :=
  (p.1.Infinite g ∨ p.2.Infinite g) ∧ ∀ e ∈ [p.1, p.2], e.Infinite g ∨ e.Finite g ∧ e.num g fl ≠ 0
def noProduct (g fl : Bool) (p : Elem × Elem) : Prop :=
  p.1.Clash g ∨ p.2.Clash g ∨ (p.1.Infinite g ∧ p.2.Finite g ∧ p.2.num g fl = 0) ∨ (p.2.Infinite g ∧ p.1.Finite g ∧ p.1.num g fl = 0)
def minusProduct (g : Bool) (p : Elem × Elem) : Bool := xor (p.1.minus g) (p.2.minus g)

/-- Infinity and zero of a sign, and a NaN of a cause, as accumulator elements (R58, R67). -/
def accInf (neg : Bool) : BitVec 56 := if neg then 0xFFF00000000000#56 else 0x7FF00000000000#56
def accZero (neg : Bool) : BitVec 56 := if neg then 0x80000000000000#56 else 0#56
def accNaN (cause : Nat) : BitVec 56 := BitVec.ofNat 56 (0x7FF80000000000 + cause)

/-- One block added to an accumulator element in floating arithmetic (R66, R70, R78). That 0 × infinity is told before an infinite sum that meets the opposite infinity of the accumulator
is log 45. -/
def Block (g fl : Bool) (ps : List (Elem × Elem)) (acc acc' : BitVec 56) : Prop :=
  let infinite := fun neg => ∃ p ∈ ps, bigProduct g fl p ∧ minusProduct g p = neg
  let one := ∃ p ∈ ps, p.1.own.isNan = true ∨ p.2.own.isNan = true
  let two := g = true ∧ ∃ p ∈ ps, (FFmt.f16.decode p.1.scale).isNan = true ∨ (FFmt.f16.decode p.2.scale).isNan = true
  let four := ∃ p ∈ ps, noProduct g fl p
  let three := infinite false ∧ infinite true ∨ ¬ four ∧ ∃ neg, infinite neg ∧ acc = accInf (!neg)
  let sum := value (FFmt.e11m44.decode acc.toNat) + (ps.map fun p => p.1.num g fl * p.2.num g fl).sum
  (ps = [] → acc' = acc) ∧
  (ps ≠ [] → (FFmt.e11m44.decode acc.toNat).isNan = true → acc' = acc ||| 0x80000000000#56) ∧
  (ps ≠ [] → (FFmt.e11m44.decode acc.toNat).isNan = false →
    (one → acc' = accNaN 1) ∧
    (¬ one → two → acc' = accNaN 2) ∧
    (¬ one → ¬ two → three → acc' = accNaN 3) ∧
    (¬ one → ¬ two → ¬ three → four → acc' = accNaN 4) ∧
    (¬ one → ¬ two → ¬ three → ¬ four →
      (∀ neg, infinite neg ∨ acc = accInf neg → acc' = accInf neg) ∧
      ((∀ neg, ¬ infinite neg ∧ acc ≠ accInf neg) →
        (sum ≠ 0 → Delivered .e11m44 .rne false ((sum : ℚ) : ℝ) acc'.toNat) ∧
        (sum = 0 → (acc = accZero true ∧ (∀ p ∈ ps, p.1.num g fl * p.2.num g fl = 0 ∧ minusProduct g p = true) → acc' = accZero true) ∧
          (¬ (acc = accZero true ∧ ∀ p ∈ ps, p.1.num g fl * p.2.num g fl = 0 ∧ minusProduct g p = true) → acc' = accZero false)))))

/-- Group size of a format word (R74); 0 for none. -/
def groupSize (w : Word) : Nat := if w.toNat / 2 ^ 12 % 4 = 0 then 0 else 16 * 2 ^ (w.toNat / 2 ^ 12 % 4)

/-- A 16-bit scale of a slot among parameter bytes (R222, R223). -/
def slotScale (f : Nat → Byte) (n : Nat) : Nat := (f (2 * n)).toNat + 256 * (f (2 * n + 1)).toNat

/-- Element k of a row of A (R222, R223, R228): in MMQS there is one where a metadata field names its position. -/
def elementA (w : Word) (sparse : Bool) (f : Nat → Byte) (md : List Word) (k : Nat) : Option Elem :=
  let c := w.toNat % 16
  let slot := k / min (groupSize w) (stepLength sparse w)
  let named := fun t => (md.getD (k / 16) 0#32).toNat / 2 ^ (16 * (k / 8 % 2) + 3 * t) % 8 = k % 8
  (if sparse then ((List.range 4).find? fun t => decide (named t)).map (4 * (k / 8) + ·) else some k).map fun m =>
    ⟨c, elementOf c f m, slotScale (fun n => f (64 + n)) slot, (f (80 + slot)).toNat⟩

/-- Element k of a column of B (R219, R223, R224, R228). -/
def elementB (d w : Word) (sparse : Bool) (B : Nat → Byte) (col k : Nat) : Elem :=
  let c := w.toNat / 16 % 16
  let n := 512 / widthOfCode c
  let slot := k / min (groupSize w) (stepLength sparse w)
  let par := 10240 * (d.toNat / 2 ^ 8 % 2 ^ 8) + 64 * col
  ⟨c, elementOf c (fun i => B (10240 * (d.toNat % 2 ^ 8 + k / n) + 64 * col + i)) (k % n), slotScale (fun i => B (par + i)) slot,
    (B (par + 16 + slot)).toNat⟩

/-- The products of block n of a step: of the elements below V (R72, R78, R224). -/
def productsOf (d w : Word) (sparse : Bool) (f : Nat → Byte) (md : List Word) (B : Nat → Byte) (col n : Nat) : List (Elem × Elem) :=
  let v := d.toNat / 2 ^ 16 % 2 ^ 8
  let valid := if v = 0 then stepLength sparse w else v
  (((List.range 16).map (16 * n + ·)).filter (· < valid)).filterMap fun k =>
    (elementA w sparse f md k).map fun e => (e, elementB d w sparse B col k)

/-- A step takes an accumulator element from one value to another, block by block (R76, R78, R79, R224): integers modulo 2^56, else in floating arithmetic. -/
def Accumulates (d w : Word) (sparse : Bool) (f : Nat → Byte) (md : List Word) (B : Nat → Byte) (col : Nat) (before after : BitVec 56) : Prop :=
  ∃ v : Nat → BitVec 56, v 0 = (if d.getLsbD 24 then 0#56 else before) ∧ after = v (stepLength sparse w / 16) ∧
    ∀ n < stepLength sparse w / 16, let ps := productsOf d w sparse f md B col n
      if 5 ≤ w.toNat % 16 ∧ 5 ≤ w.toNat / 16 % 16 ∧ groupSize w = 0 then
        v (n + 1) = v n + BitVec.ofInt 56 (ps.map fun p => integerOf p.1.code p.1.bits * integerOf p.2.code p.2.bits).sum
      else Block (groupSize w != 0) (w.getLsbD 14) ps (v n) (v (n + 1))

/-- The cores of the team's cluster by row (R241). -/
def rectangle (c : Cluster) : List (Nat × Nat) :=
  (List.range c.height).flatMap fun y => (List.range c.width).map fun n => (y, rectCore c.die c.x0 c.y0 c.width (y * c.width + n))

/-- Space of the A rows of a row of the rectangle (R241). -/
def rowsIn (x : Team) (c : Cluster) (a : Word) (y : Nat) : Dest :=
  if a.getLsbD 31 then .sh x.cluster (rectCore c.die c.x0 c.y0 c.width (y * c.width)) else .sp (x.core / 64)

end Sys2Proof.Claims

/-- R93, R220, R241: a matrix instruction of a team whose launch does not own the matrix state of its core, for MMC also of a core of its cluster, is not ready: it waits, with nothing
done. With no active lane, the instructions that act by quarters or on the array, but for MXFENCE, do nothing. -/
def Sys2Proof.Claims.MatrixOwnership : Prop :=
  (∀ i s t x, classRole i = 2 → s.focus = some t → aget s.teams t = some x → ¬ Owned s x [x.core] →
    exec i s = .next ((s.putTeam t (x.issued i)).park t (.owner [x.core]))) ∧
  (∀ b a v s t x c, Runs (.mmc b a v) s t x → x.active ≠ [] → aget s.clusters x.cluster = some c →
    ¬ Owned s x ((rectangle c).map (·.2)) → exec (.mmc b a v) s
      = .next ((s.putTeam t (x.issued (.mmc b a v))).park t (.owner ((rectangle c).map (·.2))))) ∧
  ∀ i s t x, classRole i = 2 → Runs i s t x → x.active = [] →
    ((∃ d a v, i = .spcmp d a v) ∨ (∃ k a, i = .mdload k a) ∨ (∃ d k, i = .mdread d k) ∨ i = .mxfence) ∨
      Makes i s t x (x.issued i)

/-- R222 to R228: MMQ and MMQS enter the queue as one pass for each descriptor and format word among their quarters, with every active lane's row: the words of
its A span, and for MMQS its sixteen metadata registers from the named one on. -/
def Sys2Proof.Claims.MatrixSteps : Prop :=
  ∀ i s t x b a v j, step? i = some (b, a, v, j) → Runs i s t x → Owned s x [x.core] → x.active ≠ [] →
    let sparse := j.isSome
    let desc := fun l => x.rd 0 v 0 (leadOf x l)
    let fmt := fun l => x.rd 0 v 1 (leadOf x l)
    Agreed x v →
    (∀ l ∈ x.active, spanOf (fmt l) = 22 → a.toNat + 21 ≤ 111 ∧ x.ctx.win + a.toNat + 21 < x.regsN) →
    (∀ l ∈ x.active, (desc l).toNat < 2 ^ 25 ∧ b.toNat + l / 8 ≤ 15 ∧ (desc l).toNat / 2 ^ 16 % 2 ^ 8 ≤ stepLength sparse (fmt l) ∧
      (sparse = true → (desc l).toNat % 2 ^ 8 ≠ 255)) →
    (∀ l ∈ x.active, ∀ k, readsB sparse (desc l) (fmt l) k → s.landingLoad (.bst x.core) k = .clear) →
    ∃ passes : List (Word × Word × List MmRow),
      Queues i s t x (passes.map fun p => .mm p.1 p.2.1 (x.ctx.win + a.toNat) sparse p.2.2 x.spanLog.length) [] ∧
      (passes.map fun p => (p.1, p.2.1)).Nodup ∧
      (∀ l ∈ x.active, ∃ p ∈ passes, p.1 = desc l ∧ p.2.1 = fmt l) ∧
      ∀ p ∈ passes, p.2.2.map (·.lane) = (x.active.filter fun l => desc l == p.1 && fmt l == p.2.1) ∧ p.2.2 ≠ [] ∧
        ∀ r ∈ p.2.2, r.row = rowOf b r.lane ∧
          r.words = (List.range (spanOf p.2.1)).map (fun k => x.reg (x.ctx.win + a.toNat + k) r.lane) ∧
          ∀ n, j = some n → ∀ k < 16, r.mdata.getD k 0#32 = tget mdataReset x.mdata ((n + k) % 16 * 1024 + r.lane)

/-- R226, R242: format words that differ in a quarter, a format word that fails a check, a row block above 15 and a Valid above the step's length trap, in the
lowest quarter that fails, each check over all quarters before the next (the order among quarters is log 30); so does BStep 255 of MMQS. The last clause is about steps without
parameters. -/
def Sys2Proof.Claims.MatrixChecksPart : Prop :=
  ∀ i s t x b a v j, step? i = some (b, a, v, j) → Runs i s t x → Owned s x [x.core] → ∀ l ∈ x.active, l = leadOf x l →
    let w := x.rd 0 v 1 l
    let d := x.rd 0 v 0 l
    let first := fun (bad : Nat → Prop) => bad l ∧ ∀ m ∈ x.active, m / 8 < l / 8 → ¬ bad m
    let votes := fun n => x.rd 0 v 1 n ≠ x.rd 0 v 1 (leadOf x n) ∨ fmtCheck (x.rd 0 v 1 n) ≠ 0
    (∀ k ∈ x.active, k / 8 = l / 8 → x.rd 0 v 1 k ≠ w → (∀ m ∈ x.active, m < k → m / 8 = l / 8 → x.rd 0 v 1 m = w) →
      (∀ m ∈ x.active, m / 8 < l / 8 → ¬ votes m) → Traps i s t x
        { cause := 6#8, lane := mod32 l, info0 := mod32 (l / 8 : Nat), info1 := w, info2 := mod32 k, info3 := x.rd 0 v 1 k }) ∧
    ((∀ k ∈ x.active, k / 8 = l / 8 → x.rd 0 v 1 k = w) → first (fun n => votes n) → Traps i s t x
      { cause := 7#8, sub := BitVec.ofNat 4 (fmtCheck w), info0 := mod32 (l / 8 : Nat), info1 := w }) ∧
    (Agreed x v → (∀ m ∈ x.active, spanOf (x.rd 0 v 1 m) = 16) →
      let bad := fun n =>
        let d := x.rd 0 v 0 (leadOf x n)
        2 ^ 25 ≤ d.toNat ∨ 15 < b.toNat + n / 8 ∨ stepLength j.isSome (x.rd 0 v 1 n) < d.toNat / 2 ^ 16 % 2 ^ 8 ∨
          j.isSome = true ∧ d.toNat % 2 ^ 8 = 255
      first bad → Traps i s t x
        (if 2 ^ 25 ≤ d.toNat then matrixReport 1#4 (mod32 (l / 8 : Nat)) d.toNat
         else if 15 < b.toNat + l / 8 then matrixReport 2#4 (mod32 (l / 8 : Nat)) (b.toNat + l / 8)
         else matrixReport 3#4 (mod32 (l / 8 : Nat)) d.toNat))

/-- What matrix instructions need. -/
def Obligations.MatrixChecks : Prop := Sys2Proof.Claims.MatrixOwnership ∧ Sys2Proof.Claims.MatrixChecksPart

/-- R229, R234, R236 to R238: MXZERO, MXWRITE, MXSMAX, MXRESCALE and MXSUM enter the queue: MXZERO at team level, the others with one operation for each quarter that issues, on its lanes' rows; the registers that
MXSMAX and MXSUM will write are waited for. MXZERO with e below b traps with subcode 2. -/
def Sys2Proof.Claims.ArrayQueueing : Prop :=
  (∀ b e s t x, Runs (.mxzero b e) s t x → Owned s x [x.core] → x.active ≠ [] →
    (b.toNat ≤ e.toNat → Queues (.mxzero b e) s t x [.zero b.toNat e.toNat] []) ∧
    (e.toNat < b.toNat → Traps (.mxzero b e) s t x (matrixReport 2#4 0xFFFFFFFF#32 (b.toNat + 256 * e.toNat)))) ∧
  (∀ b a v s t x, Runs (.mxwrite b a v) s t x → Owned s x [x.core] → x.active ≠ [] → Agreed x v →
    let start := fun l => (x.rd 0 v 0 (leadOf x l)).toNat
    let whole := fun l => let w := x.rd 0 v 1 l
      5 ≤ w.toNat % 16 ∧ 5 ≤ w.toNat / 16 % 16 ∧ w.toNat / 2 ^ 12 % 4 = 0
    (∀ l ∈ x.active, b.toNat + l / 8 ≤ 15 ∧ start l % 4 = 0 ∧ start l + 4 ≤ 160) →
    Queues (.mxwrite b a v) s t x ((quartersOf x).map fun q => .write (q.flatMap fun l => (List.range 4).map fun k =>
      (160 * rowOf b l + (start l + k), if whole l then (x.rd 0 a k l).signExtend 56 else toAcc (x.rd 0 a k l).toNat))) []) ∧
  (∀ d b v s t x, Runs (.mxsmax d b v) s t x → Owned s x [x.core] → x.active ≠ [] →
    let n := fun l => (x.rd 0 v 1 (leadOf x l)).toNat
    let reg := (x.regNo d 0).getD 511
    (∀ l ∈ x.active, b.toNat + l / 8 ≤ 15 ∧ 1 ≤ n l ∧ n l ≤ 160) →
    Queues (.mxsmax d b v) s t x ((quartersOf x).map fun q =>
      .smax (q.map fun l => (rowOf b l, l)) (x.rd 0 v 0 (q.headD 0)) (n (q.headD 0)) reg) [reg]) ∧
  (∀ b v s t x, Runs (.mxrescale b v) s t x → Owned s x [x.core] → x.active ≠ [] → (∀ l ∈ x.active, b.toNat + l / 8 ≤ 15) →
    Queues (.mxrescale b v) s t x ((quartersOf x).map fun q => .rescale (q.map fun l => (rowOf b l, x.rd 0 v 0 l))) []) ∧
  ∀ d b s t x, Runs (.mxsum d b) s t x → Owned s x [x.core] → x.active ≠ [] → (∀ l ∈ x.active, b.toNat + l / 8 ≤ 15) →
    let reg := (x.regNo d 0).getD 511
    Queues (.mxsum d b) s t x ((quartersOf x).map fun q => .sum (q.map fun l => (rowOf b l, l)) reg) [reg, reg + 1]

/-- R231, R235: MXREAD returns the columns from its start on, converted and packed; with nothing in the queue the elements are those of the accumulators, otherwise each is one of the values
that R231 allows (log 23), and what it has fixed of the words and bytes that an operation reads is fixed for the pass. R233: MXFENCE publishes the team's stores, and every load has returned behind it. -/
def Sys2Proof.Claims.ArrayReading : Prop :=
  (∀ d b v s t x, Runs (.mxread d b v) s t x → Owned s x [x.core] → x.active ≠ [] → Agreed x v →
    let start := fun l => (x.rd 0 v 0 (leadOf x l)).toNat
    let n := fun l => 32 / outBits ((x.rd 0 v 1 l).toNat / 2 ^ 8 % 16)
    (∀ l ∈ x.active, b.toNat + l / 8 ≤ 15 ∧ start l % (4 * n l) = 0 ∧ start l + 4 * n l ≤ 160) →
    ((s.core x.core).queue = [] → Results (.mxread d b v) s t x d 4 fun o l =>
      (List.range (n l)).foldl (fun w k => w ||| BitVec.ofNat 32
        (readOut (stepOf false 0#32 (x.rd 0 v 1 l)) ((s.core x.core).accAt (rowOf b l) (start l + n l * o + k)) * 2 ^ (32 / n l * k))) 0#32) ∧
    ∃ (f : Nat) (u : State) (y : Team) (words : Nat → Nat → Word), (x.issued (.mxread d b v)).Wrote y x.act d 4 words ∧
      (∀ l ∈ x.active, ∀ o < 4, ∃ e : Nat → BitVec 56,
        (∀ k < n l, Seen (s.putTeam t (x.issued (.mxread d b v))) (rowOf b l) (start l + n l * o + k) (s.core x.core).queue (s.core x.core) (e k)) ∧
        words o l = (List.range (n l)).foldl (fun w k => w ||| BitVec.ofNat 32
          (readOut (stepOf false 0#32 (x.rd 0 v 1 l)) (e k) * 2 ^ (32 / n l * k))) 0#32) ∧
      (∀ c, c ≠ x.core → u.core c = s.core c) ∧
      (∃ ops, u.core x.core = { s.core x.core with queue := ops } ∧ ops.map unread = (s.core x.core).queue.map unread ∧
        ∀ (n : Nat) (o o' : ArrayOp), (s.core x.core).queue[n]? = some o → ops[n]? = some o' → ∀ p a, PassRow s o' p a →
          PassRow s o p a ∧ ∀ B, FreeB (s.core x.core) o' p B → FreeB (s.core x.core) o p B) ∧
      exec (.mxread d b v) s = .next ((({ s with fresh := f, cores := u.cores } : State).putTeam t y).retired t x (.mxread d b v))) ∧
  ∀ s t x, Runs .mxfence s t x → Owned s x [x.core] → s.duskStalls x.core t = false →
    exec .mxfence s = .next ((((s.putTeam t (x.issued .mxfence)).publishTeam x.core t).putTeam t
      { x.issued .mxfence with inFlight := [] }).retired t x .mxfence)

/-- The array queue. -/
def Obligations.ArrayQueue : Prop := Sys2Proof.Claims.ArrayQueueing ∧ Sys2Proof.Claims.ArrayReading

/-- R239, R240: SPCMP keeps the four of eight elements that rank highest, in ascending order, and returns their indices; MDLOAD writes a metadata register where every half is well formed, and else
traps with the lowest failing lane and half, writing none; MDREAD returns one. -/
def Obligations.Sparsity : Prop :=
  (∀ d a v s t x c z, Runs (.spcmp d a v) s t x → Owned s x [x.core] → (∀ l ∈ x.active, (x.rd 0 v 0 l).toNat % 16 = c) →
    (c, z) ∈ [(1, 16), (2, 16), (3, 8), (4, 8), (5, 8), (7, 4)] →
    let src := (z + 3) / 4
    let keep := (z + 7) / 8
    a.toNat + src ≤ 112 → d.toNat + keep ≤ 111 → x.ctx.win + a.toNat + src ≤ x.regsN → x.ctx.win + d.toNat + keep < x.regsN →
    Results (.spcmp d a v) s t x d (keep + 1) fun o l =>
      pruned c z (fun k => (x.rd 0 a (z * k / 32) l).toNat / 2 ^ (z * k % 32) % 2 ^ z) o) ∧
  (∀ k a s t x, Runs (.mdload k a) s t x → Owned s x [x.core] →
    let ok := fun l => wellFormedHalf ((x.rd 0 a 0 l).toNat % 2 ^ 16) ∧ wellFormedHalf ((x.rd 0 a 0 l).toNat / 2 ^ 16)
    ((∀ l ∈ x.active, ok l) → ∃ md di, (∀ n l, l < 1024 → tget mdataReset md (n * 1024 + l)
        = if n = k.toNat ∧ x.act l = true then x.rd 0 a 0 l else tget mdataReset x.mdata (n * 1024 + l)) ∧
      (∀ q, q ∈ di ↔ q ∈ x.dirty ∨ ∃ l ∈ x.active, q = 32 * (x.regsN + 20 + k.toNat) + l / 32) ∧
      Makes (.mdload k a) s t x { x.issued (.mdload k a) with mdata := md, dirty := di }) ∧
    ∀ l ∈ x.active, ¬ ok l → (∀ m ∈ x.active, m < l → ok m) → ∃ half : Word,
      (wellFormedHalf ((x.rd 0 a 0 l).toNat % 2 ^ 16) ↔ half = 1#32) ∧ (half = 0#32 ∨ half = 1#32) ∧
      Traps (.mdload k a) s t x
        { cause := 9#8, lane := mod32 l, info0 := mod32 k.toNat, info1 := half, info2 := x.rd 0 a 0 l }) ∧
  ∀ d k s t x, Runs (.mdread d k) s t x → Owned s x [x.core] →
    Results (.mdread d k) s t x d 1 fun _ l => tget mdataReset x.mdata (k.toNat * 1024 + l)

/-- R241: MMC gives one pass to each core of its cluster's rectangle, on rows 8b to 127, with A rows that core row y takes from its place in the space, none of them read yet; one flag covers
them all. -/
def Sys2Proof.Claims.ClusterTiles : Prop :=
  ∀ b a v s t x c, Runs (.mmc b a v) s t x → x.active ≠ [] → aget s.clusters x.cluster = some c →
    ((rectangle c).map (·.2)).Nodup →
    Owned s x ((rectangle c).map (·.2)) →
    let i := Instr.mmc b a v
    let aw := x.rdFirst 0 a
    let stride := (x.rdFirst 0 a 1).toNat
    let d := x.rdFirst 0 v
    let w := x.rdFirst 0 v 1
    let size := if spanOf w = 16 then 64 else 88
    let nr := 8 * (16 - b.toNat)
    let row := fun y k => aw.toNat % 2 ^ 27 + (y * nr + k) * stride
    let limit := if aw.getLsbD 31 then spaceSize s x 0 else 96 * 2 ^ 20
    (∀ l ∈ x.active, x.rd 0 v 1 l = w) → fmtCheck w = 0 → d.toNat < 2 ^ 25 → aw.toNat / 2 ^ 27 % 16 = 0 →
    d.toNat / 2 ^ 16 % 2 ^ 8 ≤ stepLength false w → stride % 8 = 0 → size ≤ stride →
    aw.toNat % 2 ^ 27 + (c.height * nr - 1) * stride + size ≤ limit →
    (∀ y < c.height, ∀ k < nr, ∀ n < size, s.landingLoad (rowsIn x c aw y) (row y k + n) = .clear) →
    (∀ p ∈ rectangle c, ∀ k, readsB false d w k → s.landingLoad (.bst p.2) k = .clear) →
    s.errors = [] →
    ∃ u : State, (∀ p ∈ rectangle c, (u.core p.2) = { s.core p.2 with arriving := (s.core p.2).arriving ++
          [{ op := s.nextId, team := t, pc := x.pcOff.setWidth 32, since := (s.core p.2).blog.length,
             kind := .mmc d w (rowsIn x c aw p.1) (((rectangle c).filter (·.1 == p.1)).map (·.2))
               ((List.range nr).map fun k => (8 * b.toNat + k, row p.1 k, List.replicate size none)) }] }) ∧
      (∀ k, k ∉ (rectangle c).map (·.2) → u.core k = s.core k) ∧
      u = { s with cores := u.cores, nextId := s.nextId + 1 } ∧
      exec i s = .next ((u.putTeam t (attached (x.issued i) (.array s.nextId))).retired t x i)

/-- R229, R241: a step of an array performs the operation at the head of its queue or moves a pass of MMC on, whichever comes first (log 24). The first core of a row reads the A bytes: each once, at
one of these moments, at least a row at a time; those of all rows reach every core of the row; a pass whose rows are there enters the queue. -/
def Sys2Proof.Claims.RowsArrive : Prop :=
  (∀ (s : State) core, (s.core core).movable core ≠ [] ∨ (s.core core).queue ≠ [] →
    ∃ f u, exec (.arrayPass core) s = .next u ∧ let v : State := { s with fresh := f }
      (∃ i ∈ (s.core core).movable core, u = v.arriveMore core i) ∨
      ∃ o rest, (s.core core).queue = o :: rest ∧ u = v.arrayHead core o rest) ∧
  ∀ (s : State) core i o d w src cores rows, (s.core core).arriving[i]? = some o → o.kind = .mmc d w src cores rows →
    let there := fun rs : List (Nat × Nat × List (Option Byte)) => ∀ r ∈ rs, ∀ b ∈ r.2.2, b ≠ none
    (there rows → s.arriveMore core i = s.putCore core { s.core core with
      arriving := (s.core core).arriving.eraseIdx i, queue := (s.core core).queue ++ [o] }) ∧
    (¬ there rows → cores.head? = some core → cores.Nodup → ∃ new : List (Nat × Nat × List (Option Byte)), new.map (fun r => (r.1, r.2.1, r.2.2.length)) = rows.map (fun r => (r.1, r.2.1, r.2.2.length)) ∧
      (∀ (k : Nat) (r r' : Nat × Nat × List (Option Byte)), rows[k]? = some r → new[k]? = some r' → ∀ (n : Nat) (b : Byte), (r'.2.2.getD n none = some b →
          r.2.2.getD n none = some b ∨ r.2.2.getD n none = none ∧ b = s.aByte src (r.2.1 + n)) ∧
        (r.2.2.getD n none = some b → r'.2.2.getD n none = some b)) ∧
      (∃ (k : Nat) (r' : Nat × Nat × List (Option Byte)), new[k]? = some r' ∧ (∃ r : Nat × Nat × List (Option Byte), rows[k]? = some r ∧ none ∈ r.2.2) ∧ none ∉ r'.2.2) ∧
      ∀ n, ((s.arriveMore core i).core n).queue = (s.core n).queue ∧ ((s.arriveMore core i).core n).arriving
        = if n = core ∨ there new ∧ n ∈ cores then (s.core n).arriving.map (fun p => if p.op = o.op then { p with kind := .mmc d w src cores new } else p)
          else (s.core n).arriving)

/-- Steps of matrix products, on a core and across a cluster. -/
def Obligations.MatrixTiles : Prop :=
  Sys2Proof.Claims.MatrixSteps ∧
  Sys2Proof.Claims.ClusterTiles ∧
  Sys2Proof.Claims.RowsArrive

/-- R229: the operation at the head of a core's queue is performed and leaves the queue; its instruction is complete, for every flag and register that waits for it, once no queue holds an operation of it. R234,
R236, R238: MXZERO clears rows 8b to 8e + 7 and their side registers; MXWRITE sets its elements; MXRESCALE multiplies its rows; MXSUM writes L and M in its rows' lanes. -/
def Sys2Proof.Claims.ArrayOperations : Prop :=
  ∀ (s : State) core o rest, (s.core core).queue = o :: rest → (s.core core).arriving = [] → (.array core) ∉ s.errors →
    let k := s.core core
    let done := fun (s : State) (k : Core) (f : Team → Team) =>
      let u := s.putCore core { k with queue := rest, blog := if rest = [] then [] else k.blog }
      let u := match aget s.teams o.team with
        | some x => u.putTeam o.team (f x)
        | none => u
      if ∃ c ∈ u.cores, ∃ p ∈ c.2.queue ++ c.2.arriving, p.op = o.op then u else
        let u := match aget u.teams o.team with
          | some x => u.putTeam o.team (unwatched o.op x)
          | none => u
        { u with teams := u.teams.map fun p => (p.1, { p.2 with
            ops := p.2.ops.filter fun q => q.ref ≠ .array o.op, pendRegs := p.2.pendRegs.filter fun q => q.ref ≠ .array o.op }) }
    (∀ b e, o.kind = .zero b e → ∃ k' : Core,
      (∀ r c, c < 160 → k'.accAt r c = if 8 * b ≤ r ∧ r < 8 * e + 8 then 0#56 else k.accAt r c) ∧
      (∀ r, k'.maxAt r = if 8 * b ≤ r ∧ r < 8 * e + 8 then 0xFF800000#32 else k.maxAt r) ∧
      (∀ r, k'.sumAt r = if 8 * b ≤ r ∧ r < 8 * e + 8 then 0#32 else k.sumAt r) ∧
      k' = { k with acc := k'.acc, rowMax := k'.rowMax, rowSum := k'.rowSum } ∧
      exec (.arrayPass core) s = .next (done s k' id)) ∧
    (∀ cells, o.kind = .write cells → (cells.map (·.1)).Nodup → ∃ acc : Table 56,
      (∀ p ∈ cells, tget zeros acc p.1 = p.2) ∧ (∀ n, n ∉ cells.map (·.1) → tget zeros acc n = tget zeros k.acc n) ∧
      exec (.arrayPass core) s = .next (done s { k with acc := acc } id)) ∧
    (∀ rows, o.kind = .rescale rows → (rows.map (·.1)).Nodup → ∃ k' : Core,
      (∀ p ∈ rows, ∀ c, c < 160 → k'.accAt p.1 c = BitVec.ofNat 56 (accMul .e11m44 (k.accAt p.1 c).toNat p.2.toNat)) ∧
      (∀ r c, c < 160 → r ∉ rows.map (·.1) → k'.accAt r c = k.accAt r c) ∧ k' = { k with acc := k'.acc } ∧
      exec (.arrayPass core) s = .next (done s k' id)) ∧
    ∀ rows reg, o.kind = .sum rows reg → (∀ p ∈ rows, p.2 < 1024) → (rows.map (·.2)).Nodup → ∃ g : Team → Team,
      (∀ x, (∀ p ∈ rows, (reg < 264 → numbered (g x) reg p.2 = k.sumAt p.1) ∧ (reg + 1 < 264 → numbered (g x) (reg + 1) p.2 = k.maxAt p.1)) ∧
        (∀ r l, r < 264 → l < 1024 → r ≠ reg ∧ r ≠ reg + 1 ∨ l ∉ rows.map (·.2) → numbered (g x) r l = numbered x r l) ∧
        g x = { x with regs := (g x).regs, ofile := (g x).ofile, dirty := (g x).dirty, spanLog := (g x).spanLog }) ∧
      exec (.arrayPass core) s = .next (done s k g)

/-- R70, R71, R72, R78, R79, R222 to R224, R228, R230, R232, R241: a pass of MMQ, MMQS or MMC at the head of a core's queue: with A words of each row that R230 allows, and B bytes that R232 allows, the same for
every row, each element of its rows becomes what its blocks make of it; no other element, no side register and no byte of the B store changes. -/
def Sys2Proof.Claims.MatrixPasses : Prop :=
  ∀ (s : State) core o rest d w sparse, (s.core core).queue = o :: rest → (s.core core).arriving = [] → (.array core) ∉ s.errors → fmtCheck w = 0 →
    let k := s.core core
    let landed := FreeB k o (stepOf sparse d w)
    let frame := fun (u : State) (rows : List Nat) => (u.core core).queue = rest ∧ (∀ n c, c < 160 → n ∉ rows → (u.core core).accAt n c = k.accAt n c) ∧
      (u.core core).rowMax = k.rowMax ∧ (u.core core).rowSum = k.rowSum ∧ (u.core core).bst = k.bst ∧ ∀ n, n ≠ core → u.core n = s.core n
    (∀ base rows log, o.kind = .mm d w base sparse rows log → (rows.map (·.row)).Nodup →
      ∃ u B, exec (.arrayPass core) s = .next u ∧ frame u (rows.map (·.row)) ∧ landed B ∧ ∀ r ∈ rows, ∃ ws : List Word, FreeWords s o.team base log r ws ∧
        ∀ c < 160, Accumulates d w sparse (fun n => (ws.getD (n / 4) 0#32).extractLsb' (8 * (n % 4)) 8) r.mdata B c (k.accAt r.row c) ((u.core core).accAt r.row c)) ∧
    ∀ src cores rows, o.kind = .mmc d w src cores rows → sparse = false → (rows.map (·.1)).Nodup →
      ∃ u B, exec (.arrayPass core) s = .next u ∧ frame u (rows.map (·.1)) ∧ landed B ∧ ∀ r ∈ rows, ∀ c < 160,
        Accumulates d w false (fun n => (r.2.2.getD n none).getD 0#8) [] B c (k.accAt r.1 c) ((u.core core).accAt r.1 c)

/-- R217, R237: MXSMAX on rows of a core: in each of them M becomes the maximum of M and the scaled scores, L is rescaled and takes the probabilities, the factor goes to the register of the row's lane,
columns behind n become +0. -/
def Sys2Proof.Claims.SoftmaxOperation : Prop :=
  ∀ (s : State) core op team pc since rows c n reg rest x,
    (s.core core).queue = { op := op, team := team, pc := pc, kind := .smax rows c n reg, since := since } :: rest → (s.core core).arriving = [] →
    (.array core) ∉ s.errors → aget s.teams team = some x → n ≤ 160 → (rows.map (·.1)).Nodup → (rows.map (·.2)).Nodup → (∀ p ∈ rows, p.2 < 1024) →
    let k := s.core core
    let f := FFmt.f32
    let score := fun row j => accMul f (k.accAt row j).toNat c.toNat
    let top := fun row => (List.range n).foldl (fun m j => f.minNumB false true m (score row j)) (k.maxAt row).toNat
    let p := fun row j => fexp2B false (mod32 (f.subB .rne false (score row j) (top row) : Nat))
    let factor := fun row => if sameValue (top row) (k.maxAt row).toNat then 0x3F800000
      else fexp2B false (mod32 (f.subB .rne false (k.maxAt row).toNat (top row) : Nat))
    ∃ u : State, exec (.arrayPass core) s = .next u ∧
      (∀ q ∈ rows, (∀ j < 160, (u.core core).accAt q.1 j = if j < n then toAcc (p q.1 j) else 0#56) ∧
        (u.core core).maxAt q.1 = mod32 (top q.1) ∧
        (u.core core).sumAt q.1 = mod32 ((List.range n).foldl (fun l j => f.addB .rne false l (p q.1 j))
          (f.mulB .rne false (k.sumAt q.1).toNat (factor q.1)) : Nat)) ∧
      (∃ y, aget u.teams team = some y ∧ (reg < 264 → ∀ q ∈ rows, numbered y reg q.2 = mod32 (factor q.1)) ∧
        ∀ r l, r < 264 → l < 1024 → ¬ (r = reg ∧ l ∈ rows.map (·.2)) → numbered y r l = numbered x r l) ∧
      ∀ r, r ∉ rows.map (·.1) → (∀ j < 160, (u.core core).accAt r j = k.accAt r j) ∧ (u.core core).maxAt r = k.maxAt r ∧ (u.core core).sumAt r = k.sumAt r

/-- What array operations leave. -/
def Obligations.ArrayResults : Prop :=
  Sys2Proof.Claims.ArrayOperations ∧
  Sys2Proof.Claims.MatrixPasses ∧
  Sys2Proof.Claims.SoftmaxOperation

/-! Streams. -/

namespace Sys2Proof.Claims

open Sys2Proof.Machine

/-- Lane l of the team at work on stream n, on the level that a reference names (R250, R251). -/
def place (i : Instr) (s : State) (t : Nat) (x : Team) (l n ref : Nat) : At :=
  At.mk (s.putTeam t (x.issued i)) (x.issued i) l n ref

/-- Word k of an array can be read, and is v (R251). -/
abbrev Holds (y : At) (array : Loc) (k v : Nat) : Prop := y.item array k = .ok v

/-- Coordinate k of an array can be read, is v, and is below N (R245). -/
abbrev Coordinate (y : At) (array : Loc) (k n v : Nat) : Prop := Holds y array k v ∧ v < n

/-- A stream at the end of its fibre (R249, R257). -/
def ended (c : Cursor) : Cursor := { c with done := true, pos := c.fin, coord := 2 ^ 32 - 1 }

/-- A stream at a position with a coordinate, or at the end where that position is the fibre's end (R257). -/
def movedTo (c : Cursor) (q v : Nat) : Cursor := if q % 2 ^ 32 = c.fin then ended c else { c with pos := q % 2 ^ 32, coord := v }

/-- The first position of a dense or bitmap fibre (R246). -/
def start (c : Cursor) : Nat := (c.pos + 2 ^ 32 - c.coord) % 2 ^ 32

/-- Bit k of fibre p of a bitmap can be read, and is b (R246). -/
def Bit (y : At) (lv : Level) (p k : Nat) (b : Bool) : Prop :=
  ∃ w, Holds y lv.pos ((lv.n + 31) / 32 * p + k / 32) w ∧ w.testBit (k % 32) = b

/-- The least set bit of fibre p that is at least x, if there is one (R246, R256). -/
def LeastBit (y : At) (lv : Level) (p x : Nat) : Option Nat → Prop
  | some k => x ≤ k ∧ k < lv.n ∧ Bit y lv p k true ∧ ∀ j, x ≤ j → j < k → Bit y lv p j false
  | none => ∀ j, x ≤ j → j < lv.n → Bit y lv p j false

/-- SOPEN on fibre b leaves the stream as c (R256). -/
def Opened (y : At) (b : Nat) (c : Cursor) : Prop :=
  ∃ lv, y.level = .ok lv ∧ b < lv.parents ∧
    let c0 : Cursor := { done := false, level := y.ref % 8, desc := y.ref / 256 % 2 ^ 11, fin := 0, coord := 0, pos := 0 }
    let c1 : Cursor := { c0 with fin := (b * lv.n + lv.n) % 2 ^ 32 }
    match lv.kind with
    | 0 => b * lv.n + lv.n ≤ 2 ^ 32 ∧ c = { c1 with pos := b * lv.n }
    | 1 => ∃ p q, Holds y lv.pos b p ∧ Holds y lv.pos (b + 1) q ∧ p ≤ q ∧
      let c2 : Cursor := { c0 with fin := q }
      (p = q → c = ended c2) ∧ (p ≠ q → ∃ v, Coordinate y lv.crd p lv.n v ∧ c = { c2 with pos := p, coord := v })
    | 2 => b * lv.n + lv.n ≤ 2 ^ 32 ∧ ∃ k, LeastBit y lv b 0 k ∧ c = match k with
      | some k => { c1 with pos := b * lv.n + k, coord := k }
      | none => ended c1
    | _ => ∃ v, Coordinate y lv.crd b lv.n v ∧ c = { c0 with pos := b, fin := (b + 1) % 2 ^ 32, coord := v }

/-- One step on leads from c to c' (R248, R257). -/
def Stepped (y : At) (c c' : Cursor) : Prop :=
  c.done = true ∧ c' = c ∨ c.done = false ∧ ∃ lv, y.level = .ok lv ∧
    match lv.kind with
    | 0 => c' = movedTo c (c.pos + 1) (c.coord + 1)
    | 1 => (c.fin ≤ c.pos + 1 → c' = ended c) ∧ (c.pos + 1 < c.fin → ∃ v, Coordinate y lv.crd (c.pos + 1) lv.n v ∧
        (lv.morton = false → c.coord < v) ∧
        (lv.morton = true → ∃ w u, Coordinate y lv.crd3 (c.pos + 1) lv.n3 w ∧ Holds y lv.crd3 c.pos u ∧
          mortonKey c.coord u < mortonKey v w) ∧
        c' = movedTo c (c.pos + 1) v)
    | 2 => ∃ k, LeastBit y lv (start c / lv.n) (c.coord + 1) k ∧ c' = match k with
      | some k => { c with pos := (start c + k) % 2 ^ 32, coord := k }
      | none => ended c
    | _ => c' = ended c

/-- A skip to the first coordinate at least x leads from c to c' (R258), on a C level whose coordinates ascend from the stream's position on. -/
def Skipped (y : At) (x : Nat) (c c' : Cursor) : Prop :=
  c.done = true ∧ c' = c ∨ c.done = false ∧ ∃ lv, y.level = .ok lv ∧ lv.morton = false ∧
    (x ≤ c.coord ∧ c' = c ∨ c.coord < x ∧
      match lv.kind with
      | 0 => c' = if x < lv.n then { c with pos := (start c + x) % 2 ^ 32, coord := x } else ended c
      | 1 => ∃ v : Nat → Nat, v c.pos = c.coord ∧ (∀ q, c.pos < q → q < c.fin → Coordinate y lv.crd q lv.n (v q)) ∧
        (∀ p q, c.pos ≤ p → p < q → q < c.fin → v p < v q) ∧
        ((∀ q, c.pos ≤ q → q < c.fin → v q < x) ∧ c' = ended c ∨
          ∃ q, c.pos < q ∧ q < c.fin ∧ x ≤ v q ∧ (∀ p, c.pos ≤ p → p < q → v p < x) ∧ c' = { c with pos := q, coord := v q })
      | 2 => ∃ k, LeastBit y lv (start c / lv.n) x k ∧ c' = match k with
        | some k => { c with pos := (start c + k) % 2 ^ 32, coord := k }
        | none => ended c
      | _ => c' = ended c)

/-- SISECT's search (R259) leads two streams, in some number of skips, to where one is done or their coordinates are equal. -/
def Met (y : At) (m n : Nat) : Nat → Cursor → Cursor → Cursor → Cursor → Prop
  | 0, a, b, p, q => (a.done = true ∨ b.done = true ∨ a.coord = b.coord) ∧ p = a ∧ q = b
  | k + 1, a, b, p, q => a.done = false ∧ b.done = false ∧
    (a.coord < b.coord ∧ (∃ c, Skipped (y.on m a) b.coord a c ∧ Met y m n k c b p q) ∨
      b.coord < a.coord ∧ ∃ c, Skipped (y.on n b) a.coord b c ∧ Met y m n k a c p q)

/-- A stream that is done, or stands on a level without Morton order (R248). -/
def Plain (y : At) (c : Cursor) : Prop := c.done = false → ∃ lv, y.level = .ok lv ∧ lv.morton = false

/-- One step on, or none. -/
def MaybeStepped (on : Bool) (y : At) (c c' : Cursor) : Prop := if on then Stepped y c c' else c' = c

/-- Stream n holds what f gives in the active lanes, every other stream and lane is unchanged (R249), and the planes written are noted (R356). -/
def Streamed (x : Team) (st : Table 128) (di : List Nat) (f : Nat → Nat → Option Cursor) : Prop :=
  (∀ q, q ∈ di ↔ q ∈ x.dirty ∨ ∃ n, ∃ l ∈ x.active, (f n l).isSome = true ∧ q = 32 * (x.regsN + 12 + n) + l / 32) ∧
  ∀ n l, l < 1024 → tget streamDefault st (n * 1024 + l) = match f n l with
    | some c => if x.act l then c.word else x.stream n l
    | none => x.stream n l

/-- Executing i leaves the team as y, and what differs else is how many free values have been taken (log 3). -/
def MakesFreely (i : Instr) (s : State) (t : Nat) (x y : Team) : Prop :=
  ∃ f, exec i s = .next ((({ s with fresh := f } : State).putTeam t y).retired t x i)

/-- The stream trap in a lane (R254, R343). -/
def streamReport (sub : BitVec 4) (l n ref : Nat) : Report :=
  { cause := 10#8, sub := sub, lane := mod32 l, info0 := mod32 n, info1 := mod32 ref }

end Sys2Proof.Claims

/-- R248, R249, R256 to R258, R260: SOPEN, SNEXT and SSKIP leave each active lane's stream at the first entry of its fibre, one entry on, or at the first coordinate that is at least x; SCRD and SPOS return coordinate and
position. A parent position that is not below Parents traps with subcode 2. -/
def Sys2Proof.Claims.StreamsPart : Prop :=
  (∀ sx a b s t x (c : Nat → Cursor), Runs (.sopen sx a b) s t x →
    (∀ l ∈ x.active, Opened (place (.sopen sx a b) s t x l sx.toNat (x.rd 0 a 0 l).toNat) (x.rd (litCount [a]) b 0 l).toNat (c l)) →
    ∃ st di, Streamed x st di (fun n l => if n = sx.toNat then some (c l) else none) ∧
      MakesFreely (.sopen sx a b) s t x { x.issued (.sopen sx a b) with streams := st, dirty := di }) ∧
  (∀ sx a b s t x l lv, Runs (.sopen sx a b) s t x → x.active = [l] →
    let y := place (.sopen sx a b) s t x l sx.toNat (x.rd 0 a 0 l).toNat
    y.level = .ok lv → lv.parents ≤ (x.rd (litCount [a]) b 0 l).toNat →
    Traps (.sopen sx a b) s t x (streamReport 2#4 l sx.toNat y.ref)) ∧
  (∀ sx s t x (c : Nat → Cursor), Runs (.snext sx) s t x →
    (∀ l ∈ x.active, let c0 := x.cursor sx.toNat l
      Stepped (place (.snext sx) s t x l sx.toNat c0.ref) c0 (c l)) →
    ∃ st di, Streamed x st di (fun n l => if n = sx.toNat then some (c l) else none) ∧
      MakesFreely (.snext sx) s t x { x.issued (.snext sx) with streams := st, dirty := di }) ∧
  (∀ sx b s t x (c : Nat → Cursor), Runs (.sskip sx b) s t x →
    (∀ l ∈ x.active, let c0 := x.cursor sx.toNat l
      Skipped (place (.sskip sx b) s t x l sx.toNat c0.ref) (x.rd 0 b 0 l).toNat c0 (c l)) →
    ∃ st di, Streamed x st di (fun n l => if n = sx.toNat then some (c l) else none) ∧
      MakesFreely (.sskip sx b) s t x { x.issued (.sskip sx b) with streams := st, dirty := di }) ∧
  (∀ d sx s t x, Runs (.scrd d sx) s t x → x.active ≠ [] →
    Results (.scrd d sx) s t x d 1 fun _ l => (x.stream sx.toNat l).extractLsb' 32 32) ∧
  (∀ d sx s t x, Runs (.spos d sx) s t x → x.active ≠ [] →
    Results (.spos d sx) s t x d 1 fun _ l => (x.stream sx.toNat l).extractLsb' 0 32) ∧
  ∀ i d sx s t x, (i = .scrd d sx ∨ i = .spos d sx) → Runs i s t x → x.active = [] → Makes i s t x (x.issued i)

/-- R248, R259, R261: SISECT steps both streams when its destination is not 0, and skips the one that is behind until they agree or one is done; SUNION steps those that its destination names and says which stand at the lesser coordinate;
PARTN finds the first row whose pointer is at least part k's share of the entries. -/
def Obligations.StreamPairs : Prop :=
  (∀ d a b s t x (p q p' q' : Nat → Cursor) (k : Nat → Nat), Runs (.sisect d a b) s t x →
    let i := Instr.sisect d a b
    (x.active = [] → Makes i s t x (x.issued i)) ∧ (x.active ≠ [] →
    (∀ l ∈ x.active,
      let u := x.cursor a.toNat l
      let v := x.cursor b.toNat l
      let on := decide (x.rd 0 d 0 l ≠ 0#32)
      Plain (place i s t x l a.toNat u.ref) u ∧ Plain (place i s t x l b.toNat v.ref) v ∧
      MaybeStepped on (place i s t x l a.toNat u.ref) u (p' l) ∧ MaybeStepped on (place i s t x l b.toNat v.ref) v (q' l) ∧
      k l ≤ (p' l).left + (q' l).left ∧ Met (place i s t x l 0 0) a.toNat b.toNat (k l) (p' l) (q' l) (p l) (q l)) →
    ∃ st di y, Streamed x st di (fun n l => if n = b.toNat then some (q l) else if n = a.toNat then some (p l) else none) ∧
      ({ x.issued i with streams := st, dirty := di } : Team).Wrote y x.act d 1 (fun _ l => truth (!(p l).done && !(q l).done)) ∧
      MakesFreely i s t x y)) ∧
  (∀ d a b s t x (p q : Nat → Cursor), Runs (.sunion d a b) s t x →
    let i := Instr.sunion d a b
    (x.active = [] → Makes i s t x (x.issued i)) ∧ (x.active ≠ [] →
    (∀ l ∈ x.active,
      let u := x.cursor a.toNat l
      let v := x.cursor b.toNat l
      Plain (place i s t x l a.toNat u.ref) u ∧ Plain (place i s t x l b.toNat v.ref) v ∧
      MaybeStepped ((x.rd 0 d 0 l).getLsbD 0) (place i s t x l a.toNat u.ref) u (p l) ∧
      MaybeStepped ((x.rd 0 d 0 l).getLsbD 1) (place i s t x l b.toNat v.ref) v (q l)) →
    ∃ st di y, Streamed x st di (fun n l => if n = b.toNat then some (q l) else if n = a.toNat then some (p l) else none) ∧
      ({ x.issued i with streams := st, dirty := di } : Team).Wrote y x.act d 1 (fun _ l =>
        if (p l).done ∧ (q l).done then 0#32
        else (if (p l).coord ≤ (q l).coord then 1#32 else 0#32) + (if (q l).coord ≤ (p l).coord then 2#32 else 0#32)) ∧
      MakesFreely i s t x y)) ∧
  ∀ d a b s t x (r : Nat → Nat), Runs (.partn d a b) s t x →
    let i := Instr.partn d a b
    (x.active = [] → Makes i s t x (x.issued i)) ∧ (x.active ≠ [] →
    (∀ l ∈ x.active,
      let y := place i s t x l 8 (x.rd 0 a 0 l).toNat
      let k := (x.rd (litCount [a]) b 0 l).toNat
      let n := (x.rd (litCount [a]) b 1 l).toNat
      ∃ lv, y.level = .ok lv ∧ lv.kind = 1 ∧ lv.morton = false ∧
        (k = 0 → r l = 0) ∧ (k ≠ 0 → n ≤ k → r l = lv.parents) ∧
        (k ≠ 0 → k < n → ∃ v : Nat → Nat, (∀ j ≤ lv.parents, Holds y lv.pos j (v j)) ∧ (∀ j, j < lv.parents → v j ≤ v (j + 1)) ∧
          r l ≤ lv.parents ∧ v 0 + k * (v lv.parents - v 0) / n ≤ v (r l) ∧
          ∀ j, j < r l → v j < v 0 + k * (v lv.parents - v 0) / n)) →
    ∃ y, (x.issued i).Wrote y x.act d 1 (fun _ l => mod32 (r l)) ∧ MakesFreely i s t x y)

/-- R251, R253: an array word of main memory is read from the core's stream buffer; a stream instruction that misses a segment waits for it, with nothing done; the fill puts the segment there as main memory reads then, or meets a fault,
and the team waits for the host. -/
def Sys2Proof.Claims.StreamSegments : Prop :=
  (∀ (y : At) va g, (y.st.core y.team.core).seg? (y.st.rootOf y.team.launch) (va / 256) = some g → va % 4 = 0 →
    g.data.length = 256 → va < 2 ^ 52 → va / 128 % 2 ∉ g.bad →
    y.word ⟨.main, va⟩ = .ok (((List.range 4).map fun n => (g.data.getD (va % 256 + n) 0#8).toNat * 256 ^ n).sum)) ∧
  (∀ sx s t x l lv, Runs (.snext sx) s t x → x.active = [l] →
    let c := x.cursor sx.toNat l
    let y := place (.snext sx) s t x l sx.toNat c.ref
    let va := lv.crd.addr + 4 * (c.pos + 1)
    c.done = false → y.level = .ok lv → lv.kind = 1 → lv.crd.dest = .main → c.pos + 1 < c.fin →
    (s.core x.core).seg? (s.rootOf x.launch) (va / 256) = none → x.deniedAt va = false →
    (∀ f, s.xlate (s.rootOf x.launch) va .read ≠ .fault f) →
    exec (.snext sx) s = .next ((s.putTeam t (x.issued (.snext sx))).park t (.segment [va / 256]))) ∧
  ∀ (s : State) t x segs, aget s.teams t = some x → s.resident t x = true → x.park = some (.segment segs) →
    (∀ k va, (segs.findSome? fun n => s.faultIn (s.rootOf x.launch) (256 * n) 256 .read) = some (k, va) → x.deniedAt va = false →
      exec (.streamSegmentFill t) s
        = .next ((s.raiseFault (x.core / 64) x.launch (.team t) k va).putTeam t { x with park := some .fault })) ∧
    ((∀ n ∈ segs, s.faultIn (s.rootOf x.launch) (256 * n) 256 .read = none) → ∃ u, exec (.streamSegmentFill t) s = .next u ∧ aget u.teams t = some { x with park := none } ∧
      (∀ n ∈ segs, (s.core x.core).seg? (s.rootOf x.launch) n = none → ∃ g,
        (u.core x.core).seg? (s.rootOf x.launch) n = some g ∧ g.data = u.vaBytes (s.rootOf x.launch) .read (256 * n) 256) ∧
      u = { s with cores := u.cores, teams := u.teams, tlb := u.tlb, fresh := u.fresh })

/-- Streams and their segments. -/
def Obligations.Streams : Prop := Sys2Proof.Claims.StreamsPart ∧ Sys2Proof.Claims.StreamSegments

/-! Graphs and waves. -/

namespace Sys2Proof.Claims

open Sys2Proof.Machine

/-- The operation of a wave instruction, its handle destination and its record field (R273). -/
def waveOf : Instr → Option (WaveOp × Field × Field)
  | .mark d a => some (.mark, d, a)
  | .clear d a => some (.clear, d, a)
  | .prop d a => some (.prop, d, a)
  | .propf d a => some (.propf, d, a)
  | .collect d a => some (.collect, d, a)
  | .collectg d a => some (.collectg, d, a)
  | .ncount d a => some (.ncount, d, a)
  | _ => none

/-- The n bytes at an offset of the cluster's shared memory on the team's core, where no landing is in front of them: what has landed there and has not been
rewritten since, else what stands there (R180, R273). -/
def sharedBytes (s : State) (x : Team) (off n : Nat) : List Byte :=
  (List.range n).map fun k => match s.landed (.sh x.cluster x.core) (off + k) with
    | some q => if q.2.1.rewritten.contains (off + k) then s.shByte x.cluster x.core (off + k) else q.2.2
    | none => s.shByte x.cluster x.core (off + k)

/-- No landing holds the bytes that a record instruction reads in shared memory, and none of them is in error (R179, R273, R365). -/
def RecordClear (s : State) (x : Team) (off n : Nat) : Prop :=
  (∀ k < n, s.landingLoad (.sh x.cluster x.core) (off + k) = .clear) ∧ s.shBad x.cluster x.core off n = false

/-- A wave record is there and passes its checks (R273, R276): its bytes, and the place of the graph that it names. -/
def RecordOk (s : State) (x : Team) (op : WaveOp) (off g : Nat) (bs : List Byte) : Prop :=
  off % 64 = 0 ∧ off + 64 ≤ spaceSize s x 0 ∧ RecordClear s x off 64 ∧ bs = sharedBytes s x off 64 ∧
    reservedBad op bs = none ∧ s.graphOf x.launch (word32 bs 0) = some g ∧
    s.waveChecks x (s.graph g) op bs (parseWave op bs) = []

/-- A wave as it is accepted (R274, R277). -/
def acceptedWave (s : State) (x : Team) (op : WaveOp) (place g : Nat) (bs : List Byte) (ranges : List Nat) : Wave :=
  { seqNo := s.waveNo, handle := mod32 (s.waveNo % 2 ^ 26 * 64 + place : Nat), op := op, graph := g, launch := x.launch,
    cluster := x.cluster, core := x.core, wrec := { parseWave op bs with countRef := s.countRefOf x op bs },
    counter := (s.counterLoc x.launch x.cluster x.core (word32 bs 4)).getD .none, incr := word32 bs 8, ranges := ranges }

/-- The wave trap (R276, R343). -/
def waveReport (sub : BitVec 4) (off field : Nat) : Report :=
  { cause := 12#8, sub := sub, info0 := mod32 off, info1 := mod32 field }

/-- Wave place p is the lowest that is free (R270, log 8). -/
def FreePlace (s : State) (p : Nat) : Prop := p < 64 ∧ aget s.waves p = none ∧ ∀ n < p, aget s.waves n ≠ none

/-- The floating format of a slot format code (R264). -/
def slotFloat : Nat → Option FFmt
  | 1 => some .f16
  | 2 => some .bf16
  | 3 => some .f32
  | _ => none

/-- An element of a slot as contributions carry it: a float widened to FP32, an N32 as it is (R286). -/
def carried (c : Nat) (e : Word) : Word :=
  match slotFloat c with
  | some f => pat (f.convert .f32 .rne false false e.toNat)
  | none => e

/-- An element in a slot's format again: one RoundNE (R286). -/
def stored (c : Nat) (e : Word) : Word :=
  match slotFloat c with
  | some f => pat (FFmt.f32.convert f .rne false false e.toNat)
  | none => e

/-- The element that goes along an edge of a weight: copy, multiply, add (R286). -/
def sentAs (c transfer weight : Nat) (e : Word) : Word :=
  let k := FFmt.f16.convert .f32 .rne false false weight
  match slotFloat c, transfer with
  | some _, 1 => pat (FFmt.f32.mulB .rne false (carried c e).toNat k)
  | some _, 2 => pat (FFmt.f32.addB .rne false (carried c e).toNat k)
  | _, _ => carried c e

/-- Two contributions under sum, max, min, or, and, first, into a slot of a format (R286). -/
def joinedBy (combine c : Nat) (a b : Word) : Word :=
  match slotFloat c, combine with
  | some _, 0 => pat (FFmt.f32.addB .rne false a.toNat b.toNat)
  | some _, 1 => pat (FFmt.f32.minNumB false true a.toNat b.toNat)
  | some _, 2 => pat (FFmt.f32.minNumB false false a.toNat b.toNat)
  | none, 0 => mod32 (a.toNat + b.toNat)
  | none, 1 => mod32 (max a.toNat b.toNat)
  | none, 2 => mod32 (min a.toNat b.toNat)
  | none, 3 => bitsOf fun k => a.getLsbD k || b.getLsbD k
  | none, 4 => bitsOf fun k => a.getLsbD k && b.getLsbD k
  | _, _ => a

/-- h + n, n a count, in a slot's format (R286). -/
def countedWord (c n : Nat) (h : Option Word) : Word :=
  match slotFloat c with
  | none => mod32 (min ((h.map (·.toNat)).getD 0 + n) (2 ^ 32 - 1))
  | some _ => stored c (match (h.map fun e => FFmt.f32.decode (carried c e).toNat).getD (.fin false 0 0) with
    | .nan neg fr => pat (FFmt.f32.nanTo .f32 neg fr)
    | v => pat (FFmt.f32.deliver .rne false (v.add false (FVal.ofInt n))))

/-- The vector of m elements that a node's contributions make of what it holds (R286); none where the slot has no vector. -/
def arrived (combine c m : Nat) (got : List (List Word)) (held : Option (List Word)) : List Word :=
  if c = 0 then []
  else if combine = 6 then List.replicate m (countedWord c got.length (held.map (·.headD 0#32)))
  else (List.range m).map fun k =>
    let es := ((held.map fun v => v.map (carried c)).toList ++ got).map fun v => v.getD k 0#32
    stored c (es.tail.foldl (joinedBy combine c) (es.headD 0#32))

/-- The enabled edges of a node, each with the vector that goes along it (R285, R286). -/
def along (r : WaveRec) (c : Nat) (es : List GEdge) (v : List Word) : List Contribution :=
  (es.filter fun e => r.edgeMask.testBit e.kind).map fun e => ⟨e.target, v.map (sentAs c r.transfer e.weight)⟩

/-- A weight that ends a free-mode wave that adds (R288): a NaN, or negative under min, positive under max. -/
def forbiddenWeight (r : WaveRec) (w : Nat) : Prop :=
  r.transfer = 2 ∧ (0x7C00 < w % 2 ^ 15 ∨ w % 2 ^ 15 ≠ 0 ∧ (w.testBit 15 = true ↔ r.combine = 2))

/-- An element of a slot in another slot's format (R284): RoundNE, into N32 saturated. -/
def convertedTo (c d : Nat) (e : Word) : Word :=
  match slotFloat c, slotFloat d with
  | some f, some g => pat (f.convert g .rne false false e.toNat)
  | some f, none => mod32 ((f.decode e.toNat).toRange .rne 0 (2 ^ 32 - 1))
  | none, some g => pat (g.round .rne false (FVal.ofInt e.toNat))
  | none, none => e

end Sys2Proof.Claims

/-- R270, R273, R274, R276, R292: a wave instruction whose record and handle pass the checks, with a place free and room for its landings, publishes the team's stores, and the sequencer accepts the wave, held, under the next number; the handle is the
result and the flag is taken. With no place free it waits. -/
def Sys2Proof.Claims.WaveInstructionsPart : Prop :=
  ∀ i s t x op d a g bs, waveOf i = some (op, d, a) → Runs i s t x →
    (x.active = [] → Makes i s t x (x.issued i)) ∧
    (x.active ≠ [] → RecordOk s x op (x.rdFirst 0 a).toNat g bs →
      let dests := waveDests (s.graph g) op (parseWave op bs)
      (∀ p, FreePlace s p → dests = [] → s.duskStalls x.core t = false →
        let w := acceptedWave s x op p g bs []
        ∃ y, (attached (x.issued i) (.wave w.handle)).Wrote y x.act d 1 (fun _ _ => w.handle) ∧
          exec i s = .next ((({ (s.putTeam t (x.issued i)).publishTeam x.core t with
            waveNo := s.waveNo + 1, waves := aput s.waves p w } : State).putTeam t y).retired t x i)) ∧
      (∀ p, FreePlace s p → dests ≠ [] → s.duskStalls x.core t = false → s.rangesFree (dests.filterMap fun q =>
          (s.resolveAddr x.cluster x.core q.addr).map fun l => unitOf l.dest) = true →
        ∃ (y : Team) (ids : List Nat), ids.length = dests.length ∧
          let w := acceptedWave s x op p g bs ids
          let v := (s.putTeam t (x.issued i)).publishTeam x.core t
          (attached (x.issued i) (.wave w.handle)).Wrote y x.act d 1 (fun _ _ => w.handle) ∧
          ∃ rs next, (∀ k q, dests[k]? = some q → ∃ r, aget rs (ids.getD k 0) = some r ∧ r.owner = .wave p ∧ r.len = q.len ∧
            r.mark = 0 ∧ r.done = false ∧ r.bytes = [] ∧ s.resolveAddr x.cluster x.core q.addr = some ⟨r.dest, r.start⟩) ∧
            (∀ id, id ∉ ids → aget rs id = aget v.ranges id) ∧
            ((∀ q ∈ v.teams, q.2.late = []) → exec i s = .next ((({ v with
              ranges := rs, nextId := next, waveNo := s.waveNo + 1, waves := aput s.waves p w } : State).putTeam t y).retired t x i))) ∧
      ((∀ p < 64, aget s.waves p ≠ none) → ∃ units, exec i s = .next ((s.putTeam t (x.issued i)).park t (.wave units))))

/-- R276: the checks of a wave instruction in front of the graph's: a record that is misaligned or leaves the shared bytes, a reserved field that is not 0, and a handle that names no graph of the launch trap; the first failing check in the order of
subcodes and fields is reported. R279: WAVEQ returns the status of the wave that its handle names, or all ones; reading a failed one of the launch's acknowledges it. -/
def Sys2Proof.Claims.WaveChecks : Prop :=
  (∀ i s t x op d a, waveOf i = some (op, d, a) → Runs i s t x → x.active ≠ [] →
    let off := (x.rdFirst 0 a).toNat
    let bs := sharedBytes s x off 64
    (off % 64 ≠ 0 ∨ spaceSize s x 0 < off + 64 → Traps i s t x (waveReport 1#4 off 0)) ∧
    (off % 64 = 0 → off + 64 ≤ spaceSize s x 0 → RecordClear s x off 64 →
      (∀ f, reservedBad op bs = some f → Traps i s t x (waveReport 1#4 off f)) ∧
      (reservedBad op bs = none → s.graphOf x.launch (word32 bs 0) = none → Traps i s t x (waveReport 2#4 off 0)) ∧
      ∀ g c, reservedBad op bs = none → s.graphOf x.launch (word32 bs 0) = some g →
        c ∈ s.waveChecks x (s.graph g) op bs (parseWave op bs) →
        (∀ e ∈ s.waveChecks x (s.graph g) op bs (parseWave op bs), c.1 < e.1 ∨ c.1 = e.1 ∧ c.2 ≤ e.2) →
        Traps i s t x (waveReport (BitVec.ofNat 4 c.1) off c.2))) ∧
  ∀ d a s t x, Runs (.waveq d a) s t x →
    let h := x.rdFirst 0 a
    (x.active = [] → Makes (.waveq d a) s t x (x.issued (.waveq d a))) ∧
    (x.active ≠ [] →
      ((∀ w, aget s.waves (h.toNat % 64) = some w → w.handle ≠ h) → Results (.waveq d a) s t x d 1 fun _ _ => 0xFFFFFFFF#32) ∧
      ∀ w, aget s.waves (h.toNat % 64) = some w → w.handle = h →
        let state := match w.phase with
          | .held => 0
          | .running => 1
          | .ended => 2
          | .failed => 3
        let status := mod32 (state * 2 ^ 30 + w.err % 16 * 2 ^ 26 + min w.hops 255 * 2 ^ 18 + (if w.limit then 2 ^ 17 else 0) +
          (if w.trunc then 2 ^ 16 else 0) : Nat)
        (w.phase ≠ .failed ∨ w.launch ≠ x.launch → Results (.waveq d a) s t x d 1 fun _ _ => status) ∧
        (w.phase = .failed → w.launch = x.launch →
          let u := (s.putTeam t (x.issued (.waveq d a))).ackWave (h.toNat % 64) w
          ∃ x' y, aget u.teams t = some x' ∧ x'.regs = x.regs ∧ x'.Wrote y x.act d 1 (fun _ _ => status) ∧
            exec (.waveq d a) s = .next ((u.putTeam t y).retired t x (.waveq d a))))

/-- Wave instructions and their checks. -/
def Obligations.WaveInstructions : Prop := Sys2Proof.Claims.WaveInstructionsPart ∧ Sys2Proof.Claims.WaveChecks

/-- R265 to R268, R280, R282: GBIND on an image whose header and partition table pass their checks takes the lowest free place (log 8), with its handle and Z 1, or with none free returns all ones with Z 0; GUNBIND marks the graph, and at once unbinds one without
waves, its generation one more. -/
def Sys2Proof.Claims.GraphBinding : Prop :=
  (∀ d a s t x hd pb, Runs (.gbind d a) s t x →
    (x.active = [] → Makes (.gbind d a) s t x (x.issued (.gbind d a))) ∧
    (x.active ≠ [] →
    let va := (x.rdFirst 0 a 1 ++ x.rdFirst 0 a 0).toNat
    let root := s.rootOf x.launch
    let g := parseGraph x.launch (s.queueOf x.launch) hd
    let z := fun (y : Team) b => ({ y with ctx := { x.ctx with cc := { x.ctx.cc with z := b } } } : Team)
    va % 128 = 0 → s.graphBytes root va 128 = .ok hd → headerChecks hd = [] →
    s.graphBytes root (word64 hd 48).toNat (128 * (nat16 hd 10)) = .ok pb →
    let part := fun j => (pb.drop (128 * j)).take 128
    (∀ j < g.engines, g.partChecks j (part j) = [] ∧
      ∀ q ∈ g.spans j (parsePart (part j)), s.spanCheck root (g.first + j) q = none) →
    (∀ p < 64, (s.graph p).live = false → (∀ n < p, (s.graph n).live = true) →
      let h := mod32 ((s.graph p).gen % 256 * 64 + p : Nat)
      ∃ y, (x.issued (.gbind d a)).Wrote y x.act d 1 (fun _ _ => h) ∧
        exec (.gbind d a) s = .next (((s.putGraph p { g with gen := (s.graph p).gen }).putTeam t (z y true)).retired t x
          (.gbind d a))) ∧
    ((∀ p < 64, (s.graph p).live = true) → ∃ y, (x.issued (.gbind d a)).Wrote y x.act d 1 (fun _ _ => 0xFFFFFFFF#32) ∧
      Makes (.gbind d a) s t x (z y false)))) ∧
  ∀ a s t x, Runs (.gunbind a) s t x →
    (x.active = [] → Makes (.gunbind a) s t x (x.issued (.gunbind a))) ∧
    (x.active ≠ [] →
      (s.graphOf x.launch (x.rdFirst 0 a) = none → Traps (.gunbind a) s t x (waveReport 2#4 0 0)) ∧
      ∀ p, s.graphOf x.launch (x.rdFirst 0 a) = some p →
        let g := s.graph p
        let y := attached (x.issued (.gunbind a)) (.gunbind p g.gen)
        let u := { s with waveNo := s.waveNo + 1 }
        ((∃ w ∈ s.waves, w.2.graph = p) → exec (.gunbind a) s
          = .next (((u.putGraph p { g with unbind := some s.waveNo }).putTeam t y).retired t x (.gunbind a))) ∧
        ((∀ w ∈ s.waves, w.2.graph ≠ p) → exec (.gunbind a) s
          = .next ((((u.putGraph p { gen := (g.gen + 1) % 256 }).putTeam t y).complete (.gunbind p g.gen)).retired t x (.gunbind a))))

/-- R283, R284, R287, R288, R291 to R293: a wave that nothing holds starts. MARK and CLEAR set and clear the slot's presence bit of every node that matches, and MARK with a fill writes the fill value into each element of their vectors, or, in mode 2, the elements of another slot, converted; PROP reads the nodes that hold its source slot as its first
frontier; PROPF reads what the enabled edges of those nodes bring. A wave that an earlier one holds does not start. -/
def Sys2Proof.Claims.WaveStarts : Prop :=
  ∀ (s : State) place w, aget s.waves place = some w → w.phase = .held → w.frozen = false →
    (s.waveHeld w = true → exec (.waveStart place) s = .fault .eventNotEnabled) ∧
    (w.err = 0 → s.waveHeld w = false → s.waveIdle place = true →
      let y := s.eye w
      let g := s.graph w.graph
      let t := w.wrec.slotA
      let going := { w with phase := .running, parked := false, denied := none }
      ∀ node : Nat → GNode,
        ((w.op = .mark ∧ w.wrec.mode < 2 ∨ w.op = .clear) → (∀ n ∈ w.wrec.range g, y.node n = .ok (node n)) →
          let ws := ((w.wrec.range g).filter fun n => w.wrec.admits (node n)).flatMap fun n =>
            y.presWrite n (node n).pres t (decide (w.op = .mark)) ::
              if w.op = .mark ∧ w.wrec.mode = 1 then [y.slotWrite n t (List.replicate (g.slot t).2 w.wrec.fill)] else []
          y.canWrite ws = .ok () →
          exec (.waveStart place) s = .next ((s.graphWrite (s.rootOf w.launch) ws).putWave place going)) ∧
        (w.op = .mark → w.wrec.mode = 2 → (∀ n ∈ w.wrec.range g, y.node n = .ok (node n)) → ∀ vec : Nat → List Word,
          let hits := (w.wrec.range g).filter fun n => w.wrec.admits (node n)
          (∀ n ∈ hits, y.slot n w.wrec.copySlot = .ok (vec n)) →
          let ws := hits.flatMap fun n => [y.presWrite n (node n).pres t true,
            y.slotWrite n t ((vec n).map (convertedTo (g.slot w.wrec.copySlot).1 (g.slot t).1))]
          y.canWrite ws = .ok () →
          exec (.waveStart place) s = .next ((s.graphWrite (s.rootOf w.launch) ws).putWave place going)) ∧
        ((∀ n < g.count, y.node n = .ok (node n)) →
          let holders := (List.range g.count).filter fun n => (node n).holds t
          (w.op = .prop → exec (.waveStart place) s = .next (s.putWave place { going with frontier := holders })) ∧
          (w.op = .propf → ∀ (value : Nat → List Word) (edges : Nat → List GEdge),
              (∀ n ∈ holders, y.slot n t = .ok (value n) ∧ y.edges n = .ok (edges n) ∧
                ∀ e ∈ edges n, w.wrec.edgeMask.testBit e.kind = true → ¬ forbiddenWeight w.wrec e.weight) →
              let sends := holders.flatMap fun n => along w.wrec (g.slot t).1 (edges n) (value n)
              exec (.waveStart place) s = .next (s.putWave place { going with sends := sends }))))

/-- R291 to R293: a wave with landings that nothing holds starts. COLLECT takes the matching nodes that hold its slot, in ascending order, each with its vector where the record asks for it; COLLECTG the sources of the enabled edges into each matching node, in canonical order, with their weights where the
record asks for them, and the offsets of the nodes; NCOUNT the arrival counters of its range, which it clears. What goes beyond the capacity is counted, not landed. -/
def Sys2Proof.Claims.LandingWaveStarts : Prop :=
  ∀ (s : State) place w, aget s.waves place = some w → w.phase = .held → w.frozen = false →
    w.err = 0 → s.waveHeld w = false → s.waveIdle place = true →
    let y := s.eye w
    let g := s.graph w.graph
    let t := w.wrec.slotA
    let going := { w with phase := .running, parked := false, denied := none }
    let span := w.wrec.range g
    ∀ id r, aget s.ranges id = some r →
      (w.op = .ncount → w.ranges = [id] → ∀ count : Nat → Nat, (∀ n ∈ span, y.arrivals n = .ok (count n)) →
        let ws := span.map fun n => y.arrivalWrite n 0
        y.canWrite ws = .ok () →
        exec (.waveStart place) s = .next (((s.graphWrite (s.rootOf w.launch) ws).putWave place
          { going with found := 0, trunc := false }).putRange id
          { r with bytes := span.flatMap fun n => leBytes 4 (count n) })) ∧
      (w.op = .collect → w.ranges = [id] → ∀ (node : Nat → GNode) (vec : Nat → List Word), (∀ n ∈ span, y.node n = .ok (node n)) →
        let hits := span.filter fun n => w.wrec.admits (node n) && (node n).holds t
        let whole : Bool := w.wrec.flag3 && (g.slot t).1 != 0
        (whole = true → ∀ n ∈ hits, y.slot n t = .ok (vec n)) →
        let elems := fun n => (vec n).flatMap fun e => leBytes (fmtBytes (g.slot t).1) e.toNat
        let entry := fun n => leBytes 4 n ++ if whole = true then elems n ++ List.replicate ((4 - (elems n).length % 4) % 4) 0#8 else []
        exec (.waveStart place) s = .next ((s.putWave place
          { going with found := hits.length, trunc := decide (w.wrec.cap < hits.length) }).putRange id
          { r with bytes := ((hits.map entry).take w.wrec.cap).flatten })) ∧
      (w.op = .collectg → ∀ id2 r2, id2 ≠ id → w.ranges = [id, id2] → aget s.ranges id2 = some r2 →
        ∀ (node : Nat → GNode) (edges : Nat → List GEdge), (∀ n, n < g.count ∨ n ∈ span → y.node n = .ok (node n)) →
        let holders := (List.range g.count).filter fun n => (node n).holds t
        (∀ n ∈ holders, y.edges n = .ok (edges n)) →
        let entry := fun (u : Nat) (e : GEdge) => leBytes 4 u ++ if w.wrec.flag3 = true then leBytes 4 e.weight else []
        let into := fun v => if w.wrec.admits (node v) = true then
          holders.flatMap fun u => ((edges u).filter fun e => w.wrec.edgeMask.testBit e.kind && e.target == v).map (entry u) else []
        let all := span.flatMap into
        exec (.waveStart place) s = .next (((s.putWave place
          { going with found := all.length, trunc := decide (w.wrec.cap < all.length) }).putRange id
            { r with bytes := (all.take w.wrec.cap).flatten }).putRange id2
            { r2 with bytes := (List.range (span.length + 1)).flatMap fun k => leBytes 4 ((span.take k).flatMap into).length }))

/-- R285 to R287, R289: a hop of a level-mode wave, under each combine and transfer: each node that an enabled edge of the frontier reaches takes what the contributions, in canonical order, make of what it holds with Acc; its presence bit is set and its arrivals are counted. The nodes that have
changed, without Acc all of them, are the next frontier. All of it is written at one moment. -/
def Sys2Proof.Claims.WaveHops : Prop :=
  ∀ (s : State) place w, aget s.waves place = some w → w.op = .prop → w.phase = .running → w.frozen = false →
    s.waveOver w = false → s.waveIdle place = true → w.wrec.combine ≤ 6 →
    let y := s.eye w
    let g := s.graph w.graph
    let d := w.wrec.slotB
    let src := if w.hops = 0 then w.wrec.slotA else d
    let fmt := (g.slot d).1
    ∀ (value held : Nat → List Word) (edges : Nat → List GEdge) (node : Nat → GNode) (count : Nat → Nat),
      (∀ n ∈ w.frontier, y.slot n src = .ok (value n) ∧ y.edges n = .ok (edges n)) →
      let sent := w.frontier.flatMap fun n => along w.wrec (g.slot src).1 (edges n) (value n)
      ∀ reached : List Nat, reached.Pairwise (· < ·) → (∀ n, n ∈ reached ↔ ∃ p ∈ sent, p.node = n) →
      (∀ n ∈ reached, y.node n = .ok (node n) ∧ y.arrivals n = .ok (count n) ∧ ((node n).holds d = true → y.slot n d = .ok (held n))) →
      let got := fun n => (sent.filter fun p => p.node == n).map (·.elems)
      let kept : Nat → Prop := fun n => w.wrec.acc = true ∧ (node n).holds d = true
      let new := fun n => arrived w.wrec.combine fmt (g.slot d).2 (got n) (if kept n then some (held n) else none)
      let ws := reached.flatMap fun n => [y.presWrite n (node n).pres d true, y.arrivalWrite n (count n + (got n).length)] ++
        if fmt = 0 then [] else [y.slotWrite n d (new n)]
      let next := reached.filter fun n => decide (¬ (kept n ∧ new n = held n))
      y.canWrite ws = .ok () →
      exec (.waveHopCommit place) s = .next ((s.graphWrite (s.rootOf w.launch) ws).putWave place
        { w with hops := w.hops + 1, frontier := next, limit := decide (w.wrec.hops ≤ w.hops + 1 ∧ next ≠ []),
                 parked := false, denied := none })

/-- R285, R286, R288, R289: a delivery of a free-mode wave: the node combines what arrives with what it holds, its arrival is counted, and a node whose value has changed will send again. A node that is to send again sends what it holds now, along each enabled edge under the wave's transfer. -/
def Sys2Proof.Claims.FreeDeliveries : Prop :=
  (∀ (s : State) place w c v, aget s.waves place = some w → w.op = .propf → w.phase = .running → w.frozen = false →
    w.err = 0 → s.waveIdle place = true → w.sends = [⟨c, v⟩] → w.frontier = [] → w.wrec.combine ≤ 6 →
    let y := s.eye w
    let g := s.graph w.graph
    let d := w.wrec.slotB
    let fmt := (g.slot d).1
    ∀ (node : GNode) (count : Nat) (old : List Word), y.node c = .ok node → y.arrivals c = .ok count →
      (node.holds d = true → y.slot c d = .ok old) →
      let new := arrived w.wrec.combine fmt (g.slot d).2 [v] (if node.holds d = true then some old else none)
      let changed : Prop := node.holds d = false ∨ new ≠ old
      let ws := y.arrivalWrite c (count + 1) :: (if changed then y.presWrite c node.pres d true ::
        (if fmt = 0 then [] else [y.slotWrite c d new]) else [])
      y.canWrite ws = .ok () →
      exec (.propfDelivery place) s = .next ((s.graphWrite (s.rootOf w.launch) ws).putWave place
        { w with sends := [], frontier := if changed then [c] else [], parked := false, denied := none })) ∧
  ∀ (s : State) place w u v (es : List GEdge), aget s.waves place = some w → w.op = .propf → w.phase = .running → w.frozen = false →
    w.err = 0 → s.waveIdle place = true → w.sends = [] → w.frontier = [u] →
    (s.eye w).slot u w.wrec.slotB = .ok v → (s.eye w).edges u = .ok es →
    (∀ e ∈ es, w.wrec.edgeMask.testBit e.kind = true → ¬ forbiddenWeight w.wrec e.weight) →
    exec (.propfDelivery place) s = .next (s.putWave place
      { w with sends := along w.wrec ((s.graph w.graph).slot w.wrec.slotB).1 es v, frontier := [], parked := false, denied := none })

/-- R196, R199, R293: the bytes of a wave's landing land in order, a word at a time, and the watermark follows them; they stand in the range until its completion. -/
def Sys2Proof.Claims.WaveLandings : Prop :=
  ∀ (s : State) range q p w, aget s.ranges range = some q → q.owner = .wave p → aget s.waves p = some w → w.phase = .running →
    w.frozen = false → w.err = 0 → s.canLand range q w.launch = true → q.bytes ≠ [] →
    ∀ k n, q.dest = .sh k n → (s.place? k n).isSome = true →
      let bs := q.bytes.take 4
      ∃ u, exec (.copyLanding range) s = .next u ∧
        aget u.ranges range = some { q with
          data := q.data ++ cellsAt (q.start + q.mark) bs, mark := q.mark + bs.length, bytes := q.bytes.drop 4 } ∧
        (∀ a, u.shByte k n a = s.shByte k n a) ∧
        aget u.waves p = some w ∧ u.teams = s.teams ∧ u.mem = s.mem ∧ u.dies = s.dies

/-- What running waves do. -/
def Obligations.WaveProgress : Prop :=
  Sys2Proof.Claims.WaveStarts ∧ Sys2Proof.Claims.LandingWaveStarts ∧ Sys2Proof.Claims.WaveHops ∧ Sys2Proof.Claims.FreeDeliveries ∧
    Sys2Proof.Claims.WaveLandings

/-- R274, R277, R278, R293: a wave without landings that has done its work, or has met an error, ends: its counter gains the increment, or 1 for an increment of 0, its flag completes in every team, and it is retired. A wave with a count reference writes how much it has found there. R21, R271, R294, R358: an
engine that fails twice is retired for its stack's spare with event 5; with the spare in use the channel is lost, and the running waves of every graph that the channel serves end with error 6 (log 40); the standby sequencer takes over with event 6, nothing else changed; a second failure ends the launches that have graphs bound. -/
def Sys2Proof.Claims.WaveEndsAndFailures : Prop :=
  (∀ (s : State) place w, aget s.waves place = some w → s.waveOver w = true → w.ranges = [] → w.wrec.countRef = .none →
    ∃ u, exec (.waveEnd place) s = .next u ∧ aget u.waves place = none ∧
      (∀ p ∈ u.teams, ∀ o ∈ p.2.ops, o.ref ≠ .wave w.handle) ∧
      (w.counter ≠ .none → (∀ k n a, w.counter = .sh k n a → (s.place? k n).isSome = true) →
        (∀ l, aget s.launches w.launch = some l → l.phase = .running) →
        u.counter w.counter = (s.counter w.counter + if w.incr = 0#32 then 1 else w.incr.toNat) % 2 ^ 64)) ∧
  (∀ (s : State) place w k n a, aget s.waves place = some w → s.waveOver w = true → w.ranges = [] → w.wrec.countRef = .sh k n a →
    (s.place? k n).isSome = true → w.counter = .none → (∀ l, aget s.launches w.launch = some l → l.phase = .running) →
    ∃ u, exec (.waveEnd place) s = .next u ∧ u.counter (.sh k n a) = w.found % 2 ^ 64) ∧
  (∀ (s : State) e, e < 384 → exec (.engineResidueMismatch e false) s = .next s ∧
    ((∀ n ∈ s.engines, n / 32 ≠ e / 32 ∧ n ≠ 384 + e / 32) → exec (.engineResidueMismatch e true) s
      = .next ({ s with engines := s.engines ++ [e] }.sendEvent 5 0 0 (mod32 e) 0)) ∧
    (((∃ n ∈ s.engines, n < 384 ∧ n / 32 = e / 32) ∨ 384 + e / 32 ∈ s.engines) →
      ∃ u, exec (.engineResidueMismatch e true) s = .next u ∧ u.channelLost e = true ∧
      (∀ p w, aget s.waves p = some w → w.phase = .running → w.op ≠ .descend → w.err = 0 →
        (s.graph w.graph).first ≤ e → e < (s.graph w.graph).first + (s.graph w.graph).engines →
        aget u.waves p = some { w with err := 6 }) ∧
      u = { s with waves := u.waves, engines := s.engines ++ [e] })) ∧
  (∀ s : State, s.seqUnit = .active → exec .sequencerTakeover s = .next ({ s with seqUnit := .standby }.sendEvent 6 0 0 0#32 0)) ∧
  ∀ s : State, s.seqUnit = .standby → ∃ u, exec .sequencerTakeover s = .next u ∧ u.seqUnit = .lost ∧
    ∀ p g, aget s.graphs p = some g → g.live = true → aget u.launches g.launch = none ∨
      ∀ l, aget u.launches g.launch = some l → l.phase ≠ .running

/-- Graphs, and the end of waves. -/
def Obligations.GraphsAndWaveEnds : Prop := Sys2Proof.Claims.GraphBinding ∧ Sys2Proof.Claims.WaveEndsAndFailures

/-! Walks, side lists, reductions. -/

namespace Sys2Proof.Claims

open Sys2Proof.Machine

/-- A walk instruction: whether it is a descent, its handle destination, its record field (R297). -/
def walkOf : Instr → Option (Bool × Field × Field)
  | .embed d a => some (false, d, a)
  | .descend d a => some (true, d, a)
  | _ => none

/-- A walk as its record gives it: what occupies the slot, its output, the bytes and units of that. p: the wave place of a descent. -/
structure Walk where
  kind  : SlotKind
  out   : BitVec 64
  len   : Nat
  total : Nat

/-- A record passes the checks of R298 and gives this walk (R303, R306). -/
def WalkOk (s : State) (x : Team) (desc : Bool) (bs : List Byte) (p : Nat) (k : Walk) : Prop :=
  if desc then
    let r := parseDescend bs
    (word32 bs 12).toNat < 2 ^ 22 ∧ zeroBytes bs 56 64 = true ∧
      (∃ g, s.graphOf x.launch r.graph = some g ∧ s.descendChecks x (s.graph g) bs r = []) ∧
      k = ⟨.descend r p [], r.results, 8 * r.topk * r.count, r.count⟩
  else
    let r := parseEmbed bs
    s.embedChecks x bs r = [] ∧ k = ⟨.embed r none, r.out, r.bags * r.ob, r.bags⟩

/-- The walk trap of a record or a side list (R298, R343). -/
def walkReport (sub : BitVec 4) (off field : Nat) : Report :=
  { cause := 13#8, sub := sub, info0 := mod32 off, info1 := mod32 field }

/-- A side-list instruction can reach n bytes of main memory for reading and for writing (R312, R361). -/
def Reached (s : State) (x : Team) (va n : Nat) : Prop :=
  let root := s.rootOf x.launch
  s.faultIn root va n .read = none ∧ s.faultIn root va n .write = none ∧
    ∀ v ∈ touched va n, x.deniedAt v = false ∧ s.codePage root v = false

/-- The state with the translations of n bytes cached, for reading and for writing (R363). -/
def reachedState (s : State) (x : Team) (va n : Nat) : State :=
  (s.cache (s.rootOf x.launch) va n .read).cache (s.rootOf x.launch) va n .write

/-- A side-list instruction can write n bytes of main memory (R312, R361). -/
def Written (s : State) (x : Team) (va n : Nat) : Prop :=
  s.faultIn (s.rootOf x.launch) va n .write = none ∧
    ∀ v ∈ touched va n, x.deniedAt v = false ∧ s.codePage (s.rootOf x.launch) v = false

/-- The contributions of a reduction (R317): for each group of 32 lanes, one for each address that its active lanes name, with their values in lane order. -/
def contributionsOf (x : Team) (target : Nat → BitVec 64) (value : Nat → Word) : List (Nat × List Word) :=
  (List.range x.groups).flatMap fun g =>
    let lanes := x.active.filter fun l => l / 32 == g
    (lanes.filter fun l => lanes.all fun m => decide (l ≤ m) || target m != target l).map fun l =>
      ((target l).toNat, (lanes.filter fun m => target m == target l).map value)

/-- Where a contribution goes, and what it is there (R318, R324): a scratchpad word to its slice; a word of main memory at physical address pa to the engine of its channel. -/
def reductionTo (s : State) (root : BitVec 48) (o : ScatOp) (v pa : Nat) : Endpoint × (List Word → PacketKind) :=
  if v / 2 ^ 60 = 3 then
    (sliceEnd (v / 2 ^ 32 % 4) (v % 2 ^ 32), .red o 3 (v / 2 ^ 32 % 4) (v % 2 ^ 32) 0#512 (BitVec.ofNat 64 v))
  else
    (s.engineEnd (32 * (pa / 2 ^ 36 % 16) + pa / 2 ^ 31 % 32), .red o 0 0 pa (s.keyVal (match s.xlate root v .write with
      | .ok e => e.key
      | .fault _ => 0)) (BitVec.ofNat 64 v))

/-- A 32-bit field at a virtual address, as a read of the launch's address space gives it. -/
def field (s : State) (x : Team) (va : Nat) : Nat := leNat (s.vaBytes (s.rootOf x.launch) .read va 4)

/-- The address pair of an instruction's field. -/
def pairAddress (x : Team) (a : Field) : BitVec 64 := x.rdFirst 0 a 1 ++ x.rdFirst 0 a 0

/-- What a descent reads of its graph: its nodes, their edges, and the vectors of those that hold its slot, widened (R308). -/
structure Tree where
  node  : Nat → GNode
  edges : Nat → List GEdge
  vec   : Nat → Option (List Nat)

/-- Targets of a node's edges of a type. -/
def Tree.kids (t : Tree) (kind n : Nat) : List Nat := ((t.edges n).filter fun e => e.kind == kind).map (·.target)

/-- The members that a level of a search chooses from (R308): the leaves of the beam, and behind its inner nodes those children that hold the slot, each once. -/
def Tree.level (t : Tree) (r : DescendRec) (q : List Nat) (beam : List Cand) (c : Cand) : Prop :=
  (c ∈ beam ∧ t.kids r.child c.node = []) ∨
    ((∀ d ∈ beam, d.node = c.node → t.kids r.child d.node ≠ []) ∧
      ∃ u ∈ beam, c.node ∈ t.kids r.child u.node ∧ ∃ x, t.vec c.node = some x ∧ c = ⟨c.node, c.node, distance r.metric q x⟩)

/-- l holds the w least members of a set in ranking order, or all of them. -/
def Least (w : Nat) (among : Cand → Prop) (l : List Cand) : Prop :=
  l.Pairwise (fun a b => a.before b = true) ∧ (∀ c ∈ l, among c) ∧ l.length ≤ w ∧
    ∀ d, among d → d ∉ l → l.length = w ∧ ∀ c ∈ l, c.before d = true

/-- A search goes from one beam to another in at most n levels, and stops at leaves (R308). -/
inductive Descends (t : Tree) (r : DescendRec) (q : List Nat) : Nat → List Cand → List Cand → Prop
  | stop (n : Nat) (beam : List Cand) : (∀ c ∈ beam, t.kids r.child c.node = []) → Descends t r q n beam beam
  | go (n : Nat) (beam next last : List Cand) : (∃ c ∈ beam, t.kids r.child c.node ≠ []) → Least r.beam (t.level r q beam) next →
      Descends t r q n next last → Descends t r q (n + 1) beam last

/-- The items behind the leaves of the last beam that hold the slot, with their ids (R308). -/
def Tree.item (t : Tree) (r : DescendRec) (q : List Nat) (beam : List Cand) (c : Cand) : Prop :=
  ∃ u ∈ beam, c.node ∈ t.kids r.item u.node ∧ ∃ x, t.vec c.node = some x ∧
    c = ⟨(t.node c.node).prop.toNat, c.node, distance r.metric q x⟩

/-- The k least of a set, each id once at its least member (R308). -/
def Chosen (k : Nat) (among : Cand → Prop) (l : List Cand) : Prop :=
  l.Pairwise (fun a b => a.before b = true ∧ a.key ≠ b.key) ∧ l.length ≤ k ∧
    (∀ c ∈ l, among c ∧ ∀ d, among d → d.key = c.key → d = c ∨ c.before d = true) ∧
    ∀ d, among d → (∀ c ∈ l, c.key ≠ d.key) → l.length = k ∧ ∀ c ∈ l, c.before d = true

/-- An FP32 pattern that is no NaN as an extended real. -/
noncomputable def extended (a : Word) : EReal :=
  if isInf a then (if a.msb then ⊥ else ⊤) else ((value (FFmt.f32.decode a.toNat) : ℝ) : EReal)

end Sys2Proof.Claims

/-- R194, R195, R297 to R300, R303, R306, R310: a walk instruction whose record passes its checks, with its slot and its range free, and for a descent a wave place, publishes the team's stores, takes the slot of its handle, registers its output range and takes its
flag; a descent also takes a place and a number in the sequencer order. With its slot taken it waits. A record out of place, or a field that fails, traps. -/
def Sys2Proof.Claims.WalkAcceptance : Prop :=
  ∀ i s t x desc d a, walkOf i = some (desc, d, a) → Runs i s t x →
    let off := (x.rdFirst 0 a).toNat
    let bs := sharedBytes s x off 64
    let h := (s.core x.core).handleNo
    let key := x.core * 1024 + h.toNat % 1024
    (x.active = [] → Makes i s t x (x.issued i)) ∧
    (x.active ≠ [] → x.todo.copies = [] →
      (off % 64 ≠ 0 ∨ spaceSize s x 0 < off + 64 → Traps i s t x (walkReport 1#4 off 0)) ∧
      (off % 64 = 0 → off + 64 ≤ spaceSize s x 0 → RecordClear s x off 64 →
        (∀ c, desc = false → c ∈ s.embedChecks x bs (parseEmbed bs) →
          (∀ e ∈ s.embedChecks x bs (parseEmbed bs), c.1 < e.1 ∨ c.1 = e.1 ∧ c.2 ≤ e.2) →
          Traps i s t x (walkReport (BitVec.ofNat 4 c.1) off c.2)) ∧
        (desc = true →
          (2 ^ 22 ≤ (word32 bs 12).toNat → Traps i s t x (walkReport 1#4 off 12)) ∧
          ((word32 bs 12).toNat < 2 ^ 22 → zeroBytes bs 56 64 = false → Traps i s t x (walkReport 1#4 off 56)) ∧
          ((word32 bs 12).toNat < 2 ^ 22 → zeroBytes bs 56 64 = true →
            (s.graphOf x.launch (word32 bs 0) = none → Traps i s t x (walkReport 2#4 off 0)) ∧
            ∀ g c, s.graphOf x.launch (word32 bs 0) = some g → c ∈ s.descendChecks x (s.graph g) bs (parseDescend bs) →
              (∀ e ∈ s.descendChecks x (s.graph g) bs (parseDescend bs), c.1 < e.1 ∨ c.1 = e.1 ∧ c.2 ≤ e.2) →
              Traps i s t x (walkReport (BitVec.ofNat 4 c.1) off c.2))) ∧
        ∀ p k loc, WalkOk s x desc bs p k → s.resolveAddr x.cluster x.core k.out = some loc → s.duskStalls x.core t = false →
          (desc = true → FreePlace s p) →
          (aget s.copies key = none → s.rangeFree (unitOf loc.dest) = true →
            ∃ (u : State) (y : Team) (c : Copy) (r : Range),
              ({ attached (x.issued i) (.walk x.core h) with todo := {} } : Team).Wrote y x.act d 1 (fun _ _ => h) ∧
              aget u.copies key = some c ∧ c.handle = h ∧ c.kind = k.kind ∧ c.dst = loc ∧ c.len = k.len ∧ c.next = 0 ∧
              c.total = k.total ∧ c.err = 0 ∧ c.launch = x.launch ∧ c.cluster = x.cluster ∧ c.incr = word32 bs 8 ∧
              aget u.ranges c.range = some r ∧ r.owner = .copy x.core (h.toNat % 1024) ∧ r.dest = loc.dest ∧ r.start = loc.addr ∧
              r.len = k.len ∧ r.mark = 0 ∧ (c.phase = if r.behind = [] then .landing else .held) ∧
              (desc = true → u.waveNo = s.waveNo + 1 ∧ ∃ w, aget u.waves p = some w ∧ w.op = .descend ∧ w.seqNo = s.waveNo ∧
                w.graph = ((parseDescend bs).graph).toNat % 64 ∧ w.phase = .held) ∧
              (desc = false → u.waveNo = s.waveNo ∧ u.waves = s.waves) ∧
              (let v := (s.putTeam t (x.issued i)).publishTeam x.core t;
                (∀ m ∈ v.teams, m.2.late = []) → u = { v.putCore x.core { v.core x.core with handleNo := h + 1#32 } with
                  copies := aput s.copies key c, ranges := u.ranges, nextId := u.nextId, waves := u.waves, waveNo := u.waveNo }) ∧
              exec i s = .next ((u.putTeam t y).retired t x i)) ∧
          (aget s.copies key ≠ none → ∃ u y, exec i s = .next u ∧ aget u.teams t = some y ∧ y.park = some .slot ∧
            y.todo.begun = true)))

/-- R307: distances that are no NaN are the spec's running sums, each product added with one rounding; the inner product's is negated. Distances rank by value, −0 with +0, and NaN last. -/
def Sys2Proof.Claims.Distances : Prop :=
  (∀ metric q x, let d := distance metric q x
    (FFmt.f32.decode d).isNan = false →
      let run := fun (f : Nat → Nat × Nat → Nat) => (List.zip q x).foldl f 0
      d = if metric = 0 then run (fun s p =>
          let t := FFmt.f32.subB .rne false p.1 p.2
          FFmt.f32.fmaB .rne false false false t t s)
        else run (fun s p => FFmt.f32.fmaB .rne false false false p.1 p.2 s) ^^^ 0x80000000) ∧
  ∀ a b : Word, (isNaN a → distBefore a.toNat b.toNat = false) ∧ (¬ isNaN a → isNaN b → distBefore a.toNat b.toNat = true) ∧
    (¬ isNaN a → ¬ isNaN b → (distBefore a.toNat b.toNat = true ↔ extended a < extended b))

/-- The bytes a range holds, but for those rewritten since, stand in shared memory once the range's last unit has landed; until then shared memory reads as before (R199). -/
def Sys2Proof.Claims.PlacedBytes (s u : State) (q : Range) (k n : Nat) (bytes : List Host.Cell) (last : Prop) [Decidable last] : Prop :=
  let held := bytes.filter fun b => !q.rewritten.contains b.1
  ∀ a, u.shByte k n a = if last then ((held.reverse.find? (·.1 == a)).map (·.2)).getD (s.shByte k n a) else s.shByte k n a

/-- R199, R300, R301, R307 to R309, R315, R316: a query of a descent that has started, or is the last one, with its results for shared memory, lands whole in its range: the k least of the items behind the leaves that its beam reaches in at most 64 levels, with those of the side list up to the tail that the
query has read, once; an id's entry of the highest index decides. The results are padded. With the last query they take their place. With more levels the walk stops with error 7. -/
def Sys2Proof.Claims.DescentUnits : Prop :=
  ∀ (s : State) range q core slot c r place pub k n w, aget s.ranges range = some q → q.owner = .copy core slot → slot < 1024 →
    aget s.copies (core * 1024 + slot) = some c → c.kind = .descend r place pub → c.range = range → c.open = true →
    c.frozen = false → c.err = 0 → c.next < c.total → s.canLand range q c.launch = true → q.dest = .sh k n → c.dst.dest = .sh k n →
    q.place = none → (s.place? k n).isSome = true → aget s.waves place = some w → w.phase = .running →
    (r.side = 0#64 ∨ (aget pub c.next).isSome = true ∨ c.next + 1 = c.total) →
    s.inSpace c.launch { c.dst with addr := c.dst.addr + c.next * (8 * r.topk) } (8 * r.topk) = true →
    let y := s.walkEye c (r.graph.toNat % 64)
    let f := y.g.slot r.slot
    let z := fmtBytes f.1
    let eb := strideOf (z * f.2) + 32
    let list := fun (o len : Nat) => s.walkRead c (core / 64) ⟨.main, r.side.toNat % 2 ^ 52 + o⟩ len
    let queries := s.walkLoc (core * 1024 + slot) c r.queries
    ∀ (t : Tree) (qb hd : List Byte) (entry : Nat → List Byte) (tail : Nat), fmtFloat f.1 = true → r.root < y.g.count →
      (∀ m < y.g.count, y.node m = .ok (t.node m) ∧ y.edges m = .ok (t.edges m) ∧ y.vector m r.slot = .ok (t.vec m)) →
      s.walkRead c (core / 64) { queries with addr := queries.addr + 4 * f.2 * c.next } (4 * f.2) = .ok qb →
      (r.side = 0#64 → tail = 0) →
      (r.side ≠ 0#64 → list 0 64 = .ok hd ∧ nat32 hd 12 = eb ∧ tail = (aget pub c.next).getD (nat32 hd 8) ∧
        ∀ i < tail, list (64 + i * eb) eb = .ok (entry i) ∧ zeroBytes (entry i) 8 32 = true ∧ nat32 (entry i) 4 ≤ 1) →
      let query := (List.range f.2).map fun j => leNat ((qb.drop (4 * j)).take 4)
      let root : List Cand := [⟨r.root, r.root, 0⟩]
      let id := fun i => nat32 (entry i) 0
      let added := fun i => (List.range f.2).map fun j => (widen f.1 (leWord (((entry i).drop (32 + z * j)).take z))).toNat
      (∀ last best, Descends t r query 64 root last →
        Chosen r.topk (fun c => (t.item r query last c ∧ ∀ i < tail, id i ≠ c.key) ∨
          ∃ i < tail, (∀ j < tail, i < j → id j ≠ id i) ∧ nat32 (entry i) 4 = 0 ∧ c = ⟨id i, 0, distance r.metric query (added i)⟩) best →
        let out := best.flatMap (fun c => leBytes 4 c.key ++ leBytes 4 c.dist) ++
          (List.replicate (r.topk - best.length) (leBytes 4 0xFFFFFFFF ++ leBytes 4 0x7FC00000)).flatten
        let bytes := q.data ++ cellsAt (c.dst.addr + c.next * (8 * r.topk)) out
        ∃ u, exec (.copyLanding range) s = .next u ∧ PlacedBytes s u q k n bytes (c.next + 1 = c.total) ∧
          (∃ c' pub', aget u.copies (core * 1024 + slot) = some c' ∧ c'.kind = .descend r place pub' ∧ c'.next = c.next + 1 ∧ c'.err = 0 ∧
            (∀ m v, aget pub m = some v → aget pub' m = some v) ∧ (r.side ≠ 0#64 → aget pub' c.next = some tail)) ∧
          ∃ q', aget u.ranges range = some q' ∧ q'.data = bytes ∧ q'.mark = (c.next + 1) * (8 * r.topk)) ∧
      ((∀ last, ¬ Descends t r query 64 root last) → ∃ u c', exec (.copyLanding range) s = .next u ∧
        aget u.copies (core * 1024 + slot) = some c' ∧ c'.err = 7 ∧ c'.next = c.next ∧ u.clusters = s.clusters)

/-- R199, R299 to R301, R304, R305: a bag of an embedding of FP32 rows that sums, with an FP32 output for shared memory, lands whole in its range: each element is the sum of its rows' elements in the order of the index list, from +0; the watermark moves by the bag; with the last bag the bags take their place; an offset that the bag before has read is not read
again. A walk whose units have landed, or that has failed, ends, in the order in which last bytes have landed: its completion record stands in shared memory, and its flag completes. -/
def Sys2Proof.Claims.WalkUnits : Prop :=
  (∀ (s : State) range q core slot c r last k n, aget s.ranges range = some q → q.owner = .copy core slot → slot < 1024 →
    aget s.copies (core * 1024 + slot) = some c → c.kind = .embed r last → c.range = range → c.open = true → c.frozen = false →
    c.err = 0 → c.next < c.total → s.canLand range q c.launch = true → q.dest = .sh k n → c.dst.dest = .sh k n →
    q.place = none → (s.place? k n).isSome = true → r.pool = 0 → r.tfmt = 0 → r.ofmt = 0 →
    s.inSpace c.launch { c.dst with addr := c.dst.addr + c.next * r.ob } r.ob = true →
    let read := fun (v : BitVec 64) (o z : Nat) =>
      let l := s.walkLoc (core * 1024 + slot) c v
      s.walkRead c (core / 64) { l with addr := l.addr + o } z
    ∀ (lo hi : Nat) (from_ to_ : List Byte) (index : Nat → List Byte) (row : Nat → List Byte),
      (∀ m, last = some m → lo = m) → (last = none → read r.offsets (4 * c.next) 4 = .ok from_ ∧ leNat from_ = lo) →
      read r.offsets (4 * c.next + 4) 4 = .ok to_ → leNat to_ = hi → lo ≤ hi →
      (∀ e, lo ≤ e → e < hi → read r.indices (4 * e) 4 = .ok (index e) ∧ leNat (index e) < r.rows ∧
        read r.table (leNat (index e) * (4 * r.n)) (4 * r.n) = .ok (row e) ∧ (row e).length = 4 * r.n) →
      let single := fun (v : Nat) => FFmt.f32.convert .f32 .rne false false v
      let element := fun (e j : Nat) => single (leNat (((row e).drop (4 * j)).take 4))
      let sum := fun j => ((List.range (hi - lo)).map (lo + ·)).foldl (fun acc e => FFmt.f32.addB .rne false acc (element e j)) 0
      let bytes := q.data ++ cellsAt (c.dst.addr + c.next * r.ob) ((List.range r.n).flatMap fun j => leBytes 4 (single (sum j)))
      ∃ u, exec (.copyLanding range) s = .next u ∧ PlacedBytes s u q k n bytes (c.next + 1 = c.total) ∧
        (∃ c', aget u.copies (core * 1024 + slot) = some c' ∧ c'.kind = .embed r (some hi) ∧ c'.next = c.next + 1 ∧ c'.err = 0) ∧
        ∃ q', aget u.ranges range = some q' ∧ q'.data = bytes ∧ q'.mark = (c.next + 1) * r.ob) ∧
  ∀ (s : State) core slot c r last k n off, aget s.copies (core * 1024 + slot) = some c → slot < 1024 → c.kind = .embed r last →
    c.open = true → c.frozen = false → (c.err ≠ 0 ∨ c.next = c.total) → c.counter = .none → s.itsCompletion c.range = true →
    s.resolveAddr c.cluster core r.status = some ⟨.sh k n, off⟩ → (s.place? k n).isSome = true →
    ∃ u, exec (.walkEnd core slot) s = .next u ∧
      (List.range 8).map (fun b => u.shByte k n (off + b))
        = leBytes 8 (c.next * 2 ^ 32 + (if c.err = 0 then 2 else 3) * 2 ^ 30 + c.err * 2 ^ 26) ∧
      (∀ p ∈ u.teams, ∀ o ∈ p.2.ops, o.ref ≠ .walk core c.handle) ∧
      (∀ c', aget u.copies (core * 1024 + slot) = some c' → c'.phase = if c.err = 0 then .complete else .failed)

/-- R311 to R313: SIDEAPP on a list with room writes its entry behind the others, then counts it, and returns its number with Z 1; on a full list it returns all ones with Z 0. SIDEPUB publishes what has been appended. A list address that is not legal, or an image that is not, traps with
subcode 7. -/
def Sys2Proof.Claims.SideLists : Prop :=
  (∀ d a b s t x, Runs (.sideapp d a b) s t x →
    let i := Instr.sideapp d a b
    (x.active = [] → Makes i s t x (x.issued i)) ∧
    (x.active ≠ [] →
      let v := pairAddress x a
      let va := v.toNat
      let off := (x.rdFirst (litCount [a]) b).toNat
      let s1 := reachedState (s.putTeam t (x.issued i)) x va 64
      let size := field s1 x (va + 12)
      let e := field s1 x (va + 4)
      let z := fun (y : Team) b => ({ y with ctx := { x.ctx with cc := { x.ctx.cc with z := b } } } : Team)
      (2 ^ 52 ≤ va ∨ va % 64 ≠ 0 ∨ off % 32 ≠ 0 → Traps i s t x (walkReport 7#4 off 0)) ∧
      (va < 2 ^ 52 → va % 64 = 0 → off % 32 = 0 → Reached s x va 64 → off + size ≤ spaceSize s x 0 → RecordClear s x off size →
        (field s1 x va ≤ e → s1.goesOn x → ∃ y, (x.issued i).Wrote y x.act d 1 (fun _ _ => 0xFFFFFFFF#32) ∧
          exec i s = .next ((s1.putTeam t (z y false)).retired t x i)) ∧
        (e < field s1 x va → Written s1 x (va + 64 + e * size) size →
          let root := s.rootOf x.launch
          let s2 := s1.cache root (va + 64 + e * size) size .write
          let u := (s2.writeVa root (va + 64 + e * size) (sharedBytes s x off size)).writeVa root (va + 4) (leBytes 4 (e + 1))
          u.goesOn x → ∃ y, (x.issued i).Wrote y x.act d 1 (fun _ _ => mod32 e) ∧
            exec i s = .next ((u.putTeam t (z y true)).retired t x i))))) ∧
  ∀ a s t x, Runs (.sidepub a) s t x →
    let i := Instr.sidepub a
    let va := (pairAddress x a).toNat
    (x.active = [] → Makes i s t x (x.issued i)) ∧
    (x.active ≠ [] → (2 ^ 52 ≤ va ∨ va % 64 ≠ 0 → Traps i s t x (walkReport 7#4 0 0)) ∧
      (va < 2 ^ 52 → va % 64 = 0 → Reached s x va 64 →
        let s1 := reachedState (s.putTeam t (x.issued i)) x va 64
        let u := s1.writeVa (s.rootOf x.launch) (va + 8) (leBytes 4 (field s1 x (va + 4)))
        u.goesOn x → exec i s = .next (u.retired t x i)))

/-- Walks and side lists. -/
def Obligations.Walks : Prop :=
  Sys2Proof.Claims.WalkAcceptance ∧ Sys2Proof.Claims.WalkUnits ∧ Sys2Proof.Claims.Distances ∧ Sys2Proof.Claims.DescentUnits ∧
    Sys2Proof.Claims.SideLists

/-- R321 to R323, R335, R336: a packet that leaves takes one from the count of its entry and the next identity, on one of the paths that the table lists; its flits enter the links of that path, from its core's to its endpoint's, each of which takes an audit flit behind 4,096 flits; its team's next release waits for the
endpoint. -/
def Sys2Proof.Claims.PacketsLeave : Prop :=
  ∀ (s : State) t x e dst k y, aget s.teams t = some y →
    let src := Endpoint.core (s.physical x.core)
    ∃ (path : Nat) (u : State),
      let p : Packet := { team := t, core := x.core, entry := e, kind := k, src := src, dst := dst, path := path, sentAt := s.nextId, since := s.nextId, root := s.rootOf y.launch }
      u = s.send t x e dst k ∧
      (s.listed src.router dst.router ≠ [] → path ∈ s.listed src.router dst.router) ∧
      (e < 98 → ∀ n, (tget allowanceReset (u.core x.core).allow n).toNat
        = (tget allowanceReset (s.core x.core).allow n).toNat - if n = e then 1 else 0) ∧
      (∀ c, c ≠ x.core → u.core c = s.core c) ∧
      (p.links.Nodup → ∀ n, (n ∉ p.links → u.link n = s.link n) ∧ (n ∈ p.links →
        let l := (s.link n).enter k.flits
        (l.up = true ∧ l.audit = none ∧ 4096 ≤ l.run → ∃ m, u.link n = l.insertAudit m) ∧
        (¬ (l.up = true ∧ l.audit = none ∧ 4096 ≤ l.run) → u.link n = l))) ∧
      s.nextId < u.nextId ∧
      u = { s with cores := u.cores, nextId := u.nextId, packets := aput s.packets s.nextId p, links := u.links,
                   teams := aput s.teams t { y with sentTo := if (e, dst) ∈ y.sentTo then y.sentTo else y.sentTo ++ [(e, dst)] } }

/-- R317, R318, R325: SCATRED sends, for each group of 32 lanes, one contribution to each word that its active lanes name, with their values in lane order: one of the scratchpad to its slice, one of main memory to the engine of its channel under the key of its page, each taking one from its entry's
allowance. With the allowance of the first 0 the team waits; a translation that fails waits for the host; a contribution that cannot be translated, or goes to code, is dropped, and that is recorded. A target that is not legal traps with the lowest such lane, and with no lane active nothing is sent. -/
def Sys2Proof.Claims.ReductionsPart : Prop :=
  ∀ o a b s t x, Runs (.scatred o a b) s t x → x.todo.begun = false →
    let i := Instr.scatred o a b
    let target := fun l => (x.rd 0 a 1 l ++ x.rd 0 a 0 l : BitVec 64)
    let value := fun l => x.rd (litCount [a]) b 0 l
    let root := s.rootOf x.launch
    let main := fun (v : Nat) => v / 2 ^ 60 = 0
    (x.active = [] → Makes i s t x { x.issued i with todo := {} }) ∧
    (∀ l ∈ x.active, scatTarget (target l) = false → (∀ m ∈ x.active, m < l → scatTarget (target m) = true) →
      Traps i s t x { cause := 13#8, sub := 4#4, lane := mod32 l }) ∧
    ((∀ l ∈ x.active, scatTarget (target l) = true) →
      let all := contributionsOf x target value
      let wait := { x.issued i with todo := { packets := all, begun := true } }
      (∀ pa : Nat → Nat, (∀ c ∈ all, main c.1 → x.deniedAt c.1 = false ∧ s.codePage root c.1 = false ∧
          ∃ e, s.xlate root c.1 .write = .ok e ∧ e.pa c.1 = pa c.1) →
        let way := fun (v : Nat) => reductionTo s root o v (pa v)
        (∀ e, (all.filter fun c => (way c.1).1.router == e).length ≤ s.allowance x.core e) →
        let u := all.foldl (fun u c => (u.cache root c.1 4 .write).send t x (way c.1).1.router (way c.1).1 ((way c.1).2 c.2))
          (s.putTeam t (x.issued i))
        ∀ y, aget u.teams t = some y → u.goesOn x → exec i s = .next ((u.putTeam t { y with todo := {} }).retired t x i)) ∧
      ∀ v vs rest, all = (v, vs) :: rest →
        (∀ e : TlbEntry, (main v → x.deniedAt v = false ∧ s.codePage root v = false ∧ s.xlate root v .write = .ok e) →
          let r := (reductionTo s root o v (e.pa v)).1.router
          s.allowance x.core r = 0 → exec i s = .next ((s.putTeam t wait).park t (.allowance r))) ∧
        (∀ k, main v → x.deniedAt v = false → s.codePage root v = false → s.xlate root v .write = .fault k →
          exec i s = .next (((s.putTeam t wait).raiseFault (x.core / 64) x.launch (.team t) k v).park t .fault)) ∧
        (main v → rest = [] → x.deniedAt v = true ∨ s.codePage root v = true → x.redDrop = none →
          Makes i s t x { x.issued i with denied := [], todo := {}, redDrop := some ⟨BitVec.ofNat 64 v, 1, 1#32⟩ }))

/-- R81, R170, R180, R183, R317 to R319, R321: a reduction at its owner, once the packets sent before it on its path have arrived, combines its word with the values it brings, exactly once, and is gone: in a scratchpad as a publication of its own, once no landing and no other team's lock holds the word; in main
memory in place, under the key of its page, where the block is plain; else it is recorded as dropped for its team, with reason 2. The values of add.f32, each group's one by one or summed before, and those of the reductions whose order with it is open (log 10), are added in some order, each sum rounded. -/
def Sys2Proof.Claims.ReductionsAtOwners : Prop :=
  ∀ (s : State) id p o space die a key va vs, aget s.packets id = some p → p.kind = .red o space die a key va vs → a % 4 = 0 →
    (s.mayArrive id p = false → exec (.reductionAtOwner id) s = .fault .eventNotEnabled) ∧
    (s.mayArrive id p = true →
      let combined := fun (w new : Word) =>
        (o ≠ .addF32 → new = vs.foldl (scatOp o) w) ∧
        (o = .addF32 → let open_ := openSums p.since w (s.sums.filter fun n => n.space == space && n.die == die && n.addr == a)
          ∃ (parts : List (List Word)) (l : List Word),
            List.Forall₂ (fun g part => part = g ∨ ∃ m : List Word, m.Perm g ∧ part = [m.tail.foldl (scatOp o) (m.headD 0#32)])
              (open_.map (·.values) ++ [vs]) parts ∧ l.Perm parts.flatten ∧
            new = l.foldl (scatOp o) ((open_.getLast?.map (·.before)).getD w))
      (space ≠ 0 → (∀ k < 4, s.landingStore (.sp die) (a + k) = true) → s.lockFree die p.team (lockOf a) = true →
        ∃ u : State, exec (.reductionAtOwner id) s = .next u ∧ u.packets = adel s.packets id ∧
          combined (wordOf (s.spLatest die) a) (wordOf (u.spLatest die) a) ∧
          (∀ b, b % 4 = 0 → b ≠ a → wordOf (u.spLatest die) b = wordOf (s.spLatest die) b) ∧
          u = { s with packets := u.packets, links := u.links, cores := u.cores, dies := u.dies, ranges := u.ranges,
                       errors := u.errors, sums := u.sums, fresh := u.fresh }) ∧
      (space = 0 → aget s.forms (a / 4096) = none →
        ∃ u : State, exec (.reductionAtOwner id) s = .next u ∧
          combined (wordOf (s.plainByte key) a) (wordOf (u.plainByte key) a) ∧
          (∀ b, b % 4 = 0 → b ≠ a → wordOf (u.plainByte key) b = wordOf (s.plainByte key) b) ∧
          u = { s with packets := adel s.packets id, links := u.links, mem := u.mem, sealed := u.sealed, forms := u.forms,
                       errors := u.errors, sums := u.sums, fresh := u.fresh }) ∧
      (space = 0 → aget s.forms (a / 4096) ≠ none → ∀ x, aget s.teams p.team = some x → x.redDrop = none →
        exec (.reductionAtOwner id) s = .next ((s.arrive id p).putTeam p.team { x with redDrop := some ⟨va, 2, 1#32⟩ })))

/-- Scattered reductions. -/
def Obligations.Reductions : Prop :=
  Sys2Proof.Claims.PacketsLeave ∧ Sys2Proof.Claims.ReductionsPart ∧ Sys2Proof.Claims.ReductionsAtOwners

/-! Messages, allowances, spawned work, links. -/

namespace Sys2Proof.Claims

open Sys2Proof.Machine

/-- The send-allowance entry that a selector names (R324). -/
def entryOf (s : State) (x : Team) (v : Word) : Option Nat :=
  let n := v.toNat % 2 ^ 30
  match v.toNat / 2 ^ 30 with
  | 0 => if n < 2 ^ 7 then some n else none
  | 1 => if n < 2 ^ 8 then some (s.physical n / 3) else none
  | 2 => if n < 2 ^ 8 then (s.peer? x.launch n).map fun p => 98 + p.cls else none
  | _ =>
    if n < 2 ^ 9 then (if n ≤ 95 then some n else none)
    else if 2 ^ 14 ≤ n ∧ n < 2 ^ 14 + 2 ^ 9 then (if n - 2 ^ 14 ≤ 395 then some (s.engineRouter (n - 2 ^ 14)) else none)
    else none

/-- The target pair and the payload of an AMSEND (R327). -/
def targetOf (x : Team) (a : Field) : Word × Word := (x.rdFirst 0 a, x.rdFirst 0 a 1)

/-- The core of a team that starts on it (R93, R97): the tail of its age order, and of its rotation in a deterministic launch; an implicit DAWN. -/
def joined (s : State) (core launch id : Nat) (k : Core) : Core :=
  { k with age := k.age ++ [id], rotation := if s.deterministic launch then k.rotation ++ [id] else k.rotation,
           snap := (s.die (core / 64)).pubs.length, segs := [] }

/-- A team that starts (R82): every lane active, nothing in its registers but what rows give, its next clause at an offset. -/
def Started (y : Team) (launch cluster core tm role lanes regs : Nat) (off : Nat) (row : Nat → Nat → Word) : Prop :=
  y.launch = launch ∧ y.cluster = cluster ∧ y.core = core ∧ y.tm = tm ∧ y.role = role ∧ y.lanes = lanes ∧ y.regsN = regs ∧
    y.clause = BitVec.ofNat 52 off ∧ y.started = false ∧ (∀ l, l < lanes → l < 1024 → y.ctx.mask.getLsbD l = true) ∧
    y.ctx.cc = {} ∧ y.ctx.fmode = {} ∧ y.ctx.win = 0 ∧ y.ops = [] ∧ y.park = none ∧ y.latchN = 0 ∧ y.trap = {} ∧
    (∀ r l, l < 1024 → y.reg r l = row r l) ∧ y.ofile = [] ∧ y.streams = [] ∧ y.mdata = [] ∧ y.regionPc = BitVec.ofNat 32 off ∧
    y.retired = 0#64 ∧ y.barRefs = []

/-- The core at a position of a cluster word's rectangle (R86). -/
def chartPlace (w p : Nat) : Nat := 64 * (w % 4) + 8 * (w / 4 % 8 + p / (w / 2 ^ 12 % 16)) + w / 2 ^ 5 % 8 + p % (w / 2 ^ 12 % 16)

/-- Positions in a cluster word's rectangle (R86). -/
def chartArea (w : Nat) : Nat := w / 2 ^ 12 % 16 * (w / 2 ^ 8 % 16)

/-- The fabric trap (R331, R343). -/
def fabricReport (sub : BitVec 4) (v : Word) : Report := { cause := 15#8, sub := sub, info0 := v }

end Sys2Proof.Claims

/-- R323 to R328: SAREAD returns the allowance of the entry that each lane's selector names, SATEST sets Z when it is 0; AMSEND, with its target, its payload and its allowance in order, publishes the team's stores and sends one packet that takes one from the allowance; with that allowance 0 it waits, its payload read.
With no lane active AMSEND and SATEST do nothing. -/
def Sys2Proof.Claims.SendingPart : Prop :=
  (∀ d a s t x (e : Nat → Nat), Runs (.saread d a) s t x → (∀ l ∈ x.active, entryOf s x (x.rd 0 a 0 l) = some (e l)) →
    Results (.saread d a) s t x d 1 fun _ l => mod32 (s.allowance x.core (e l))) ∧
  (∀ a s t x, Runs (.satest a) s t x →
    (x.active = [] → Makes (.satest a) s t x (x.issued (.satest a))) ∧
    ∀ e, x.active ≠ [] → entryOf s x (x.rdFirst 0 a) = some e → Makes (.satest a) s t x
      { x.issued (.satest a) with ctx := { x.ctx with cc := { x.ctx.cc with z := decide (s.allowance x.core e = 0) } } }) ∧
  ∀ a b s t x, Runs (.amsend a b) s t x →
    let i := Instr.amsend a b
    (x.active = [] → Makes i s t x (x.issued i)) ∧
    (x.active ≠ [] →
      let lo := (targetOf x a).1
      let hi := (targetOf x a).2
      let off := (x.rdFirst (litCount [a]) b).toNat
      let len := (x.rdFirst (litCount [a]) b 1).toNat
      let peer := hi.toNat % 2 ^ 9
      let e := if peer = 0 then s.physical (lo.toNat % 2 ^ 8) / 3 else 98 + match s.peer? x.launch (peer - 1) with
        | some p => p.cls
        | none => 0
      let payload := (List.range (len / 4)).map fun k => leWord (sharedBytes s x (off + 4 * k) 4)
      let m : Msg :=
        { launch := x.launch, cluster := x.launch * 16384 + lo.toNat / 2 ^ 8 % 2 ^ 14, core := lo.toNat % 2 ^ 8,
          handler := lo.toNat / 2 ^ 22 % 2 ^ 8, payload := [],
          unseen := if lo.toNat % 2 ^ 8 / 64 = x.core / 64 then x.unseen else t :: x.unseen }
      let u := (s.putTeam t (x.issued i)).publishTeam x.core t
      let waits := fun (v : State) (ws : List Word) => (v.putTeam t { x.issued i with
        todo := { packets := ws.map fun w => (0, [w]), begun := true } }).park t (.allowance e)
      let sends := fun (v : State) (ws : List Word) => (v.putTeam t { x.issued i with todo := {} }).send t x e
        (if peer = 0 then .core (s.physical (lo.toNat % 2 ^ 8)) else s.anyPort) (.msg peer { m with payload := ws } (hi ++ lo))
      (x.todo.begun = false → s.sendTrap x lo hi (x.rdFirst (litCount [a]) b) (x.rdFirst (litCount [a]) b 1) = none → RecordClear s x off len →
        s.duskStalls x.core t = false →
        (s.allowance x.core e = 0 → exec i s = .next (waits u payload)) ∧
        (s.allowance x.core e ≠ 0 → exec i s = .next ((sends u payload).retired t x i))) ∧
      (x.todo.begun = true → s.allowance x.core e ≠ 0 →
        exec i s = .next ((sends (s.putTeam t (x.issued i)) (x.todo.packets.flatMap (·.2))).retired t x i)))

/-- R326, R327, R331: the fabric traps: a reserved bit of the target, 1; for a target of this module a cluster or a handler that is not there, or a core outside the cluster, 2; a peer beyond the table, 3; a length above 256 or no multiple of 4, or a source that is misaligned or leaves the shared bytes, 4, for
targets of this module and of peers; each with the word that failed, lowest first. -/
def Sys2Proof.Claims.SendingTraps : Prop :=
  ∀ a b s t x, Runs (.amsend a b) s t x → x.active ≠ [] → x.todo.begun = false →
    let i := Instr.amsend a b
    let lo := (targetOf x a).1
    let hi := (targetOf x a).2
    let off := x.rdFirst (litCount [a]) b
    let len := x.rdFirst (litCount [a]) b 1
    let cluster := lo.toNat / 2 ^ 8 % 2 ^ 14
    let w := (s.chartWord x.launch cluster).toNat
    let there := fun (r : Record) => cluster < r.clusters ∧ (∃ p < chartArea w, chartPlace w p = lo.toNat % 2 ^ 8) ∧
      lo.toNat / 2 ^ 22 % 2 ^ 8 < r.handlers
    (2 ^ 30 ≤ lo.toNat → Traps i s t x (fabricReport 1#4 lo)) ∧
    (lo.toNat < 2 ^ 30 → 2 ^ 9 ≤ hi.toNat → Traps i s t x (fabricReport 1#4 hi)) ∧
    (lo.toNat < 2 ^ 30 → hi = 0#32 → ∀ r, s.record? x.launch = some r → ¬ there r → Traps i s t x (fabricReport 2#4 lo)) ∧
    (lo.toNat < 2 ^ 30 → hi ≠ 0#32 → hi.toNat < 2 ^ 9 → s.peerCount x.launch < hi.toNat → Traps i s t x (fabricReport 3#4 hi)) ∧
    (lo.toNat < 2 ^ 30 → (hi = 0#32 ∧ ∃ r, s.record? x.launch = some r ∧ there r) ∨
        (hi ≠ 0#32 ∧ hi.toNat < 2 ^ 9 ∧ hi.toNat ≤ s.peerCount x.launch) →
      (256 < len.toNat ∨ len.toNat % 4 ≠ 0 → Traps i s t x (fabricReport 4#4 len)) ∧
      (len.toNat ≤ 256 → len.toNat % 4 = 0 → off.toNat % 4 ≠ 0 ∨ spaceSize s x 0 < off.toNat + len.toNat →
        Traps i s t x (fabricReport 4#4 off)))

/-- Sending messages. -/
def Obligations.Sending : Prop := Sys2Proof.Claims.SendingPart ∧ Sys2Proof.Claims.SendingTraps

/-- R332, R333: SPAWN whose targets are clause headers, with room in its core's spawn queue, publishes the team's stores and puts one item for each active lane there, in lane order; a target that is not legal traps with subcode 5. When the wait has passed, up to 1,024 items with the key of the oldest form a child team. A formed team
whose cluster is resident starts once its core has room: lane i takes item i. -/
def Sys2Proof.Claims.SpawnedWork : Prop :=
  (∀ a b s t x, Runs (.spawn a b) s t x →
    let i := Instr.spawn a b
    let tgt := fun l => x.rd 0 a 0 l
    let legal := fun l => Reaches s x (tgt l)
    (x.active = [] → Makes i s t x (x.issued i)) ∧
    (∀ l ∈ x.active, ¬ legal l → (∀ m ∈ x.active, m < l → legal m) → Traps i s t x (fabricReport 5#4 (tgt l))) ∧
    (x.active ≠ [] → (∀ l ∈ x.active, legal l ∧ isHeader (s.codeWord x.launch ((tgt l).setWidth 52)) = true ∧
        s.faultIn (s.rootOf x.launch) (s.codeVa x.launch ((tgt l).setWidth 52)) 4 .fetch = none) →
      s.duskStalls x.core t = false →
      let queue := (s.core x.core).spawnQ
      let items := x.active.map fun l => (
        { launch := x.launch, cluster := x.cluster, target := tgt l, role := x.role,
          words := (List.range 4).map fun k => x.rd (litCount [a]) b k l } : SpawnItem)
      let u := (s.putTeam t (x.issued i)).publishTeam x.core t
      queue.length + x.active.length ≤ Config.spawnItems →
      (∀ k ∈ queue ++ items, ((queue ++ items).filter fun q => sameKey q k).length < 1024) →
      exec i s = .next ((u.putCore x.core { u.core x.core with spawnQ := queue ++ items }).retired t x i))) ∧
  (∀ (s : State) core k rest, (s.core core).spawnQ = k :: rest → ((k :: rest).filter fun q => sameKey q k).length ≤ 1024 →
    exec (.spawnTimeout core) s = .next (s.putCore core { s.core core with
      spawnQ := (k :: rest).filter fun q => !sameKey q k,
      children := (s.core core).children ++ [(k :: rest).filter fun q => sameKey q k] })) ∧
  ∀ (s : State) core k r g rec_, (s.core core).children = (k :: r) :: g → (k :: r).length ≤ 1024 → s.residentCluster k.cluster = true →
    s.record? k.launch = some rec_ → s.roomFor core 1 (((k :: r).length + 31) / 32 * rec_.regs) = true →
    ∃ u y, exec (.childTeamStart core) s = .next u ∧ aget u.teams s.nextId = some y ∧ u.nextId = s.nextId + 1 ∧
      Started y k.launch k.cluster core 65 k.role (k :: r).length rec_.regs k.target.toNat (fun n l =>
        if n < 4 then match (k :: r)[l]? with
          | some q => q.words.getD n 0#32
          | none => 0#32 else 0#32) ∧
      u.core core = { joined s core k.launch s.nextId (s.core core) with children := g }

/-- R329, R330, R335: a message for a resident cluster with room, once its packet may arrive, joins its core's incoming queue; one whose launch has ended is dropped, with reason 3 recorded for its sender, and one for a core that its cluster does not hold, with reason 1. A waiting message's handler starts when its core has room: a team of 32 lanes at the handler table's offset, with the payload's words in its first registers, the same in every lane. A peer's message
that names nothing here is answered with an error; a message to a peer that is unavailable is recorded with reason 4, and the host receives event 8 with the target as its address, high word above low (log 33). The handler-table entry is read through the launch's translations as the handler starts
(log 18). -/
def Sys2Proof.Claims.Messages : Prop :=
  (∀ (s : State) id p m target, aget s.packets id = some p → p.kind = .msg 0 m target → s.mayArrive id p = true →
    ((∃ l, aget s.launches m.launch = some l ∧ l.phase ≠ .ended) → s.residentCluster m.cluster = true → (s.place? m.cluster m.core).isSome = true →
      (s.core m.core).incoming.length < Config.incomingMessages →
      exec (.activeMessageArrival (.packet id)) s = .next ((s.arrive id p).putCore m.core
        { s.core m.core with incoming := (s.core m.core).incoming ++ [m] })) ∧
    ((∀ l, aget s.launches m.launch = some l → l.phase = .ended) → ∀ x, aget s.teams p.team = some x → x.msgDrop = none →
      exec (.activeMessageArrival (.packet id)) s = .next ((s.arrive id p).putTeam p.team
        { x with msgDrop := some ⟨target, 3, 1#32⟩ })) ∧
    ((∃ l, aget s.launches m.launch = some l ∧ l.phase ≠ .ended) → (aget s.clusters m.cluster).isSome = true →
      s.place? m.cluster m.core = none → ∀ x, aget s.teams p.team = some x → x.msgDrop = none →
      exec (.activeMessageArrival (.packet id)) s = .next ((s.arrive id p).putTeam p.team
        { x with msgDrop := some ⟨target, 1, 1#32⟩ }))) ∧
  (∀ (s : State) id p peer m target x, aget s.packets id = some p → p.kind = .msg peer m target → peer ≠ 0 → s.mayArrive id p = true →
    s.peerUp (s.queueOf m.launch) (peer - 1) = false → aget s.teams p.team = some x → x.msgDrop = none → x.peerTold = false →
    exec (.activeMessageArrival (.packet id)) s = .next (((s.arrive id p).putTeam p.team
      { x with msgDrop := some ⟨target, 4, 1#32⟩, peerTold := true }).sendEvent 8 (s.queueOf m.launch) (s.seqOf m.launch)
        (mod32 (peer - 1 : Nat)) target.toNat)) ∧
  (∀ (s : State) q target payload, (∀ l ∈ s.launches, l.2.queue = q → l.2.phase = .ended) →
    exec (.activeMessageArrival (.peer q target payload)) s = .next { s with replies := s.replies ++ [.error "no launch"] }) ∧
  ∀ (s : State) core m rest r, (s.core core).incoming = m :: rest → m.core = core → s.record? m.launch = some r →
    s.residentCluster m.cluster = true → s.roomFor core 1 r.regs = true → m.payload.length ≤ 64 →
    (∀ d ∈ s.dies, ∀ f ∈ d.2.faults ++ d.2.waiting, f.who ≠ .message core m.launch) →
    let va := r.htab.toNat + 4 * m.handler
    s.faultIn (s.rootOf m.launch) va 4 .read = none →
    let off := leNat (s.vaBytes (s.rootOf m.launch) .read va 4)
    ∃ u y, exec (.handlerTeamStart core) s = .next u ∧ aget u.teams s.nextId = some y ∧ u.nextId = s.nextId + 1 ∧
      Started y m.launch m.cluster core 64 (if r.flags.getLsbD 2 then 1 else 0) 32 r.regs off (fun n l =>
        if l < 32 then m.payload.getD n 0#32 else 0#32) ∧
      u.core core = { joined s core m.launch s.nextId (s.core core) with incoming := rest }

/-- Spawned work and messages. -/
def Obligations.SpawnedWorkAndMessages : Prop := Sys2Proof.Claims.SpawnedWork ∧ Sys2Proof.Claims.Messages

/-- R322, R323, R325, R337, R338: a credit raises an entry of a core by one, up to 64 with what is in flight, and the core's teams that wait for that entry go on; a transport's window counts for its class on every core; a class that has allowance again lets teams go on; endpoints acknowledge a release that waits once what its team has sent them, and what its core has sent them ahead of the release's markers, has performed (log 18); a peer's
unavailability is noted; a packet of another delivery mode is counted and discarded. -/
def Sys2Proof.Claims.FabricEvents : Prop :=
  (∀ (s : State) core e, e < 98 → s.allowance core e + (s.packets.filter fun p => p.2.core == core && p.2.entry == e).length < 64 →
    ∃ u, exec (.allowanceCredit core e none) s = .next u ∧ u.allowance core e = s.allowance core e + 1 ∧
      (∀ n c, c < 98 → n ≠ core ∨ c ≠ e → u.allowance n c = s.allowance n c) ∧
      u.teams = s.teams.map fun p => if p.2.core = core ∧ p.2.park = some (.allowance e) then (p.1, { p.2 with park := none }) else p) ∧
  (∀ (s : State) core e w, 98 ≤ e → e < 114 → ∃ u, exec (.allowanceCredit core e (some w)) s = .next u ∧
    ∀ n, u.allowance n e = min 255 (w / 4096 - (s.packets.filter fun p => p.2.entry == e).length)) ∧
  (∀ (s : State) core e, 98 ≤ e → s.allowance core e ≠ 0 → (∃ p ∈ s.teams, p.2.core = core ∧ p.2.park = some (.allowance e)) →
    let on := s.teams.map fun p => if p.2.core = core ∧ p.2.park = some (.allowance e) then (p.1, { p.2 with park := none }) else p
    exec (.allowanceCredit core e none) s = .next { s with teams := on }) ∧
  (∀ (s : State) t x, aget s.teams t = some x → x.park = some .flush →
    let left := x.sentTo.filter fun e => s.packets.any fun p =>
      p.2.dst == e.2 && (p.2.team == t || p.2.core == x.core && x.markers.any fun m => decide (p.2.sentAt < m))
    left.length < x.sentTo.length →
    exec (.flushMarkerAck t) s = .next (s.putTeam t { x with sentTo := left, park := none })) ∧
  (∀ (s : State) q k cfg, (s.queue q).cfg = some cfg → k < cfg.peers → k ∉ (s.queue q).lostPeers →
    s.peerUp q k = true ∧ ∃ u, exec (.peerUnavailable q k) s = .next u ∧ u.peerUp q k = false ∧
      (∀ n m, n ≠ q ∨ m ≠ k → u.peerUp n m = s.peerUp n m) ∧ u = { s with queues := u.queues }) ∧
  (∀ (s : State) n, exec (.peerIngressFlush n) s = .next { s with replies := s.replies ++ [.flushed n] }) ∧
  ∀ (s : State) port, port < 8 → ∃ d, exec (.otherDeliveryModePacket port) s = .next { s with dropped := d } ∧
    ∀ n, tget zeros d n = tget zeros s.dropped n + if n = port then 1#32 else 0#32

/-- R321, R335, R336, R341: the oldest unacknowledged flit of a link is requested again, and the later ones wait in the reorder store until it has come; a flit that has left the sender's replay buffer cannot, and takes the link out of service. A link that leaves service sends event 7; no table lists a path over it, and the packets in flight on it are sent again on another, in their order. An audit flit, numbered as any other, carries what has
been sent; once what was sent before it has been received, lost credits come back, and a count that differs takes the link out of service. -/
def Sys2Proof.Claims.Links : Prop :=
  (∀ (s : State) n, (s.link n).up = true →
    let l := s.link n
    (∀ q r, l.missing = none → l.replay = q :: r → exec (.linkReplayRequest n) s = .next { s with
      links := aput s.links n { l with missing := some q, held := r }, replies := s.replies ++ [.replay n q.toNat] }) ∧
    (∀ q, l.missing = some q → q ∈ l.replay → exec (.linkReplayRequest n) s = .next { s with
      links := aput s.links n { l with missing := none, held := [] } }) ∧
    (l.audit = none →
      let on := { l.enter 1 with sent := l.sent, avail := l.avail, audit := some (l.sent, s.nextId), beyond := 0#16, run := 0 }
      exec (.auditFlit n) s = .next { s with nextId := s.nextId + 1, links := aput s.links n on }) ∧
    (∀ q, l.missing = some q → q ∉ l.replay → exec (.linkOutOfService n) s = .next (s.linkDown n)) ∧
    ((∀ q, l.missing = some q → q ∈ l.replay) → exec (.linkOutOfService n) s = .fault .eventNotEnabled)) ∧
  (∀ (s : State) n v at_, (s.link n).audit = some (v, at_) → (s.link n).missing = none →
    (∀ p ∈ s.packets, n ∈ p.2.links → at_ ≤ p.2.sentAt) →
    let l := s.link n
    (v = l.recv - l.beyond → exec (.auditReply n) s = .next { s with
      links := aput s.links n { l with avail := l.avail + (l.freed - l.credits), credits := l.freed, audit := none } }) ∧
    (v ≠ l.recv - l.beyond → exec (.auditReply n) s = .next (s.linkDown n))) ∧
  ∀ (s : State) n, (s.packets.map (·.1)).Nodup →
    let v := s.putLink n { s.link n with up := false, audit := none, missing := none, held := [], replay := [] }
    let u := s.linkDown n
    (u.link n).up = false ∧ (∀ a b k, k ∈ u.listed a b → n ∉ pathLinks a b k) ∧
    (∃ d c, u.events = s.events ++ [⟨d, 7, 0, 0, mod32 n, 0#64, c⟩] ∧ d = .management) ∧
    (∀ id p, aget s.packets id = some p → ∃ path at_, aget u.packets id = some { p with path := path, sentAt := at_ } ∧
      (n ∉ p.links → path = p.path ∧ at_ = p.sentAt) ∧
      (n ∈ p.links → s.nextId ≤ at_ ∧ (v.listed p.src.router p.dst.router ≠ [] → path ∈ v.listed p.src.router p.dst.router))) ∧
    (∀ (i j : Nat) (p q : Nat × Packet) p' q', i < j → s.packets[i]? = some p → s.packets[j]? = some q → n ∈ p.2.links → n ∈ q.2.links →
      aget u.packets p.1 = some p' → aget u.packets q.1 = some q' → p'.sentAt < q'.sentAt) ∧
    ((∀ p ∈ s.packets, n ∉ p.2.links) → u = v.sendEvent 7 0 0 (mod32 n) 0)

/-- R201, R340, R361, R371: a write of a host or a peer puts its bytes at their address of the queue's address space, a read answers with the bytes there; both wake the port and base dies. Bytes in front of a page that does not translate have landed, and the access waits for the host's answer with what is left
(log 38), as a read waits with all of it; the translations of pages that are repaired let it end. A queue that is not configured, a write to code and, for a read, a check value that does not match answer with an error. -/
def Sys2Proof.Claims.RemoteAccess : Prop :=
  ∀ (s : State) q (addr : BitVec 64) bytes len,
    let said := fun (s : State) (r : Reply) => ({ s with replies := s.replies ++ [r] } : State)
    let va := addr.toNat
    let id := s.nextId
    let n := bytes.length
    ∃ isl, let w : State := { s with islands := isl, nextId := s.nextId + 1 }
      (∀ n, w.island n = { s.island n with power := if 48 ≤ n then .noon else (s.island n).power }) ∧
      ((s.queue q).cfg = none →
        exec (.remoteWrite q addr bytes) s = .next (said { s with nextId := s.nextId + 1 } (.error "queue not configured")) ∧
        exec (.remoteRead q addr len) s = .next (said { s with nextId := s.nextId + 1 } (.error "queue not configured"))) ∧
      ∀ cfg, (s.queue q).cfg = some cfg →
        let parked := fun (u : State) (k v : Nat) (r : Remote) =>
          State.raiseFaultIn { u with remotes := aput u.remotes id r } 0 cfg.root q (s.queue q).nextSeq (.remote id) k v
        let put := fun (bs : List Byte) => (w.cache cfg.root va bs.length .write).writeVa cfg.root va bs
        let stops := fun v => s.codePage cfg.root v = true ∨ ∃ k, s.xlate cfg.root v .write = .fault k
        ((∀ v ∈ touched va n, ¬ stops v) → exec (.remoteWrite q addr bytes) s = .next (said (put bytes) (.ok "write"))) ∧
        (∀ (j v : Nat), (touched va n)[j]? = some v → (∀ (i m : Nat), i < j → (touched va n)[i]? = some m → ¬ stops m) →
          (s.codePage cfg.root v = true →
            exec (.remoteWrite q addr bytes) s = .next (said (put (bytes.take (v - va))) (.error "translation"))) ∧
          ∀ k, s.codePage cfg.root v = false → s.xlate cfg.root v .write = .fault k → k ≠ 0 →
            exec (.remoteWrite q addr bytes) s
              = .next (parked (put (bytes.take (v - va))) k v { queue := q, va := v, data := some (bytes.drop (v - va)), len := n })) ∧
        (∀ k v, s.faultIn cfg.root va len .read = some (k, v) →
          exec (.remoteRead q addr len) s = .next (parked w k v { queue := q, va := va, data := none, len := len })) ∧
        (s.faultIn cfg.root va len .read = none → s.badVa cfg.root .read va len = true →
          exec (.remoteRead q addr len) s = .next (said w (.error "check value"))) ∧
        (s.faultIn cfg.root va len .read = none → s.badVa cfg.root .read va len = false →
          exec (.remoteRead q addr len) s = .next (said (w.cache cfg.root va len .read) (.data (s.vaBytes cfg.root .read va len))))

/-- Fabric events and remote access. -/
def Obligations.FabricAndPorts : Prop :=
  Sys2Proof.Claims.FabricEvents ∧ Sys2Proof.Claims.Links ∧ Sys2Proof.Claims.RemoteAccess

/-! Traps, system registers, events, translations. -/

namespace Sys2Proof.Claims

open Sys2Proof.Machine

/-- The system trap with a subcode and the value that fails (R417). -/
def systemReport (sub : BitVec 4) (v : Word) : Report := { cause := 17#8, sub := sub, info0 := v }

/-- The system registers (R349, R350). -/
def systemRegister (s : State) (x : Team) : Nat → Option Word
  | 0 => some x.trap.vec
  | 1 => some (truth x.trap.inTrap)
  | 2 => some x.trap.cause
  | 3 => some x.trap.pc
  | 4 => some x.trap.word
  | 5 => some x.trap.lane
  | 6 => some x.trap.info0
  | 7 => some x.trap.info1
  | 8 => some x.trap.info2
  | 9 => some x.trap.info3
  | 10 => some x.trap.regPc
  | 11 => some x.trap.regCnt
  | 12 => some (mod32 ((if x.planes = [] ∧ x.headQueued = false then 0 else 2 ^ 31) + x.planes.length % 2 ^ 16 : Nat))
  | 13 => some (s.core x.core).cerr
  | 14 => some (mod32 (s.island (s.physical x.core / 6)).mhz)
  | n => if 16 ≤ n ∧ n ≤ 27 then some (tget zeros s.serr (n - 16)) else none

/-- The team as its trap found it (R348): context, latches, literals and place from the trap shadow, out of the handler. -/
def shadowed (x : Team) : Team :=
  { x with
    ctx := x.trap.shadow, latch := x.trap.latch, latchN := x.trap.latchN, lits := x.trap.lits, clause := x.trap.clause,
    words := x.trap.words, litN := x.trap.litN, setA := x.trap.setA, setB := x.trap.setB, longs := x.trap.longs,
    started := x.trap.started, idx := x.trap.idx, trap := { x.trap with inTrap := false } }

/-- An instruction that counts as retired, with no step of the team's place (R113). -/
def counted (x : Team) : Team := { x with retired := x.retired + 1#64, denied := [] }

end Sys2Proof.Claims

/-- R347, R348, R417: TRAP traps with its code. TRET outside a handler traps with subcode 3, reporting 0 as the failing value (log 30); with mode 0 it goes to the region's header with the
context at the entry of the region that it names, with mode 1 to the trapping instruction, with mode 2 to the word behind it, with the context, latches and literals of the trap
shadow; the in-handler bit is cleared, and no register or flag is restored. -/
def Sys2Proof.Claims.TrapsAndReturns : Prop :=
  (∀ a s t x, Issues (.trap a) s t x → Traps (.trap a) s t x { cause := 18#8, info0 := x.rdFirst 0 a }) ∧
  ∀ m s t x, Issues (.tret m) s t x →
    let i := Instr.tret m
    let y := { x.issued i with trap := { x.trap with inTrap := false } }
    (x.trap.inTrap = false → Traps i s t x (systemReport 3#4 0#32)) ∧
    (x.trap.inTrap = true → ∃ di, (∀ q, q ∈ di ↔ q ∈ x.dirty ∨ q ∈ x.latchPlanes) ∧
      let z := { shadowed (x.issued i) with dirty := di }
      let behind := { x.issued i with
        ctx := x.trap.shadow, setA := x.trap.setA, setB := x.trap.setB, longs := x.trap.longs, dirty := di,
        trap := { x.trap with inTrap := false } }
      (m = 0#7 → s.clauseFault x.launch (x.trap.regPc.setWidth 52) = none →
        exec i s = .next ((s.putTeam t { y with ctx := x.trap.regionCtx }).retiredTo t x i (x.trap.regPc.setWidth 52))) ∧
      (m = 1#7 → x.trap.started = true → exec i s = .next ((s.putTeam t (counted z)).countIssue x.core t)) ∧
      (m = 1#7 → x.trap.started = false → s.clauseFault x.launch x.trap.clause = none →
        exec i s = .next ((s.putTeam t behind).retiredTo t x i x.trap.clause)) ∧
      (m = 2#7 → x.trap.started = true → x.trap.idx + 1 < x.trap.words.length - x.trap.litN →
        exec i s = .next ((s.putTeam t { counted z with idx := x.trap.idx + 1 }).countIssue x.core t)) ∧
      (m = 2#7 → x.trap.started = true → x.trap.words.length - x.trap.litN ≤ x.trap.idx + 1 →
        let off := BitVec.ofNat 52 (x.trap.clause.toNat + 4 * (x.trap.words.length + 1))
        s.clauseFault x.launch off = none → exec i s = .next ((s.putTeam t behind).retiredTo t x i off)) ∧
      (m = 2#7 → x.trap.started = false → s.clauseFault x.launch (x.trap.clause + 4#52) = none →
        exec i s = .next ((s.putTeam t behind).retiredTo t x i (x.trap.clause + 4#52))))

/-- R349 to R351, R417: SYSRD returns the register in every active lane, as a result; SYSWR sets TVEC to 0 or a multiple of 4 below the code length; a
register that is not there traps with subcode 1, a write to another with 2, another value with 5; with no lane active SYSWR does nothing. -/
def Sys2Proof.Claims.SystemRegisters : Prop :=
  (∀ d n s t x, Runs (.sysrd d n) s t x →
    (∀ v, systemRegister s x n.toNat = some v → Results (.sysrd d n) s t x d 1 fun _ _ => v) ∧
    (systemRegister s x n.toNat = none → Traps (.sysrd d n) s t x (systemReport 1#4 (mod32 n.toNat)))) ∧
  ∀ a n s t x, Runs (.syswr a n) s t x →
    let i := Instr.syswr a n
    let v := x.rdFirst 0 a
    (x.active = [] → Makes i s t x (x.issued i)) ∧
    (x.active ≠ [] →
      (systemRegister s x n.toNat = none → Traps i s t x (systemReport 1#4 (mod32 n.toNat))) ∧
      (systemRegister s x n.toNat ≠ none → n ≠ 0#7 → Traps i s t x (systemReport 2#4 (mod32 n.toNat))) ∧
      (n = 0#7 → v = 0#32 ∨ Reaches s x v → Makes i s t x { x.issued i with trap := { x.trap with vec := v } }) ∧
      (n = 0#7 → v ≠ 0#32 → ¬ Reaches s x v → Traps i s t x (systemReport 5#4 v)))

/-- TRAP, TRET, SYSRD, SYSWR. -/
def Obligations.TrapReturnsAndSystemRegisters : Prop := Sys2Proof.Claims.TrapsAndReturns ∧ Sys2Proof.Claims.SystemRegisters

/-- R356, R357, R363, R366, R417: CKPT is over once nothing of the capture is queued; EVENT, behind dusk.sys, sends an event of kind 9; TLBINV drops every translation of the launch's
address space for its pages, all of them for a count of 0, once the reductions that have used one have performed, and traps with subcode 4 on an address that starts no page, reporting its low word (log 30); with no lane active the last two do nothing. -/
def Sys2Proof.Claims.EventsAndTranslations : Prop :=
  (∀ s t x, Runs .ckpt s t x →
    (x.planes = [] → x.headQueued = false → Makes .ckpt s t x (x.issued .ckpt)) ∧
    (x.planes ≠ [] ∨ x.headQueued = true → exec .ckpt s = .next ((s.putTeam t (x.issued .ckpt)).park t .capture))) ∧
  (∀ a b s t x, Runs (.event a b) s t x →
    let i := Instr.event a b
    (x.active = [] → Makes i s t x (x.issued i)) ∧
    (x.active ≠ [] → x.sentTo = [] → x.redDrop = none → x.msgDrop = none → s.duskStalls x.core t = false →
      let w := (s.putTeam t (x.issued i)).publishTeam x.core t
      exec i s = .next (((w.putTeam t { x.issued i with markers := none, released := (w.die (x.core / 64)).pubs.length }).sendEvent 9
        (s.queueOf x.launch) (s.seqOf x.launch) (x.rdFirst 0 a) (x.rdFirst (litCount [a]) b 1 ++ x.rdFirst (litCount [a]) b 0 : BitVec 64).toNat).retired t x i))) ∧
  (∀ a b s t x, Runs (.tlbinv a b) s t x →
    let i := Instr.tlbinv a b
    let va : BitVec 64 := x.rdFirst 0 a 1 ++ x.rdFirst 0 a 0
    let u := (s.putTeam t (x.issued i)).invalidate (s.rootOf x.launch) va.toNat (x.rdFirst (litCount [a]) b).toNat
    (x.active = [] → Makes i s t x (x.issued i)) ∧
    (x.active ≠ [] → va.toNat % 2 ^ 16 ≠ 0 ∨ 2 ^ 52 ≤ va.toNat → Traps i s t x (systemReport 4#4 (x.rdFirst 0 a 0))) ∧
    (x.active ≠ [] → va.toNat % 2 ^ 16 = 0 → va.toNat < 2 ^ 52 →
      let n := (x.rdFirst (litCount [a]) b).toNat
      let outstanding := ∃ p ∈ s.packets, ∃ o d pa key v vs, p.2.kind = .red o 0 d pa key v vs ∧
        p.2.root = s.rootOf x.launch ∧ (n = 0 ∨ va.toNat ≤ v.toNat ∧ v.toNat < va.toNat + 2 ^ 16 * n)
      (outstanding → exec i s = .next ((s.putTeam t (x.issued i)).park t .translations)) ∧
      (¬ outstanding → u.goesOn x → exec i s = .next (u.retired t x i)))) ∧
  ∀ (s : State) root va n,
    (∀ e, e ∈ (s.invalidate root va n).tlb ↔
      e ∈ s.tlb ∧ ¬ (e.root = root ∧ (n = 0 ∨ va / 2 ^ 16 ≤ e.page ∧ e.page < va / 2 ^ 16 + n))) ∧
    (s.invalidate root va n).teams = s.teams ∧ (s.invalidate root va n).dies = s.dies

/-- R97, R344: a trap that waits for its handler's header is taken as the host has answered, at the team's turn where the core runs a rotation; a page that the host has answered unrepairable ends the launch. -/
def Sys2Proof.Claims.VectorFetches : Prop :=
  ∀ (s : State) t x r, aget s.teams t = some x → x.park = some (.vector r) → t ∈ (s.core x.core).age → x.late = [] →
    (∀ d ∈ s.dies, ∀ f ∈ d.2.faults ++ d.2.waiting, f.who ≠ .team t) →
    let u := (s.putTeam t { x with park := none }).takeTrap t r
    let fault := s.clauseFault x.launch (x.trap.vec.setWidth 52)
    ((∀ k va, fault = some (k, va) → x.deniedAt va = false) →
      ((s.core x.core).rotation = [] → exec (.trapVectorFetchResume t) s = .next u) ∧
      (∀ rest y, (s.core x.core).rotation = t :: rest → aget u.teams t = some y → y.park = none → (u.core x.core).rotation = t :: rest →
        exec (.trapVectorFetchResume t) s = .next (u.putCore x.core { u.core x.core with rotation := rest ++ [t] }))) ∧
    (∀ k va l, fault = some (k, va) → x.deniedAt va = true → (s.core x.core).rotation = [] → aget s.launches x.launch = some l →
      ∃ u, exec (.trapVectorFetchResume t) s = .next u ∧ (∀ n y, aget u.teams n = some y → y.launch ≠ x.launch) ∧
        ∃ d c pc, u.events = s.events ++ [⟨d, 1, l.queue, l.seq, causeWord r, pc, c⟩])

/-- R354, R356, R361: the header of a capture, which is queued as a plane is (log 26), goes to image A first, then the queued planes, a lane register's as the last region entry found it; a page that does not translate makes the piece wait for the host. -/
def Sys2Proof.Claims.CaptureWrites : Prop :=
  ∀ (s : State) t x, aget s.teams t = some x → (∀ d ∈ s.dies, ∀ f ∈ d.2.faults ++ d.2.waiting, f.who ≠ .image t) → x.lost = [] →
    let root := s.rootOf x.launch
    let put := fun (u : State) (va : Nat) (bs : List Byte) => (u.cache root va bs.length .write).writeVa root va bs
    let clear := fun (va n : Nat) => (∀ k < n, s.codePage root (va + k) = false) ∧ ∀ v ∈ touched va n, ∃ e, s.xlate root v .write = .ok e
    (x.planes = [] → x.headQueued = false → exec (.checkpointPlaneWrite t) s = .fault .eventNotEnabled) ∧
    ∀ c, x.capture = some c →
      (x.headQueued = true → (∀ w ∈ c.head, clear (s.windowVa x + w.1) (4 * w.2.length)) → exec (.checkpointPlaneWrite t) s
        = .next ((c.head.foldl (fun u w => put u (s.windowVa x + w.1) (w.2.flatMap fun w => leBytes 4 w.toNat)) s).putTeam t
          { x with headQueued := false, lost := [] })) ∧
      ∀ p rest, x.headQueued = false → x.planes = p :: rest → p / 32 < x.regsN →
        let va := s.windowVa x + (2 ^ 12 + 128 * (((x.lanes + 31) / 32) * (p / 32) + p % 32))
        (clear va 128 → exec (.checkpointPlaneWrite t) s = .next ((put s va ((List.range 32).flatMap fun l =>
          leBytes 4 (tget zeros c.regs (1024 * (p / 32) + 32 * (p % 32) + l)).toNat)).putTeam t { x with planes := rest, lost := [] })) ∧
        (∀ k, s.codePage root va = false → s.xlate root va .write = .fault k →
          exec (.checkpointPlaneWrite t) s = .next ((s.raiseFault (x.core / 64) x.launch (.image t) k va).putTeam t x))

/-- R361, R363, R369: an answer of the queue's requester ends the wait of every fill of its page, failing them when it is unrepairable; it drops the
translations of a range; without a configured queue, from another requester, and without a fault or a page's start, nothing is done but an error returned. -/
def Sys2Proof.Claims.SystemEvents : Prop :=
  (∀ (s : State) who q addr repaired,
    let said := fun (r : Reply) => ({ s with replies := s.replies ++ [r] } : State)
    let i := Instr.answerFault ⟨q, who⟩ addr repaired
    let page := addr.toNat / 2 ^ 16
    ((s.queue q).cfg = none → exec i s = .next (said (.error "queue not configured"))) ∧
    ∀ cfg, (s.queue q).cfg = some cfg →
      (cfg.requester ≠ who → exec i s = .next (said (.error "requester"))) ∧
      (cfg.requester = who → (cfg.root, page) ∉ s.asked → exec i s = .next (said (.error "no fault"))) ∧
      (cfg.requester = who → (cfg.root, page) ∈ s.asked →
        (∀ d ∈ s.dies, ∀ f ∈ d.2.faults ++ d.2.waiting, f.root = cfg.root → f.page = page → ∀ id, f.who ≠ .remote id) →
        ∃ u, exec i s = .next u ∧ u.asked = s.asked.filter (· != (cfg.root, page)) ∧
        u.replies = s.replies ++ [.ok "answer"] ∧
        (∀ d ∈ u.dies, ∀ f ∈ d.2.faults ++ d.2.waiting, ¬ (f.root = cfg.root ∧ f.page = page)) ∧
        (repaired = true → u.teams = s.teams) ∧
        (repaired = false → ∀ t x, aget s.teams t = some x →
          (∃ d ∈ s.dies, ∃ f ∈ d.2.faults ++ d.2.waiting, f.root = cfg.root ∧ f.page = page ∧ f.who = .team t) →
          ∃ y, aget u.teams t = some y ∧ ∀ va, y.deniedAt va = true ↔ x.deniedAt va = true ∨ va / 2 ^ 16 = page)) ∧
      (cfg.requester = who → (cfg.root, page) ∈ s.asked → ∀ id r f, aget s.remotes id = some r → f.who = .remote id →
        (s.dies.flatMap fun d => (d.2.faults ++ d.2.waiting).filter fun f => f.root == cfg.root && f.page == page) = [f] →
        let free := State.dropFills { s with remotes := adel s.remotes id, asked := s.asked.filter (· != (cfg.root, page)) }
          fun f => f.root == cfg.root && f.page == page
        let said := fun (u : State) (r : Reply) => ({ u with replies := u.replies ++ [r] } : State)
        (repaired = true → exec i s = .next (said (free.remoteAccess id r) (.ok "answer"))) ∧
        (repaired = false → exec i s = .next (said (said free (.error "translation")) (.ok "answer"))))) ∧
  ∀ (s : State) who q addr n,
    let said := fun (s : State) (r : Reply) => ({ s with replies := s.replies ++ [r] } : State)
    let i := Instr.invalidateRange ⟨q, who⟩ addr n
    ((s.queue q).cfg = none → exec i s = .next (said s (.error "queue not configured"))) ∧
    ∀ cfg, (s.queue q).cfg = some cfg →
      (cfg.requester ≠ who → exec i s = .next (said s (.error "requester"))) ∧
      (cfg.requester = who → addr.toNat % 2 ^ 16 ≠ 0 ∨ 2 ^ 52 ≤ addr.toNat → exec i s = .next (said s (.error "address"))) ∧
      (cfg.requester = who → addr.toNat % 2 ^ 16 = 0 → addr.toNat < 2 ^ 52 →
        let outstanding := ∃ p ∈ s.packets, ∃ o d pa key v vs, p.2.kind = .red o 0 d pa key v vs ∧ p.2.root = cfg.root ∧
          (n = 0 ∨ addr.toNat ≤ v.toNat ∧ v.toNat < addr.toNat + 2 ^ 16 * n)
        (outstanding → exec i s = .fault .eventNotEnabled) ∧
        (¬ outstanding → exec i s = .next (said (s.invalidate cfg.root addr.toNat n) (.ok "invalidate"))))

/-- CKPT, EVENT, TLBINV and the events of the system class. -/
def Obligations.SystemEffects : Prop :=
  Sys2Proof.Claims.EventsAndTranslations ∧ Sys2Proof.Claims.VectorFetches ∧ Sys2Proof.Claims.CaptureWrites ∧ Sys2Proof.Claims.SystemEvents

/-! Teams that wait. -/

namespace Sys2Proof.Claims

open Sys2Proof.Machine

/-- What the team waits for has come (R43, R93, R107, R109, R163, R176, R179, R180, R183, R194, R195, R270, R299, R417): by the event that ends the wait. -/
def come (s : State) (t : Nat) (x : Team) : Instr → Park → Prop
  | .yieldParkResume _, .flags m _ => ∀ o ∈ x.ops, ¬ m.getLsbD (o.flag - 1)
  | .yieldParkResume _, .counter a goal _ => goal.toNat ≤ s.counter (.sp (x.core / 64) a)
  | .stageRingResume _, .ring q post => ∃ p r sl, s.place? x.cluster x.core = some p ∧ p.rings[q]? = some r ∧
      (if post then r.slots[r.post]? else r.slots[r.take]?) = some sl ∧ sl.full = !post
  | .atomLockWaitResume _, .lock ls => ∀ b ∈ ls, ∀ u, (s.die (x.core / 64)).holder b = some u → u = t
  | .duskStallRelease _, .dusk bytes =>
    if bytes = [] then s.duskStalls x.core t = false
    else (s.core x.core).linesWith bytes ≤ 4096 ∨ s.duskStalls x.core t = false ∧
      ({ s.core x.core with unpub := (s.core x.core).unpub.filter fun u => u.team != t } : Core).linesWith bytes ≤ 4096
  | .clauseFetchResume _, .fetch => ∀ d ∈ s.dies, ∀ f ∈ d.2.faults ++ d.2.waiting, f.who ≠ .team t
  | .landingLoadResume _, .landing dest bytes =>
    (∀ a ∈ bytes, s.landingLoad dest a ≠ .wait) ∨ ∃ a ∈ bytes, ∃ id, s.landingLoad dest a = .fault id
  | .landingStoreResume _, .landingStore dest bytes => ∀ a ∈ bytes, s.landingStore dest a = true
  | .copyRelease _, .slot => ∀ c r, x.todo.copies = c :: r → aget s.copies (x.core * 1024 + c.handle.toNat % 1024) = none ∧
      s.rangeFree (unitOf c.dst.dest) = true ∧ ∀ rr p q, c.kind = .descend rr p q → ∃ p, FreePlace s p
  | .waveAcceptance _, .wave units => (∃ p, FreePlace s p) ∧ s.rangesFree units = true
  | _, _ => False

/-- The team that an event lets go on. -/
def whose : Instr → Option Nat
  | .yieldParkResume t => some t
  | .stageRingResume t => some t
  | .atomLockWaitResume t => some t
  | .duskStallRelease t => some t
  | .clauseFetchResume t => some t
  | .landingLoadResume t => some t
  | .landingStoreResume t => some t
  | .copyRelease t => some t
  | .waveAcceptance t => some t
  | _ => none

/-- A flag's operation is over (R209, R214). -/
def isOver (s : State) : OpRef → Prop
  | .cwait loc n => n.toNat ≤ s.counter loc
  | .bwait h ph _ _ => h.toNat / 2 ^ 16 ≠ 0 ∨ s.barrier? h = none ∨
      ∃ b, s.barrier? h = some b ∧ (b.err ≠ none ∨ 1 ≤ (b.phase - ph).toNat ∧ (b.phase - ph).toNat ≤ 2 ^ 31)
  | _ => False

end Sys2Proof.Claims

/-- R93, R94, R107, R109, R163, R175, R176, R179, R180, R183, R194, R195, R270, R417: a resident team that waits goes on, with nothing else changed, as what it waits for has come. A load that
comes back to the array comes alone (log 22), and so do the lines that a stack access needs, read under their page's key. R177: a core whose teams all wait in an idle way sees what its die has
published. -/
def Sys2Proof.Claims.WaitsEndPart : Prop :=
  (∀ i (s : State) t x p, whose i = some t → aget s.teams t = some x → t ∈ (s.core x.core).age → x.park = some p →
    come s t x i p → exec i s = .next (s.putTeam t { x with park := none })) ∧
  (∀ (s : State) t x f r, aget s.teams t = some x → x.late = [] → x.inFlight = f :: r →
    exec (.loadCompletion t) s = .next (s.putTeam t { x with inFlight := r })) ∧
  (∀ (s : State) t x lines, aget s.teams t = some x → t ∈ (s.core x.core).age → x.park = some (.stack lines) →
    ∃ u : State, exec (.stackFillComplete t) s = .next (u.putTeam t { x with park := none }) ∧ u.teams = s.teams ∧ u.dies = s.dies ∧
      (∀ l, lines = [l] → (s.core x.core).stack.length < Config.stackLines → (∀ m ∈ (s.core x.core).stack, m.team = t → m.line ≠ l) →
        (∀ e, s.xlate (s.rootOf x.launch) (128 * l) .read = .ok e → ∃ m, (u.core x.core).stack = (s.core x.core).stack ++ [m] ∧
          m.team = t ∧ m.line = l ∧ m.pa = e.pa (128 * l) ∧ m.key = s.keyVal e.key ∧ m.dirty = false ∧
          ∀ k, k < 128 → tget zeros m.data k = s.plainByte (s.keyVal e.key) (e.pa (128 * l) + k)) ∧
        ((∀ a e, s.xlate (s.rootOf x.launch) (128 * l) a ≠ .ok e) → u = s))) ∧
  ∀ (s : State) core, (s.core core).age ≠ [] → (s.core core).snap < (s.die (core / 64)).pubs.length →
    (∀ t ∈ (s.core core).age, ∃ x p, aget s.teams t = some x ∧ x.park = some p ∧
      ((∃ m c, p = .flags m c) ∨ (∃ a g c, p = .counter a g c) ∨ (∃ q b, p = .ring q b) ∨ (∃ e, p = .allowance e) ∨
        p = .halt ∨ ∃ bs, p = .dusk bs)) →
    exec (.idleRefresh core) s = .next (s.putCore core { s.core core with snap := (s.die (core / 64)).pubs.length, segs := [] })

/-- R43, R209, R214: the operations of a team whose counter has reached its target, or whose barrier's phase has passed, leave its flags, and a BWAIT's word is then written
in the lanes of its mask: on a barrier of this module 1 unless that phase completed in error, 0 for a stale handle, 0 or 1 for a peer's. On a barrier with its error bit every phase is over (log 29). -/
def Sys2Proof.Claims.OperationsComplete : Prop :=
  (∀ (s : State) t x, aget s.teams t = some x →
    let refs := x.ops.map (·.ref) ++ x.pendRegs.map (·.ref)
    (∃ r ∈ refs, isOver s r) → ∃ y, exec (.counterPoll t) s = .next (({ s with fresh := s.fresh + 1 } : State).putTeam t y) ∧
      (∀ o, o ∈ y.ops ↔ o ∈ x.ops ∧ ¬ isOver s o.ref) ∧ (∀ o, o ∈ y.pendRegs ↔ o ∈ x.pendRegs ∧ ¬ isOver s o.ref) ∧
      y = { x with ops := y.ops, pendRegs := y.pendRegs, regs := y.regs, ofile := y.ofile, spanLog := y.spanLog, dirty := y.dirty } ∧
      ((∀ r ∈ refs, isOver s r → ∃ loc n, r = .cwait loc n) → y.regs = x.regs ∧ y.ofile = x.ofile) ∧
      ∀ h ph reg mask, (∀ r ∈ refs, isOver s r → r = .bwait h ph reg mask) → ∃ v,
        (reg < 256 → y.ofile = x.ofile ∧
          ∀ n l, l < 1024 → y.reg n l = if n = reg ∧ mask.getLsbD l = true ∧ l < x.lanes then v else x.reg n l) ∧
        (256 ≤ reg → reg < 264 → y.regs = x.regs ∧ ∀ j l, l < 1024 → tget zeros y.ofile (j * 1024 + l) =
          if j + 256 = reg ∧ mask.getLsbD l = true ∧ l < x.lanes then v else tget zeros x.ofile (j * 1024 + l)) ∧
        (264 ≤ reg → y.regs = x.regs ∧ y.ofile = x.ofile) ∧ (v = 0#32 ∨ v = 1#32) ∧
        (h.toNat / 2 ^ 16 = 0 → s.barrier? h = none → v = 0#32) ∧
        (∀ b, s.barrier? h = some b → v = match b.err with
          | none => 1#32
          | some e => truth (decide (2 ^ 31 ≤ (ph - e).toNat))))

/-- How waits end. -/
def Obligations.WaitsEnd : Prop := Sys2Proof.Claims.WaitsEndPart ∧ Sys2Proof.Claims.OperationsComplete

/-! Launches. -/

namespace Sys2Proof.Claims

open Sys2Proof.Machine

/-- n bytes of a list from offset o, least significant first. -/
def num (bs : List Byte) (n o : Nat) : Nat := leNat ((bs.drop o).take n)

/-- A dependence of a launch message (R339). -/
def dependence (bs : List Byte) (o : Nat) : List (Nat × Nat) :=
  if 2 ^ 63 ≤ num bs 8 o then [(num bs 8 o / 2 ^ 56 % 2 ^ 6, num bs 8 o % 2 ^ 56)] else []

/-- Cluster word c of a chart (R86). -/
def chartAt (raw : List Byte) (c : Nat) : Nat := num raw 4 (4 * c)

/-- The core of team t of cluster c (R85, R86). -/
def teamAt (bs raw : List Byte) (c t : Nat) : Nat :=
  chartPlace (chartAt raw c) (num raw 1 (4 * num bs 2 36 + c * num bs 2 38 + t))

/-- Teams of cluster c on a core. -/
def teamsAt (bs raw : List Byte) (c n : Nat) : Nat := ((List.range (num bs 2 38)).filter fun t => teamAt bs raw c t == n).length

/-- Register rows of a team (R18). -/
def rowsOf (bs : List Byte) : Nat := (num bs 2 40 + 31) / 32 * num bs 2 42

/-- Clusters that name a core. -/
def naming (bs raw : List Byte) (n : Nat) : List Nat :=
  (List.range (num bs 2 36)).filter fun c => (List.range (chartArea (chartAt raw c))).any fun p => chartPlace (chartAt raw c) p == n

/-- The checks of a launch record bs, a chart raw and a role table (R85 to R87), by their codes. -/
def passes (s : State) (bs raw roles : List Byte) : Nat → Prop
  | 1 => num bs 4 0 = 1 ∧ num bs 4 4 < 8 ∧ (∀ b ∈ (bs.drop 49).take 7, b = 0#8) ∧ ∀ b ∈ (bs.drop 122).take 6, b = 0#8
  | 2 => 1 ≤ num bs 2 36 ∧ num bs 2 36 ≤ 16384 ∧ 1 ≤ num bs 2 38 ∧ num bs 2 38 ≤ 64 ∧ 1 ≤ num bs 2 40 ∧ num bs 2 40 ≤ 1024 ∧
      16 ≤ num bs 2 42 ∧ num bs 2 42 ≤ 256 ∧ num bs 2 42 % 16 = 0 ∧ num bs 4 44 % 4096 = 0 ∧ num bs 4 44 ≤ 2 ^ 19 ∧
      num bs 1 48 ≤ 16 ∧ (∀ q, q < num bs 1 48 → 1 ≤ num bs 1 (64 + q) ∧ num bs 1 (64 + q) ≤ 16) ∧
      num bs 4 20 % 4 = 0 ∧ num bs 4 20 < num bs 4 16 ∧ num bs 8 8 % 2 ^ 16 = 0 ∧ num bs 8 8 < 2 ^ 52 ∧
      (num bs 4 96 = 0 ∨ num bs 8 88 % 32 = 0) ∧ (num bs 4 100 = 0 ∨ num bs 8 104 % 8 = 0) ∧
      (num bs 2 120 = 0 ∨ num bs 8 112 % 4 = 0) ∧ num bs 2 120 ≤ 256 ∧ num bs 4 32 % 16 = 0
  | 3 => num bs 4 32 ≤ num bs 4 44
  | 4 => ∀ c, c < num bs 2 36 → let w := chartAt raw c
      w < 2 ^ 16 ∧ 1 ≤ w / 2 ^ 12 % 16 ∧ 1 ≤ w / 2 ^ 8 % 16 ∧ w / 2 ^ 5 % 8 + w / 2 ^ 12 % 16 ≤ 8 ∧
        w / 4 % 8 + w / 2 ^ 8 % 16 ≤ 8 ∧ chartArea w ≤ 12
  | 5 => ∀ c t, c < num bs 2 36 → t < num bs 2 38 →
      num raw 1 (4 * num bs 2 36 + c * num bs 2 38 + t) < chartArea (chartAt raw c)
  | 6 => ∀ c p, c < num bs 2 36 → p < chartArea (chartAt raw c) → let n := chartPlace (chartAt raw c) p
      n < 256 ∧ s.physical n ∉ s.failedCores
  | 7 => ∀ c p, c < num bs 2 36 → p < chartArea (chartAt raw c) → let n := teamsAt bs raw c (chartPlace (chartAt raw c) p)
      n ≤ 64 ∧ n * rowsOf bs ≤ 6144
  | 8 => num bs 4 4 / 4 % 2 = 1 → ∀ b ∈ roles, 1 ≤ b.toNat ∧ b.toNat ≤ 3
  | 9 => num bs 4 4 / 2 % 2 = 1 → num bs 2 40 ≤ 64
  | 10 => num bs 4 4 % 2 = 1 → ∀ c p, c < num bs 2 36 → p < chartArea (chartAt raw c) →
      let n := chartPlace (chartAt raw c) p
      let on := naming bs raw n
      let teams := (on.map fun c => teamsAt bs raw c n).sum
      teams ≤ 64 ∧ teams * rowsOf bs ≤ 6144 ∧ num bs 4 44 * on.length ≤ 2 ^ 19 ∧ num bs 1 48 * on.length ≤ 16
  | 11 => num bs 2 120 = 0 ∨ 64 ≤ num bs 2 42
  | _ => True

/-- n bytes of an address space can be read by the check (R87, code 12). -/
def Readable (s : State) (root : BitVec 48) (va n : Nat) : Prop :=
  s.faultIn root va n .read = none ∧ s.badVa root .read va n = false

end Sys2Proof.Claims

/-- R339: a message of 144 bytes for a queue that is configured waits behind the others of its queue, with its dependences and its header; for another queue it is answered with an
error and changes nothing. -/
def Sys2Proof.Claims.LaunchMessages : Prop :=
  ∀ (s : State) q payload, q < 64 → payload.length = 144 → s.phase = .ready →
    ((s.queue q).cfg = none →
      exec (.launchMessage q payload) s = .next { s with replies := s.replies ++ [.error "queue not configured"] }) ∧
    ((s.queue q).cfg ≠ none → exec (.launchMessage q payload) s = .next { s with queues := aput s.queues q { s.queue q with
      waiting := (s.queue q).waiting ++ [{ deps := dependence payload 0 ++ dependence payload 8, header := payload.drop 16 }] } })

/-- R85 to R87, R339, R364: the first waiting launch of a queue, once its dependences hold, is checked: the first check that fails rejects it with its code, it counts as
ended, takes the queue's next sequence number (log 35), and the host gets an event of kind 2 with that number; a cluster word of width or height 0 takes code 4 (log 35); with all passed it is accepted, with the queue's next sequence number. A chart that meets a translation fault
parks the check, one that does not match its check value rejects it with code 12. -/
def Sys2Proof.Claims.LaunchChecksPart : Prop :=
  ∀ (s : State) q cfg w rest, (s.queue q).cfg = some cfg → (s.queue q).waiting = w :: rest → (s.queue q).parked = false →
    (∀ d ∈ w.deps, d.2 ≤ (s.queue d.1).ended) →
    let Q := s.queue q
    let bs := w.header
    let n := 4 * num bs 2 36 + num bs 2 36 * num bs 2 38
    let raw := s.vaBytes cfg.root .read (num bs 8 56) n
    let declared := num bs 4 4 / 4 % 2 = 1
    let roles := if declared then s.vaBytes cfg.root .read (num bs 8 80) (num bs 2 38) else []
    let Rejected := fun (code : Nat) => exec (.launchCheck q) s = .next (({ s with queues := aput s.queues q { Q with
      waiting := rest, nextSeq := Q.nextSeq + 1, ended := (Q.ended + 1) % 2 ^ 56, denied := none } } : State).sendEvent 2 q Q.nextSeq
        (mod32 code) 0)
    (∀ k, k = 1 ∨ k = 2 ∨ k = 3 → (∀ j, 1 ≤ j → j < k → passes s bs raw roles j) → ¬ passes s bs raw roles k → Rejected k) ∧
    ((∀ j, 1 ≤ j → j < 4 → passes s bs raw roles j) →
      (s.faultIn cfg.root (num bs 8 56) n .read = none → s.badVa cfg.root .read (num bs 8 56) n = true → Rejected 12) ∧
      (∀ k va, s.faultIn cfg.root (num bs 8 56) n .read = some (k, va) → Q.denied = none →
        exec (.launchCheck q) s = .next (({ s with queues := aput s.queues q { Q with parked := true } } : State).raiseFaultIn 0
          cfg.root q Q.nextSeq (.check q) k va))) ∧
    (Readable s cfg.root (num bs 8 56) n → (declared → Readable s cfg.root (num bs 8 80) (num bs 2 38)) →
      Readable s cfg.root (num bs 8 24) (num bs 4 32) →
      (∀ k, k < 12 → (∀ j, 1 ≤ j → j < k → passes s bs raw roles j) → ¬ passes s bs raw roles k → Rejected k) ∧
      ((∀ j, 1 ≤ j → j < 12 → passes s bs raw roles j) → ∃ l,
        exec (.launchCheck q) s = .next { s with
          nextId := s.nextId + 1,
          queues := aput s.queues q { Q with waiting := rest, nextSeq := Q.nextSeq + 1, denied := none },
          launches := aput s.launches s.nextId l } ∧
        l.queue = q ∧ l.seq = Q.nextSeq ∧ l.next = 0 ∧ l.phase = .running ∧ l.hdr.codeBase.toNat = num bs 8 8 ∧
        l.hdr.codeLen = num bs 4 16 ∧ l.hdr.entry = num bs 4 20 ∧ l.hdr.clusters = num bs 2 36 ∧ l.hdr.teams = num bs 2 38 ∧
        l.hdr.lanes = num bs 2 40 ∧ l.hdr.regs = num bs 2 42 ∧ l.hdr.shared = num bs 4 44 ∧ l.hdr.rings = num bs 1 48 ∧
        l.hdr.sched.toNat = num bs 8 88 ∧ l.hdr.schedN = num bs 4 96 ∧ l.hdr.atabN = num bs 4 100 ∧
        l.hdr.atab.toNat = num bs 8 104 ∧ l.hdr.htab.toNat = num bs 8 112 ∧ l.hdr.handlers = num bs 2 120 ∧
        (∀ c, c < num bs 2 36 → ∃ v : Word, l.chart[c]? = some v ∧ v.toNat = chartAt raw c) ∧
        (∀ k, k < num bs 2 36 * num bs 2 38 → l.places[k]? = some (num raw 1 (4 * num bs 2 36 + k))) ∧
        l.roles = roles.map (·.toNat) ∧ l.args = s.vaBytes cfg.root .read (num bs 8 24) (num bs 4 32)))

/-- Launch messages and their checks. -/
def Obligations.LaunchChecks : Prop := Sys2Proof.Claims.LaunchMessages ∧ Sys2Proof.Claims.LaunchChecksPart

namespace Sys2Proof.Claims

open Sys2Proof.Machine

/-- Two cluster words name a common core (R86). -/
def share (a b : Word) : Prop :=
  ∃ p q, p < chartArea a.toNat ∧ q < chartArea b.toNat ∧ chartPlace a.toNat p = chartPlace b.toNat q

/-- The n clusters of a launch from the next one on share no core with one behind them (R88). -/
def Apart (l : Launch) (n : Nat) : Prop :=
  ∀ i j a b, l.next ≤ i → i < l.next + n → l.next + n ≤ j → l.chart[i]? = some a → l.chart[j]? = some b → ¬ share a b

/-- How many clusters are admitted together (R88): one; in a deterministic launch as many as share cores with one another, in their order
(log 36). -/
def Together (l : Launch) (n : Nat) : Prop :=
  1 ≤ n ∧ l.next + n ≤ l.chart.length ∧
    if l.hdr.flags.getLsbD 0 = false then n = 1 else Apart l n ∧ ∀ m, 1 ≤ m → m < n → ¬ Apart l m

end Sys2Proof.Claims

/-- R82, R86, R88, R89, R92, R97, R339: the next cluster of the launch whose turn it is in its queue is admitted whole as every core of its rectangle has room: the argument block at the start of
its shared memory on each core, 0 behind it, empty rings, then its teams, each on its core at the tail of its age order, in the start state. The clusters of a
deterministic launch that share cores are admitted together (log 36), and their teams join the rotations of their cores in that order. -/
def Obligations.Admission : Prop :=
  ∀ (s : State) id l n, aget s.launches id = some l → s.itsTurn id l = true → Together l n → s.batchFits id l l.batch = true →
    s.overtaken l (batchCores l.batch) = false →
    l.batch = ((List.range n).map fun k => (l.next + k, l.chart.getD (l.next + k) 0#32)) ∧
    ∃ u, exec (.clusterAdmission id) s = .next u ∧ (∃ k, aget u.launches id = some k ∧ k.next = l.next + n) ∧
      let T := l.hdr.teams
      let place := fun (k t : Nat) => chartPlace (l.chart.getD (l.next + k) 0#32).toNat (l.places.getD ((l.next + k) * T + t) 0)
      let on := fun (c : Nat) => (((List.range n).flatMap fun k => (List.range T).map fun t => (k, t)).filter fun q => place q.1 q.2 == c).map
        fun q => s.nextId + (q.1 * T + q.2)
      u.nextId = s.nextId + n * T ∧
      (∀ c, (u.core c).age = (s.core c).age ++ on c ∧
        (u.core c).rotation = (s.core c).rotation ++ if l.hdr.flags.getLsbD 0 = true then on c else []) ∧
      ∀ k, k < n → ∀ w : Word, l.chart[l.next + k]? = some w →
        let key := id * 2 ^ 14 + (l.next + k)
        (∃ cl, aget u.clusters key = some cl ∧ cl.launch = id ∧ cl.index = l.next + k ∧ cl.resident = true ∧
          cl.die = w.toNat % 4 ∧ cl.x0 = w.toNat / 2 ^ 5 % 8 ∧ cl.y0 = w.toNat / 4 % 8 ∧ cl.width = w.toNat / 2 ^ 12 % 16 ∧
          cl.height = w.toNat / 2 ^ 8 % 16 ∧ cl.places.length = chartArea w.toNat ∧
          ∀ p, p < chartArea w.toNat → ∃ k, cl.places[p]? = some k ∧ k.core = chartPlace w.toNat p ∧ k.pos = p ∧
            k.bound = none ∧ k.cursor = 0 ∧ (∀ a, tget zeros k.sh a = l.args.getD a 0#8) ∧
            ∀ j, k.rings[j]? = if j < l.hdr.rings then (l.hdr.ringSlots[j]?).map fun n => { slots := List.replicate n {} } else none) ∧
        ∀ t, t < T → ∃ y, aget u.teams (s.nextId + (k * T + t)) = some y ∧
          Started y id key (place k t) t (l.roles.getD t 0) l.hdr.lanes l.hdr.regs l.hdr.entry (fun _ _ => 0#32)

/-! Pre-emption and restoration. -/

/-- R215, R295, R343, R353, R361, R369: pre-emption suspends a launch, in one step (log 37), whose array operations, reductions and implicit DUSKs are done and whose copies have completed as far as they have landed, its loads performed: its teams leave their cores, and its copies
and waves are frozen; restoration, which waits for room and for an earlier fault's answer (log 37), makes the teams resident again, on cores of the same shape, and lets copies and waves go on. Where a page of the save area or of a window does not translate, the
host is told first. A requester that the queue does not name, a launch that is not in the phase, or a rectangle on another die or with a place outside the grid (R353), is answered with an error and
changes nothing. -/
def Obligations.PreEmptionAndRestoration : Prop :=
  ∀ (s : State) who q seq,
    let said := fun (r : Reply) => ({ s with replies := s.replies ++ [r] } : State)
    let Asks := ∃ cfg, (s.queue q).cfg = some cfg ∧ cfg.requester = who
    (∀ save,
      (¬ Asks → exec (.preempt ⟨q, who⟩ seq save) s = .next (said (.error "requester"))) ∧
      (Asks → s.launchAt q seq .running = none → exec (.preempt ⟨q, who⟩ seq save) s = .next (said (.error "launch"))) ∧
      ∀ id l d, Asks → s.launchAt q seq .running = some (id, l) → s.drained id = true → s.saveParked id = false →
        let p := (s.teamsOf id).foldl (fun s t => s.performLoads t.1) s
        p.duskAll id (p.teamsOf id) = some d →
        let area := d.savePieces id save.toNat
        (∀ k va, d.piecesFault (d.rootOf id) l.lost area = some (k, va) →
          exec (.preempt ⟨q, who⟩ seq save) s = .next (p.raiseFault 0 id (.save id) k va)) ∧
        (d.piecesFault (d.rootOf id) l.lost area = none →
          ∃ u, exec (.preempt ⟨q, who⟩ seq save) s = .next u ∧ (∃ k, aget u.launches id = some k ∧ k.phase = .suspended) ∧
            (∀ m ∈ s.teams, m.2.launch = id → m.1 ∉ (u.core m.2.core).age) ∧
            (∀ c ∈ u.copies, c.2.launch = id → c.2.frozen = true) ∧ (∀ w ∈ u.waves, w.2.launch = id → w.2.frozen = true) ∧
            u.replies.getLast? = some (.ok "preempt"))) ∧
    ∀ moves,
      (¬ Asks → exec (.restore ⟨q, who⟩ seq moves) s = .next (said (.error "requester"))) ∧
      (Asks → s.launchAt q seq .suspended = none → exec (.restore ⟨q, who⟩ seq moves) s = .next (said (.error "launch"))) ∧
      ∀ id l, Asks → s.launchAt q seq .suspended = some (id, l) →
        ((∃ m ∈ moves, ∀ c ∈ s.clustersOf id, c.2.index = m.1 → c.2.die = m.2.1 → 8 < m.2.2.1 + c.2.width ∨ 8 < m.2.2.2 + c.2.height) →
          exec (.restore ⟨q, who⟩ seq moves) s = .next (said (.error "rectangle"))) ∧
        ((∀ m ∈ moves, moveOk (s.clustersOf id) m = true) → s.saveParked id = false →
          (∀ k va, s.spansFault (s.rootOf id) l.lost (s.restoreSpans id l) = some (k, va) →
            exec (.restore ⟨q, who⟩ seq moves) s = .next (s.raiseFault 0 id (.save id) k va)) ∧
          (s.spansFault (s.rootOf id) l.lost (s.restoreSpans id l) = none →
            let b := s.readBack id l
            let new := (b.clustersOf id).map fun c => (c.1, c.2.moved moves)
            ∀ r x, b.relocate id new = some r → aget r.launches id = some x → r.restoreFits id x new = true →
              ∃ u, exec (.restore ⟨q, who⟩ seq moves) s = .next u ∧ (∃ k, aget u.launches id = some k ∧ k.phase = .running) ∧
                (∀ p ∈ r.teams, p.2.launch = id → p.1 ∈ (u.core p.2.core).age) ∧
                (∀ c ∈ u.copies, c.2.launch = id → c.2.frozen = false) ∧ (∀ w ∈ u.waves, w.2.launch = id → w.2.frozen = false) ∧
                u.replies.getLast? = some (.ok "restore")))

/-! The management endpoint, bring-up, failures, power. -/

namespace Sys2Proof.Claims

open Sys2Proof.Machine

/-- The owner signed the operation, with a sequence number above the last (R369). -/
def Owner (s : State) (sig : Signed) : Prop := sig.valid = true ∧ s.mgmt.seqNo < sig.seqNo ∧ s.mgmt.owner = some sig.keyDigest

/-- The state with an answer. -/
def answered (s : State) (r : Reply) : State := { s with replies := s.replies ++ [r] }

/-- The state behind a signature's check. -/
def sealed (s : State) (sig : Signed) : State := { s with mgmt := { s.mgmt with seqNo := sig.seqNo } }

/-- The bank that is active after a reset, and whether one boots (R367). -/
def boots (m : Mgmt) (second : Bool) : Prop :=
  let b := if second then m.bank1 else m.bank0
  b.good = true ∧ m.rollback ≤ b.version

/-- Nothing of before a bring-up is left, and what its tests find failing is out of use (R373): links with an event of kind 7 each, once the
module is ready. -/
def Anew (s u : State) (found : Found) : Prop :=
  u.keys = [] ∧ u.queues = [] ∧ u.launches = [] ∧ u.clusters = [] ∧ u.teams = [] ∧ u.cores = [] ∧ u.dies = [] ∧ u.tlb = [] ∧
    u.graphs = [] ∧ u.waves = [] ∧ u.copies = [] ∧ u.ranges = [] ∧ u.packets = [] ∧ u.sums = [] ∧ u.asked = [] ∧ u.islands = [] ∧
    u.mgmt.owner = s.mgmt.owner ∧ u.mgmt.sigIndex = s.mgmt.sigIndex ∧ u.mgmt.pending = false ∧
    (∀ n, n ∈ u.failedCores ↔ n ∈ s.failedCores ∨ (n ∈ found.cores ∧ n < 288)) ∧
    (∀ n, n ∈ u.engines ↔ n ∈ s.engines ∨ (n ∈ found.engines ∧ n < 396)) ∧
    (∀ n, n ∈ u.downPorts ↔ n ∈ found.ports ∧ n < 8) ∧
    (u.phase = .ready → (∀ n, (u.link n).up = !found.links.contains n) ∧
      u.events.map (fun e => (e.dest, e.kind, e.code)) = found.links.map fun n => (EventDest.management, 7, mod32 n)) ∧
    (u.phase = .recovery → u.events = [])

/-- What the signature of an attestation report covers (R368). -/
def attested (s : State) (bank : Bank) (nonce : BitVec 256) : List Byte :=
  leBytes 32 nonce.toNat ++ leBytes 16 Config.serial.toNat ++ leBytes 4 0x00B00401 ++ leBytes 32 bank.digest.toNat ++
    leBytes 4 bank.version ++ leBytes 32 ((s.mgmt.owner.map (·.toNat)).getD 0) ++ leBytes 32 (Config.mlkemDigest s.mgmt.mlkem).toNat ++
    leBytes 4 s.keys.length

/-- Wake times in nanoseconds of an island's power states (R370). -/
def wakes (n : Nat) : Power → Option Nat
  | .noon => some 0
  | .evening => some 100
  | .night => some (if n = 60 ∨ n = 61 then 20000 else 10000)
  | .midnight => if n < 48 then some 300000 else if n < 60 then some 50000 else none

/-- How deep a power state is (R370). -/
def depth : Power → Nat
  | .noon => 0
  | .evening => 1
  | .night => 2
  | .midnight => 3

/-- An island can enter a power state within every queue's latency tolerance (R371). -/
def Tolerates (s : State) (n : Nat) (p : Power) : Prop :=
  ∃ w, wakes n p = some w ∧ ∀ q ∈ s.queues, ∀ cfg, q.2.cfg = some cfg → w ≤ cfg.tolerance

end Sys2Proof.Claims

/-- R338, R362, R367 to R369: an operation that the owner signed, with a higher sequence number, is done and answered: the owner's enrolment, an update written to the bank that is not active, which then becomes
active at the next reset if it verifies under the key whose digest is fused, a queue's configuration, a key unwrapped and loaded, if it unwraps (log 39), or unloaded; any other is answered with an error and changes nothing. Attestation signs
the report with one signature index, until 2^20 (log 4). -/
def Sys2Proof.Claims.ManagementPart : Prop :=
  ∀ (s : State) sig, s.phase ≠ .off →
    (∀ key,
      (s.phase = .ready → Owner s sig ∨ s.mgmt.owner = none ∧ sig.valid = true ∧ s.mgmt.seqNo < sig.seqNo ∧ sig.keyDigest = key →
        exec (.enrolOwner sig key) s = .next (answered { s with mgmt := { s.mgmt with seqNo := sig.seqNo, owner := some key } } (.ok "enrol"))) ∧
      (¬ Owner s sig → s.mgmt.owner ≠ none → exec (.enrolOwner sig key) s = .next (answered s (.error "enrol")))) ∧
    (∀ image : FwImage,
      let signed := image.signatureGood && decide (image.keyDigest = s.mgmt.fused)
      let bank : Bank := { good := signed, version := image.secVersion, digest := image.digest }
      let good := signed && decide (s.mgmt.rollback ≤ image.secVersion)
      (Owner s sig →
        exec (.updateFirmware sig image) s = .next (answered { s with
          mgmt := if s.mgmt.second then { s.mgmt with seqNo := sig.seqNo, bank0 := bank, pending := good }
            else { s.mgmt with seqNo := sig.seqNo, bank1 := bank, pending := good } } (.ok "update"))) ∧
      (¬ Owner s sig → exec (.updateFirmware sig image) s = .next (answered s (.error "update")))) ∧
    (∀ q (cfg : QueueCfg),
      let ok := q < 64 ∧ cfg.priority ≤ 7 ∧ cfg.peers ≤ 256
      (s.phase = .ready → Owner s sig → ok → exec (.configureQueue sig q cfg) s = .next (answered ((sealed s sig).putQueue q
        { s.queue q with cfg := some cfg, nextSeq := 0, lostPeers := [] }) (.ok "configure"))) ∧
      (s.phase ≠ .ready ∨ ¬ Owner s sig ∨ ¬ ok → exec (.configureQueue sig q cfg) s = .next (answered s (.error "configure")))) ∧
    (∀ slot text wrapped,
      let ok := 1 ≤ slot ∧ slot ≤ 8191
      (s.phase = .ready → Owner s sig → ok →
        (∀ k, Config.unwrapKey s.mgmt.mlkem text wrapped = some k →
          exec (.loadKey sig slot ⟨text, wrapped⟩) s = .next (answered { sealed s sig with keys := aput s.keys slot k } (.ok "load key"))) ∧
        (Config.unwrapKey s.mgmt.mlkem text wrapped = none →
          exec (.loadKey sig slot ⟨text, wrapped⟩) s = .next (answered s (.error "load key"))) ∧
        exec (.unloadKey sig slot) s = .next (answered { sealed s sig with keys := adel s.keys slot } (.ok "unload key"))) ∧
      (s.phase ≠ .ready ∨ ¬ Owner s sig ∨ ¬ ok →
        exec (.loadKey sig slot ⟨text, wrapped⟩) s = .next (answered s (.error "load key")) ∧
        exec (.unloadKey sig slot) s = .next (answered s (.error "unload key")))) ∧
    ∀ nonce,
      let bank := if s.mgmt.second then s.mgmt.bank1 else s.mgmt.bank0
      (s.mgmt.sigIndex < 2 ^ 20 → exec (.attest nonce) s = .next (answered { s with mgmt := { s.mgmt with sigIndex := s.mgmt.sigIndex + 1 } }
        (.report nonce Config.serial 0x00B00401#32 bank.digest bank.version s.mgmt.owner (Config.mlkemDigest s.mgmt.mlkem)
          s.keys.length (s.mgmt.sigIndex + 1) (Config.xmssSign s.mgmt.identity (s.mgmt.sigIndex + 1) (attested s bank nonce))))) ∧
      (2 ^ 20 ≤ s.mgmt.sigIndex → exec (.attest nonce) s = .next (answered s .exhausted))

/-- R367, R373: a reset that the owner signed, and power-on, bring the module up anew, ready when a bank boots, the pending one first, else in recovery; cores, engines, links and ports that the tests of
bring-up find failing are out of use; a reset command keeps main memory as it was stored (log 20). -/
def Sys2Proof.Claims.BringUp : Prop :=
  ∀ s : State,
    let m := s.mgmt
    let first := m.second ^^ m.pending
    let Up := fun (u : State) => Anew s u s.defects ∧
      (boots m first → u.phase = .ready ∧ u.mgmt.second = first) ∧
      (¬ boots m first → boots m (!first) → u.phase = .ready ∧ u.mgmt.second = !first) ∧
      (¬ boots m first → ¬ boots m (!first) → u.phase = .recovery)
    (∀ sig, s.phase = .ready → Owner s sig → ∃ u, exec (.reset sig) s = .next u ∧ Up u ∧ u.mem = s.mem ∧ u.forms = s.forms ∧
      u.sealed = s.sealed) ∧
    (∀ sig, s.phase ≠ .off → s.phase ≠ .ready ∨ ¬ Owner s sig → exec (.reset sig) s = .next (answered s (.error "reset"))) ∧
    ∃ u, exec .powerOn s = .next u ∧ Up u ∧ u.mem = []

/-- The management endpoint and bring-up. -/
def Obligations.Management : Prop := Sys2Proof.Claims.ManagementPart ∧ Sys2Proof.Claims.BringUp

/-- R177, R354, R356, R358: a failed core is backed by a working spare of its island that backs no other, the host gets an event of kind 4, and each team of the core with an image A is at its last region entry
again, as the image in its window holds it, memory as it is, with the place that TRET goes back to as it was then; where the window cannot be read, as the failed core's own copy holds it (log 21). An array operation that is outstanding there ends its
launch with Code 0x1402; without a spare the launches with a team or a cluster on the core end with Code 0x1401. -/
def Sys2Proof.Claims.CoreFailures : Prop :=
  ∀ (s : State) n, n < 256 → s.physical n ∉ s.failedCores →
    let Spare := fun (q : Nat) => q / 6 = s.physical n / 6 ∧ q ∉ s.failedCores ∧ ∀ k, k < 256 → s.physical k ≠ q
    (∀ q, Spare q → (s.core n).queue = [] → (s.core n).arriving = [] →
      ∃ u, exec (.coreFailure n (some q)) s = .next u ∧ u.failedCores = s.failedCores ++ [s.physical n] ∧ u.physical n = q ∧
        (∀ k, k ≠ n → u.physical k = s.physical k) ∧ u.mem = s.mem ∧ u.clusters = s.clusters ∧
        (u.core n).segs = [] ∧ (u.core n).snap = (s.die (n / 64)).pubs.length ∧
        (∃ c, u.events = s.events ++ [⟨.management, 4, 0, 0, mod32 n, 0#64, c⟩]) ∧
        (∀ t x c, t ∈ (s.core n).age → (s.core n).age.Nodup → aget s.teams t = some x → x.capture = some c → x.lanes ≤ 1024 →
          x.regsN ≤ 256 →
          let va := s.windowVa x
          let root := s.rootOf x.launch
          let row := 32 * ((x.lanes + 31) / 32)
          let word := fun (o : Nat) => leWord (s.vaBytes root .read (va + o) 4)
          ∃ y, aget u.teams t = some y ∧ y.park = none ∧ y.late = [] ∧ y.barRefs = x.barRefs ∧
          y.trap.clause = c.trap.clause ∧ y.trap.idx = c.trap.idx ∧ y.trap.words = c.trap.words ∧ y.trap.started = c.trap.started ∧
          ((∀ o m, 0 < m → o + m ≤ 2 ^ 21 → s.faultIn root (va + o) m .read = none) → x.headQueued = false →
            y.clause.setWidth 32 = word 0 ∧ (word 4 = 0#32 → y.started = false) ∧ y.latchN = bits (word 140) 20 18 ∧
            (∀ l, l < 1024 → y.ctx.mask.getLsbD l = (word (12 + 4 * (l / 32))).getLsbD (l % 32)) ∧
            y.regionPc = word 148 ∧ y.regionN = word 152 ∧ y.retired = word 160 ++ word 156 ∧
            (∀ o ∈ y.ops, o ∈ x.ops ∧ (word 144).getLsbD (o.flag - 1) = true) ∧ y.trap.vec = word 256 ∧
            ∀ r l, r < x.regsN → l < row → 32 * r + l / 32 ∉ x.planes → y.reg r l = word (4096 + 4 * (row * r + l))) ∧
          ((∀ o m, 0 < m → o + m ≤ 2 ^ 21 → s.faultIn root (va + o) m .read ≠ none) →
            ∀ r l, r < x.regsN → l < row → y.reg r l = tget zeros c.regs (1024 * r + l))) ∧
        ∀ t, t ∉ (s.core n).age → aget u.teams t = aget s.teams t) ∧
    (∀ q l k, Spare q → (s.core n).queue ≠ [] ∨ (s.core n).arriving ≠ [] → (s.core n).owner = some l → aget s.launches l = some k →
      ∃ u, exec (.coreFailure n (some q)) s = .next u ∧ ∃ e ∈ u.events, e.kind = 1 ∧ e.queue = k.queue ∧ e.seq = k.seq ∧ e.code = 0x1402#32) ∧
    ((∀ q, ¬ Spare q) → ∃ u, exec (.coreFailure n none) s = .next u ∧ u.failedCores = s.failedCores ++ [s.physical n] ∧
      ∀ id l, ((∃ t ∈ (s.core n).age, ∃ x, aget s.teams t = some x ∧ x.launch = id) ∨ ∃ k ∈ (s.core n).residents, k / 2 ^ 14 = id) →
        aget s.launches id = some l → ∃ e ∈ u.events, e.kind = 1 ∧ e.queue = l.queue ∧ e.seq = l.seq ∧ e.code = 0x1401#32)

/-- R370, R371: an island without work in the noon state enters the deepest state that every queue's tolerance allows; it wakes to noon, as it does at the end of a step in which work has arrived in it (log 9); firmware
sets a clock within noon, at most the nominal one. -/
def Sys2Proof.Claims.PowerStates : Prop :=
  (∀ (s u : State), advance s = .next u → ∃ v, step s = .next v ∧
    ∀ n, v.island n = if u.islandBusy n = true then { u.island n with power := .noon } else u.island n) ∧
  ∀ (s : State) n, n < 64 →
    (∀ p, (s.island n).power = .noon → s.islandBusy n = false → p ≠ .noon → Tolerates s n p →
      (∀ d, depth p < depth d → ¬ Tolerates s n d) →
      ∃ u, exec (.islandSleep n) s = .next u ∧ u.island n = { s.island n with power := p } ∧
        (∀ k, k ≠ n → u.island k = s.island k) ∧ u.mem = s.mem ∧ (p ≠ .midnight → u.cores = s.cores)) ∧
    ((s.island n).power ≠ .noon → exec (.islandWake n) s = .next { s with islands := aput s.islands n { s.island n with power := .noon } }) ∧
    ∀ mhz, (s.island n).power = .noon → 0 < mhz → mhz ≤ (if 48 ≤ n ∧ n < 60 then 1200 else 2000) →
      exec (.clockThrottle n mhz) s = .next { s with islands := aput s.islands n { s.island n with mhz := mhz } }

/-- Core failures and power states. -/
def Obligations.FailuresAndPower : Prop := Sys2Proof.Claims.CoreFailures ∧ Sys2Proof.Claims.PowerStates

/-! What register instructions leave alone. -/

/-- R9, R31, R35, R82: an instruction of the integer or float class, a lane exchange, or an identity read changes nothing but its destination in the active lanes, the latches, and what retiring counts: no flag, no special register, no other
register, no other team, no byte of memory, and no core but its team's issue slot. -/
def Obligations.RegisterInstructionsFrame : Prop :=
  ∀ i s t x d n v u, arithmetic x i = some (d, n, v) ∨ logic x i = some (d, n, v) ∨ exchange x i = some (d, n, v) ∨
      floating x i = some (d, n, v) ∨ identity s x i = some (d, n, v) →
    Runs i s t x → exec i s = .next u →
    (∃ y, aget u.teams t = some y ∧
      (∀ r l, l < 1024 → ¬ (x.act l = true ∧ x.spanReg d n r) → y.reg r l = x.reg r l) ∧
      (∀ j l, l < 1024 → ¬ (x.act l = true ∧ 112 ≤ d.toNat ∧ d.toNat < 120 ∧ d.toNat - 112 ≤ j ∧ j < d.toNat - 112 + n) →
        tget zeros y.ofile (j * 1024 + l) = tget zeros x.ofile (j * 1024 + l)) ∧
      y.ctx = x.ctx ∧ y.streams = x.streams ∧ y.mdata = x.mdata ∧ y.ops = x.ops ∧ y.pendRegs = x.pendRegs ∧ y.trap = x.trap ∧
      y.regionPc = x.regionPc ∧ y.regionN = x.regionN ∧ y.cycHi = x.cycHi ∧ y.retHi = x.retHi ∧ y.barRefs = x.barRefs ∧
      y.redDrop = x.redDrop ∧ y.msgDrop = x.msgDrop ∧ y.sentTo = x.sentTo ∧ y.capture = x.capture ∧ y.planes = x.planes ∧
      y.core = x.core ∧ y.cluster = x.cluster ∧ y.launch = x.launch) ∧
    (∀ k, k ≠ t → aget u.teams k = aget s.teams k) ∧ (∀ k, k ≠ x.core → u.core k = s.core k) ∧
    SameCore (s.core x.core) (u.core x.core) ∧ SameStorage s u ∧ SameWorld s u
end

