-- ==== Sys2Proof/Laws/Table.lean ====
section
/-!
SUPPORT. Laws of collections and sparse tables: reading after writing, and the canonical form.
-/

namespace Sys2Proof.Machine

variable {α : Type} {w : Nat}

@[simp] theorem aget_aput_self (t : List (Nat × α)) (k : Nat) (v : α) : aget (aput t k v) k = some v := by
  induction t with
  | nil => simp [aput, aget]
  | cons c r ih =>
    obtain ⟨a, u⟩ := c
    by_cases h : k < a
    · simp [aput, aget, h]
    · by_cases e : k = a
      · simp [aput, aget, e]
      · simp [aput, aget, h, e, ih]

theorem aget_aput_ne (t : List (Nat × α)) {k j : Nat} (v : α) (h : j ≠ k) : aget (aput t k v) j = aget t j := by
  induction t with
  | nil => simp [aput, aget, h]
  | cons c r ih =>
    obtain ⟨a, u⟩ := c
    by_cases hk : k < a
    · simp [aput, aget, hk, h]
    · by_cases e : k = a
      · subst e
        simp [aput, aget, h]
      · simp only [aput, hk, e, if_false, aget, ih]

@[simp] theorem aput_aput (t : List (Nat × α)) (k : Nat) (v u : α) : aput (aput t k v) k u = aput t k u := by
  induction t with
  | nil => simp [aput]
  | cons c r ih =>
    obtain ⟨a, z⟩ := c
    by_cases h : k < a
    · simp [aput, h]
    · by_cases e : k = a
      · simp [aput, e]
      · simp [aput, h, e, ih]

@[simp] theorem aget_adel_self (t : List (Nat × α)) (k : Nat) : aget (adel t k) k = none := by
  induction t with
  | nil => rfl
  | cons c r ih =>
    obtain ⟨a, u⟩ := c
    simp only [adel] at ih ⊢
    by_cases h : a = k
    · simp [h, ih]
    · simp [h, aget, Ne.symm h, ih]

theorem aget_adel_ne (t : List (Nat × α)) {k j : Nat} (h : j ≠ k) : aget (adel t k) j = aget t j := by
  induction t with
  | nil => rfl
  | cons c r ih =>
    obtain ⟨a, u⟩ := c
    simp only [adel] at ih ⊢
    by_cases e : a = k
    · simp [e, ih, aget, h]
    · simp [e, aget, ih]

theorem above_aput {t : List (Nat × α)} {b k : Nat} (v : α) (hk : b < k) (h : above b t = true) :
    above b (aput t k v) = true := by
  induction t with
  | nil => simpa [aput, above] using hk
  | cons c r ih =>
    obtain ⟨a, u⟩ := c
    simp only [above, List.all_cons, Bool.and_eq_true, decide_eq_true_eq] at h ih ⊢
    by_cases h1 : k < a
    · simp [aput, h1, hk, h.1]
      simpa using h.2
    · by_cases h2 : k = a
      · simp [aput, h2, h.1]
        simpa using h.2
      · simp only [aput, h1, h2, if_false, List.all_cons, Bool.and_eq_true, decide_eq_true_eq]
        exact ⟨h.1, ih h.2⟩

theorem above_trans {t : List (Nat × α)} {a b : Nat} (hab : a ≤ b) (h : above b t = true) : above a t = true := by
  simp only [above, List.all_eq_true, decide_eq_true_eq] at h ⊢
  exact fun c hc => lt_of_le_of_lt hab (h c hc)

/-- Putting an entry keeps the keys rising. -/
theorem awf_aput {t : List (Nat × α)} (k : Nat) (v : α) (h : awf t = true) : awf (aput t k v) = true := by
  induction t with
  | nil => simp [aput, awf, above]
  | cons c r ih =>
    obtain ⟨a, u⟩ := c
    simp only [awf, Bool.and_eq_true] at h
    by_cases h1 : k < a
    · simp only [aput, h1, if_true, awf, Bool.and_eq_true]
      refine ⟨?_, h.1, h.2⟩
      simpa [above, h1] using above_trans (Nat.le_of_lt h1) h.1
    · by_cases h2 : k = a
      · subst h2
        simpa [aput, awf] using h
      · simp only [aput, h1, h2, if_false, awf, Bool.and_eq_true]
        exact ⟨above_aput v (by omega) h.1, ih h.2⟩

/-- Leaving entries out keeps the keys rising. -/
theorem awf_filter {t : List (Nat × α)} (p : Nat × α → Bool) (h : awf t = true) : awf (t.filter p) = true := by
  induction t with
  | nil => rfl
  | cons c r ih =>
    obtain ⟨a, u⟩ := c
    simp only [awf, Bool.and_eq_true] at h
    have ab : above a (r.filter p) = true := by
      have := h.1
      simp only [above, List.all_eq_true, decide_eq_true_eq] at this ⊢
      exact fun c hc => this c (List.mem_of_mem_filter hc)
    by_cases hp : p (a, u) = true
    · simp [hp, awf, ab, ih h.2]
    · simp [hp, ih h.2]

theorem awf_adel {t : List (Nat × α)} (k : Nat) (h : awf t = true) : awf (adel t k) = true := awf_filter _ h

theorem aget_append (t u : List (Nat × α)) (k : Nat) : aget (t ++ u) k = (aget t k).orElse fun _ => aget u k := by
  induction t with
  | nil => rfl
  | cons c r ih =>
    obtain ⟨a, v⟩ := c
    by_cases h : k = a
    · simp [aget, h]
    · simp [aget, h, ih]

theorem aget_none {t : List (Nat × α)} {k : Nat} (h : ∀ c ∈ t, c.1 ≠ k) : aget t k = none := by
  induction t with
  | nil => rfl
  | cons c r ih =>
    obtain ⟨a, v⟩ := c
    have := h (a, v) (List.mem_cons_self ..)
    simp [aget, Ne.symm this, ih fun c hc => h c (List.mem_cons_of_mem _ hc)]

theorem aget_mem {t : List (Nat × α)} {k : Nat} {v : α} (h : aget t k = some v) : (k, v) ∈ t := by
  induction t with
  | nil => simp [aget] at h
  | cons c r ih =>
    obtain ⟨a, u⟩ := c
    by_cases e : k = a
    · subst e
      simp only [aget, if_true, Option.some.injEq] at h
      simp [h]
    · simp only [aget, e, if_false] at h
      exact List.mem_cons_of_mem _ (ih h)

/-- A shifted collection, read at a shifted key. -/
theorem aget_shift (t : List (Nat × α)) (n k : Nat) : aget (t.map fun c => (c.1 + n, c.2)) (k + n) = aget t k := by
  induction t with
  | nil => rfl
  | cons c r ih =>
    obtain ⟨a, v⟩ := c
    by_cases h : k = a <;> simp [aget, h, ih]

theorem aget_filter_key (t : List (Nat × α)) (p : Nat → Bool) {k : Nat} (h : p k = true) :
    aget (t.filter fun c => p c.1) k = aget t k := by
  induction t with
  | nil => rfl
  | cons c r ih =>
    obtain ⟨a, v⟩ := c
    by_cases e : k = a
    · subst e; simp [aget, h]
    · by_cases pa : p a = true <;> simp [aget, e, pa, ih]

/-- A table made of one cell a key, the default ones left out. -/
theorem tget_map_filter (f : Nat → BitVec w) (ks : List Nat) (k : Nat) :
    aget ((ks.map fun l => (l, f l)).filter fun c => c.2 != 0#w) k
      = if k ∈ ks ∧ f k ≠ 0#w then some (f k) else none := by
  induction ks with
  | nil => simp [aget]
  | cons a r ih =>
    by_cases z : f a = 0#w
    · simp only [List.map_cons, List.filter_cons, z, bne_self_eq_false, Bool.false_eq_true, if_false, ih, List.mem_cons]
      by_cases e : k = a
      · subst e; simp [z]
      · simp [e]
    · have : (f a != 0#w) = true := by simp [z]
      simp only [List.map_cons, List.filter_cons, this, if_true, aget, ih, List.mem_cons]
      by_cases e : k = a
      · subst e; simp [z]
      · simp [e]

@[simp] theorem tget_nil (d : Nat → BitVec w) (k : Nat) : tget d [] k = d k := rfl

@[simp] theorem tget_tset_self (d : Nat → BitVec w) (t : Table w) (k : Nat) (v : BitVec w) : tget d (tset d t k v) k = v := by
  unfold tget tset
  split
  · simp [*]
  · simp

theorem tget_tset_ne (d : Nat → BitVec w) (t : Table w) {k j : Nat} (v : BitVec w) (h : j ≠ k) :
    tget d (tset d t k v) j = tget d t j := by
  unfold tget tset
  split
  · rw [aget_adel_ne _ h]
  · rw [aget_aput_ne _ _ h]

/-- Reading a key that no cell has. -/
theorem tget_tsets_none (d : Nat → BitVec w) (cells : List (Nat × BitVec w)) (t : Table w) {k : Nat}
    (h : ∀ c ∈ cells, c.1 ≠ k) : tget d (tsets d t cells) k = tget d t k := by
  induction cells generalizing t with
  | nil => rfl
  | cons c r ih =>
    have e : tsets d t (c :: r) = tsets d (tset d t c.1 c.2) r := rfl
    rw [e, ih _ (fun c hc => h c (List.mem_cons_of_mem _ hc)), tget_tset_ne]
    exact (h c (List.mem_cons_self ..)).symm

/-- Reading a key of a cell, when every cell of that key has its value. -/
theorem tget_tsets_mem (d : Nat → BitVec w) (cells : List (Nat × BitVec w)) (t : Table w) {k : Nat} {v : BitVec w}
    (h : (k, v) ∈ cells) (u : ∀ c ∈ cells, c.1 = k → c.2 = v) : tget d (tsets d t cells) k = v := by
  induction cells generalizing t with
  | nil => simp at h
  | cons c r ih =>
    have e : tsets d t (c :: r) = tsets d (tset d t c.1 c.2) r := rfl
    rw [e]
    by_cases hr : (k, v) ∈ r
    · exact ih _ hr fun c hc => u c (List.mem_cons_of_mem _ hc)
    · have hc : c = (k, v) := by
        rcases List.mem_cons.mp h with h | h
        · exact h.symm
        · exact absurd h hr
      subst hc
      rw [tget_tsets_none, tget_tset_self]
      intro c hc ck
      have := u c (List.mem_cons_of_mem _ hc) ck
      exact hr (by rw [← ck, ← this]; exact hc)

/-- Writing keeps the canonical form. -/
theorem twf_tset {d : Nat → BitVec w} {t : Table w} (k : Nat) (v : BitVec w) (h : twf d t = true) :
    twf d (tset d t k v) = true := by
  simp only [twf, Bool.and_eq_true, List.all_eq_true] at h ⊢
  unfold tset
  split
  · exact ⟨awf_adel k h.1, fun c hc => h.2 c (List.mem_of_mem_filter hc)⟩
  · rename_i hv
    refine ⟨awf_aput k v h.1, ?_⟩
    have all : ∀ (t : Table w), (∀ c ∈ t, (c.2 != d c.1) = true) → ∀ c ∈ aput t k v, (c.2 != d c.1) = true := by
      intro t
      induction t with
      | nil => intro _ c hc; simp [aput] at hc; simp [hc, hv]
      | cons b r ih =>
        obtain ⟨a, u⟩ := b
        intro ht c hc
        by_cases h1 : k < a
        · simp only [aput, h1, if_true] at hc
          rcases List.mem_cons.mp hc with rfl | hc
          · simp [hv]
          · exact ht c hc
        · by_cases h2 : k = a
          · simp only [aput, h2, lt_irrefl, if_false, if_true] at hc
            rcases List.mem_cons.mp hc with rfl | hc
            · rw [← h2]; simp [hv]
            · exact ht c (List.mem_cons_of_mem _ hc)
          · simp only [aput, h1, h2, if_false] at hc
            rcases List.mem_cons.mp hc with rfl | hc
            · exact ht _ (List.mem_cons_self ..)
            · exact ih (fun c hc => ht c (List.mem_cons_of_mem _ hc)) c hc
    exact all t h.2

theorem twf_tsets {d : Nat → BitVec w} (cells : List (Nat × BitVec w)) {t : Table w} (h : twf d t = true) :
    twf d (tsets d t cells) = true := by
  induction cells generalizing t with
  | nil => exact h
  | cons c r ih => exact ih (twf_tset c.1 c.2 h)

end Sys2Proof.Machine
end

