-- ==== Sys2Proof/Laws/Memory.lean ====
section
/-!
SUPPORT. The operations that write main memory: each keeps its canonical form, and changes no byte but those it writes.
-/

namespace Sys2Proof.Machine

theorem reset_mem : Memory.wf State.reset.mem = true := rfl

@[simp] theorem writePhys_mem (s : State) (cells : List Host.Cell) : (s.writePhys cells).mem = tsets zeros s.mem cells := rfl

theorem writePhys_wf {s : State} (cells : List Host.Cell) (h : Memory.wf s.mem = true) : Memory.wf (s.writePhys cells).mem = true :=
  twf_tsets cells h

theorem writeUnder_wf {s : State} (key : BitVec 512) (cells : List Host.Cell) (h : Memory.wf s.mem = true) :
    Memory.wf (s.writeUnder key cells).mem = true :=
  writePhys_wf _ h

/-- A fold of operations that each keep the form keeps it. -/
theorem foldl_wf {α : Type} (f : State → α → State) (l : List α)
    (k : ∀ (s : State) (a : α), Memory.wf s.mem = true → Memory.wf (f s a).mem = true) {s : State} (h : Memory.wf s.mem = true) :
    Memory.wf (l.foldl f s).mem = true := by
  induction l generalizing s with
  | nil => exact h
  | cons a r ih => exact ih (k s a h)

theorem writeCells_wf {s : State} (root : BitVec 48) (cells : List Host.Cell) (h : Memory.wf s.mem = true) :
    Memory.wf (s.writeCells root cells).mem = true :=
  foldl_wf _ _ (fun _ _ k => writeUnder_wf _ _ k) h

theorem writeVa_wf {s : State} (root : BitVec 48) (va : Nat) (bs : List Byte) (h : Memory.wf s.mem = true) :
    Memory.wf (s.writeVa root va bs).mem = true :=
  writeCells_wf root _ h

theorem cache1_mem (s : State) (root : BitVec 48) (a : Access) (va : Nat) : (s.cache1 root a va).mem = s.mem := by
  unfold State.cache1; split <;> rfl

theorem cache_mem (s : State) (root : BitVec 48) (va n : Nat) (a : Access) : (s.cache root va n a).mem = s.mem := by
  unfold State.cache
  induction touched va n generalizing s with
  | nil => rfl
  | cons v r ih => rw [List.foldl_cons, ih, cache1_mem]

theorem writePieces_wf (root : BitVec 48) (lost : List Nat) (ps : List (Nat × List Byte)) {s : State} (h : Memory.wf s.mem = true) :
    Memory.wf (s.writePieces root lost ps).mem = true :=
  foldl_wf _ _ (fun s p k => writeCells_wf root _ (by rw [cache_mem]; exact k)) h

/-- A byte that no cell names is as it was. -/
theorem writePhys_other {s : State} {cells : List Host.Cell} {a : Nat} (h : ∀ c ∈ cells, c.1 ≠ a) :
    (s.writePhys cells).memByte a = s.memByte a :=
  tget_tsets_none _ _ _ h

/-- A byte that exactly one value is written to holds it. -/
theorem writePhys_byte {s : State} {cells : List Host.Cell} {a : Nat} {v : Byte} (m : (a, v) ∈ cells)
    (u : ∀ c ∈ cells, c.1 = a → c.2 = v) : (s.writePhys cells).memByte a = v :=
  tget_tsets_mem _ _ _ m u

end Sys2Proof.Machine
end

