-- ==== Sys2Proof/Laws/State.lean ====
section
/-!
SUPPORT. What each update of one part of State leaves in every field.
-/

namespace Sys2Proof.Machine

variable (s : State)

/-! putCore -/

@[simp] theorem State.putCore_phase (n : Nat) (c : Core) : (s.putCore n c).phase = s.phase := rfl
@[simp] theorem State.putCore_mgmt (n : Nat) (c : Core) : (s.putCore n c).mgmt = s.mgmt := rfl
@[simp] theorem State.putCore_keys (n : Nat) (c : Core) : (s.putCore n c).keys = s.keys := rfl
@[simp] theorem State.putCore_queues (n : Nat) (c : Core) : (s.putCore n c).queues = s.queues := rfl
@[simp] theorem State.putCore_launches (n : Nat) (c : Core) : (s.putCore n c).launches = s.launches := rfl
@[simp] theorem State.putCore_clusters (n : Nat) (c : Core) : (s.putCore n c).clusters = s.clusters := rfl
@[simp] theorem State.putCore_teams (n : Nat) (c : Core) : (s.putCore n c).teams = s.teams := rfl
@[simp] theorem State.putCore_cores (n : Nat) (c : Core) : (s.putCore n c).cores = aput s.cores n c := rfl
@[simp] theorem State.putCore_dies (n : Nat) (c : Core) : (s.putCore n c).dies = s.dies := rfl
@[simp] theorem State.putCore_mem (n : Nat) (c : Core) : (s.putCore n c).mem = s.mem := rfl
@[simp] theorem State.putCore_sealed (n : Nat) (c : Core) : (s.putCore n c).sealed = s.sealed := rfl
@[simp] theorem State.putCore_forms (n : Nat) (c : Core) : (s.putCore n c).forms = s.forms := rfl
@[simp] theorem State.putCore_tlb (n : Nat) (c : Core) : (s.putCore n c).tlb = s.tlb := rfl
@[simp] theorem State.putCore_errors (n : Nat) (c : Core) : (s.putCore n c).errors = s.errors := rfl
@[simp] theorem State.putCore_coreMap (n : Nat) (c : Core) : (s.putCore n c).coreMap = s.coreMap := rfl
@[simp] theorem State.putCore_failedCores (n : Nat) (c : Core) : (s.putCore n c).failedCores = s.failedCores := rfl
@[simp] theorem State.putCore_engines (n : Nat) (c : Core) : (s.putCore n c).engines = s.engines := rfl
@[simp] theorem State.putCore_serr (n : Nat) (c : Core) : (s.putCore n c).serr = s.serr := rfl
@[simp] theorem State.putCore_seqUnit (n : Nat) (c : Core) : (s.putCore n c).seqUnit = s.seqUnit := rfl
@[simp] theorem State.putCore_graphs (n : Nat) (c : Core) : (s.putCore n c).graphs = s.graphs := rfl
@[simp] theorem State.putCore_waves (n : Nat) (c : Core) : (s.putCore n c).waves = s.waves := rfl
@[simp] theorem State.putCore_waveNo (n : Nat) (c : Core) : (s.putCore n c).waveNo = s.waveNo := rfl
@[simp] theorem State.putCore_copies (n : Nat) (c : Core) : (s.putCore n c).copies = s.copies := rfl
@[simp] theorem State.putCore_ranges (n : Nat) (c : Core) : (s.putCore n c).ranges = s.ranges := rfl
@[simp] theorem State.putCore_packets (n : Nat) (c : Core) : (s.putCore n c).packets = s.packets := rfl
@[simp] theorem State.putCore_sums (n : Nat) (c : Core) : (s.putCore n c).sums = s.sums := rfl
@[simp] theorem State.putCore_asked (n : Nat) (c : Core) : (s.putCore n c).asked = s.asked := rfl
@[simp] theorem State.putCore_remotes (n : Nat) (c : Core) : (s.putCore n c).remotes = s.remotes := rfl
@[simp] theorem State.putCore_events (n : Nat) (c : Core) : (s.putCore n c).events = s.events := rfl
@[simp] theorem State.putCore_replies (n : Nat) (c : Core) : (s.putCore n c).replies = s.replies := rfl
@[simp] theorem State.putCore_links (n : Nat) (c : Core) : (s.putCore n c).links = s.links := rfl
@[simp] theorem State.putCore_dropped (n : Nat) (c : Core) : (s.putCore n c).dropped = s.dropped := rfl
@[simp] theorem State.putCore_downPorts (n : Nat) (c : Core) : (s.putCore n c).downPorts = s.downPorts := rfl
@[simp] theorem State.putCore_defects (n : Nat) (c : Core) : (s.putCore n c).defects = s.defects := rfl
@[simp] theorem State.putCore_windows (n : Nat) (c : Core) : (s.putCore n c).windows = s.windows := rfl
@[simp] theorem State.putCore_islands (n : Nat) (c : Core) : (s.putCore n c).islands = s.islands := rfl
@[simp] theorem State.putCore_script (n : Nat) (c : Core) : (s.putCore n c).script = s.script := rfl
@[simp] theorem State.putCore_focus (n : Nat) (c : Core) : (s.putCore n c).focus = s.focus := rfl
@[simp] theorem State.putCore_turn (n : Nat) (c : Core) : (s.putCore n c).turn = s.turn := rfl
@[simp] theorem State.putCore_lazy (n : Nat) (c : Core) : (s.putCore n c).lazy = s.lazy := rfl
@[simp] theorem State.putCore_tick (n : Nat) (c : Core) : (s.putCore n c).tick = s.tick := rfl
@[simp] theorem State.putCore_fresh (n : Nat) (c : Core) : (s.putCore n c).fresh = s.fresh := rfl
@[simp] theorem State.putCore_nextId (n : Nat) (c : Core) : (s.putCore n c).nextId = s.nextId := rfl

/-! putDie -/

@[simp] theorem State.putDie_phase (n : Nat) (d : Die) : (s.putDie n d).phase = s.phase := rfl
@[simp] theorem State.putDie_mgmt (n : Nat) (d : Die) : (s.putDie n d).mgmt = s.mgmt := rfl
@[simp] theorem State.putDie_keys (n : Nat) (d : Die) : (s.putDie n d).keys = s.keys := rfl
@[simp] theorem State.putDie_queues (n : Nat) (d : Die) : (s.putDie n d).queues = s.queues := rfl
@[simp] theorem State.putDie_launches (n : Nat) (d : Die) : (s.putDie n d).launches = s.launches := rfl
@[simp] theorem State.putDie_clusters (n : Nat) (d : Die) : (s.putDie n d).clusters = s.clusters := rfl
@[simp] theorem State.putDie_teams (n : Nat) (d : Die) : (s.putDie n d).teams = s.teams := rfl
@[simp] theorem State.putDie_cores (n : Nat) (d : Die) : (s.putDie n d).cores = s.cores := rfl
@[simp] theorem State.putDie_dies (n : Nat) (d : Die) : (s.putDie n d).dies = aput s.dies n d := rfl
@[simp] theorem State.putDie_mem (n : Nat) (d : Die) : (s.putDie n d).mem = s.mem := rfl
@[simp] theorem State.putDie_sealed (n : Nat) (d : Die) : (s.putDie n d).sealed = s.sealed := rfl
@[simp] theorem State.putDie_forms (n : Nat) (d : Die) : (s.putDie n d).forms = s.forms := rfl
@[simp] theorem State.putDie_tlb (n : Nat) (d : Die) : (s.putDie n d).tlb = s.tlb := rfl
@[simp] theorem State.putDie_errors (n : Nat) (d : Die) : (s.putDie n d).errors = s.errors := rfl
@[simp] theorem State.putDie_coreMap (n : Nat) (d : Die) : (s.putDie n d).coreMap = s.coreMap := rfl
@[simp] theorem State.putDie_failedCores (n : Nat) (d : Die) : (s.putDie n d).failedCores = s.failedCores := rfl
@[simp] theorem State.putDie_engines (n : Nat) (d : Die) : (s.putDie n d).engines = s.engines := rfl
@[simp] theorem State.putDie_serr (n : Nat) (d : Die) : (s.putDie n d).serr = s.serr := rfl
@[simp] theorem State.putDie_seqUnit (n : Nat) (d : Die) : (s.putDie n d).seqUnit = s.seqUnit := rfl
@[simp] theorem State.putDie_graphs (n : Nat) (d : Die) : (s.putDie n d).graphs = s.graphs := rfl
@[simp] theorem State.putDie_waves (n : Nat) (d : Die) : (s.putDie n d).waves = s.waves := rfl
@[simp] theorem State.putDie_waveNo (n : Nat) (d : Die) : (s.putDie n d).waveNo = s.waveNo := rfl
@[simp] theorem State.putDie_copies (n : Nat) (d : Die) : (s.putDie n d).copies = s.copies := rfl
@[simp] theorem State.putDie_ranges (n : Nat) (d : Die) : (s.putDie n d).ranges = s.ranges := rfl
@[simp] theorem State.putDie_packets (n : Nat) (d : Die) : (s.putDie n d).packets = s.packets := rfl
@[simp] theorem State.putDie_sums (n : Nat) (d : Die) : (s.putDie n d).sums = s.sums := rfl
@[simp] theorem State.putDie_asked (n : Nat) (d : Die) : (s.putDie n d).asked = s.asked := rfl
@[simp] theorem State.putDie_remotes (n : Nat) (d : Die) : (s.putDie n d).remotes = s.remotes := rfl
@[simp] theorem State.putDie_events (n : Nat) (d : Die) : (s.putDie n d).events = s.events := rfl
@[simp] theorem State.putDie_replies (n : Nat) (d : Die) : (s.putDie n d).replies = s.replies := rfl
@[simp] theorem State.putDie_links (n : Nat) (d : Die) : (s.putDie n d).links = s.links := rfl
@[simp] theorem State.putDie_dropped (n : Nat) (d : Die) : (s.putDie n d).dropped = s.dropped := rfl
@[simp] theorem State.putDie_downPorts (n : Nat) (d : Die) : (s.putDie n d).downPorts = s.downPorts := rfl
@[simp] theorem State.putDie_defects (n : Nat) (d : Die) : (s.putDie n d).defects = s.defects := rfl
@[simp] theorem State.putDie_windows (n : Nat) (d : Die) : (s.putDie n d).windows = s.windows := rfl
@[simp] theorem State.putDie_islands (n : Nat) (d : Die) : (s.putDie n d).islands = s.islands := rfl
@[simp] theorem State.putDie_script (n : Nat) (d : Die) : (s.putDie n d).script = s.script := rfl
@[simp] theorem State.putDie_focus (n : Nat) (d : Die) : (s.putDie n d).focus = s.focus := rfl
@[simp] theorem State.putDie_turn (n : Nat) (d : Die) : (s.putDie n d).turn = s.turn := rfl
@[simp] theorem State.putDie_lazy (n : Nat) (d : Die) : (s.putDie n d).lazy = s.lazy := rfl
@[simp] theorem State.putDie_tick (n : Nat) (d : Die) : (s.putDie n d).tick = s.tick := rfl
@[simp] theorem State.putDie_fresh (n : Nat) (d : Die) : (s.putDie n d).fresh = s.fresh := rfl
@[simp] theorem State.putDie_nextId (n : Nat) (d : Die) : (s.putDie n d).nextId = s.nextId := rfl

/-! putQueue -/

@[simp] theorem State.putQueue_phase (n : Nat) (q : Queue) : (s.putQueue n q).phase = s.phase := rfl
@[simp] theorem State.putQueue_mgmt (n : Nat) (q : Queue) : (s.putQueue n q).mgmt = s.mgmt := rfl
@[simp] theorem State.putQueue_keys (n : Nat) (q : Queue) : (s.putQueue n q).keys = s.keys := rfl
@[simp] theorem State.putQueue_queues (n : Nat) (q : Queue) : (s.putQueue n q).queues = aput s.queues n q := rfl
@[simp] theorem State.putQueue_launches (n : Nat) (q : Queue) : (s.putQueue n q).launches = s.launches := rfl
@[simp] theorem State.putQueue_clusters (n : Nat) (q : Queue) : (s.putQueue n q).clusters = s.clusters := rfl
@[simp] theorem State.putQueue_teams (n : Nat) (q : Queue) : (s.putQueue n q).teams = s.teams := rfl
@[simp] theorem State.putQueue_cores (n : Nat) (q : Queue) : (s.putQueue n q).cores = s.cores := rfl
@[simp] theorem State.putQueue_dies (n : Nat) (q : Queue) : (s.putQueue n q).dies = s.dies := rfl
@[simp] theorem State.putQueue_mem (n : Nat) (q : Queue) : (s.putQueue n q).mem = s.mem := rfl
@[simp] theorem State.putQueue_sealed (n : Nat) (q : Queue) : (s.putQueue n q).sealed = s.sealed := rfl
@[simp] theorem State.putQueue_forms (n : Nat) (q : Queue) : (s.putQueue n q).forms = s.forms := rfl
@[simp] theorem State.putQueue_tlb (n : Nat) (q : Queue) : (s.putQueue n q).tlb = s.tlb := rfl
@[simp] theorem State.putQueue_errors (n : Nat) (q : Queue) : (s.putQueue n q).errors = s.errors := rfl
@[simp] theorem State.putQueue_coreMap (n : Nat) (q : Queue) : (s.putQueue n q).coreMap = s.coreMap := rfl
@[simp] theorem State.putQueue_failedCores (n : Nat) (q : Queue) : (s.putQueue n q).failedCores = s.failedCores := rfl
@[simp] theorem State.putQueue_engines (n : Nat) (q : Queue) : (s.putQueue n q).engines = s.engines := rfl
@[simp] theorem State.putQueue_serr (n : Nat) (q : Queue) : (s.putQueue n q).serr = s.serr := rfl
@[simp] theorem State.putQueue_seqUnit (n : Nat) (q : Queue) : (s.putQueue n q).seqUnit = s.seqUnit := rfl
@[simp] theorem State.putQueue_graphs (n : Nat) (q : Queue) : (s.putQueue n q).graphs = s.graphs := rfl
@[simp] theorem State.putQueue_waves (n : Nat) (q : Queue) : (s.putQueue n q).waves = s.waves := rfl
@[simp] theorem State.putQueue_waveNo (n : Nat) (q : Queue) : (s.putQueue n q).waveNo = s.waveNo := rfl
@[simp] theorem State.putQueue_copies (n : Nat) (q : Queue) : (s.putQueue n q).copies = s.copies := rfl
@[simp] theorem State.putQueue_ranges (n : Nat) (q : Queue) : (s.putQueue n q).ranges = s.ranges := rfl
@[simp] theorem State.putQueue_packets (n : Nat) (q : Queue) : (s.putQueue n q).packets = s.packets := rfl
@[simp] theorem State.putQueue_sums (n : Nat) (q : Queue) : (s.putQueue n q).sums = s.sums := rfl
@[simp] theorem State.putQueue_asked (n : Nat) (q : Queue) : (s.putQueue n q).asked = s.asked := rfl
@[simp] theorem State.putQueue_remotes (n : Nat) (q : Queue) : (s.putQueue n q).remotes = s.remotes := rfl
@[simp] theorem State.putQueue_events (n : Nat) (q : Queue) : (s.putQueue n q).events = s.events := rfl
@[simp] theorem State.putQueue_replies (n : Nat) (q : Queue) : (s.putQueue n q).replies = s.replies := rfl
@[simp] theorem State.putQueue_links (n : Nat) (q : Queue) : (s.putQueue n q).links = s.links := rfl
@[simp] theorem State.putQueue_dropped (n : Nat) (q : Queue) : (s.putQueue n q).dropped = s.dropped := rfl
@[simp] theorem State.putQueue_downPorts (n : Nat) (q : Queue) : (s.putQueue n q).downPorts = s.downPorts := rfl
@[simp] theorem State.putQueue_defects (n : Nat) (q : Queue) : (s.putQueue n q).defects = s.defects := rfl
@[simp] theorem State.putQueue_windows (n : Nat) (q : Queue) : (s.putQueue n q).windows = s.windows := rfl
@[simp] theorem State.putQueue_islands (n : Nat) (q : Queue) : (s.putQueue n q).islands = s.islands := rfl
@[simp] theorem State.putQueue_script (n : Nat) (q : Queue) : (s.putQueue n q).script = s.script := rfl
@[simp] theorem State.putQueue_focus (n : Nat) (q : Queue) : (s.putQueue n q).focus = s.focus := rfl
@[simp] theorem State.putQueue_turn (n : Nat) (q : Queue) : (s.putQueue n q).turn = s.turn := rfl
@[simp] theorem State.putQueue_lazy (n : Nat) (q : Queue) : (s.putQueue n q).lazy = s.lazy := rfl
@[simp] theorem State.putQueue_tick (n : Nat) (q : Queue) : (s.putQueue n q).tick = s.tick := rfl
@[simp] theorem State.putQueue_fresh (n : Nat) (q : Queue) : (s.putQueue n q).fresh = s.fresh := rfl
@[simp] theorem State.putQueue_nextId (n : Nat) (q : Queue) : (s.putQueue n q).nextId = s.nextId := rfl

/-! putLaunch -/

@[simp] theorem State.putLaunch_phase (n : Nat) (l : Launch) : (s.putLaunch n l).phase = s.phase := rfl
@[simp] theorem State.putLaunch_mgmt (n : Nat) (l : Launch) : (s.putLaunch n l).mgmt = s.mgmt := rfl
@[simp] theorem State.putLaunch_keys (n : Nat) (l : Launch) : (s.putLaunch n l).keys = s.keys := rfl
@[simp] theorem State.putLaunch_queues (n : Nat) (l : Launch) : (s.putLaunch n l).queues = s.queues := rfl
@[simp] theorem State.putLaunch_launches (n : Nat) (l : Launch) : (s.putLaunch n l).launches = aput s.launches n l := rfl
@[simp] theorem State.putLaunch_clusters (n : Nat) (l : Launch) : (s.putLaunch n l).clusters = s.clusters := rfl
@[simp] theorem State.putLaunch_teams (n : Nat) (l : Launch) : (s.putLaunch n l).teams = s.teams := rfl
@[simp] theorem State.putLaunch_cores (n : Nat) (l : Launch) : (s.putLaunch n l).cores = s.cores := rfl
@[simp] theorem State.putLaunch_dies (n : Nat) (l : Launch) : (s.putLaunch n l).dies = s.dies := rfl
@[simp] theorem State.putLaunch_mem (n : Nat) (l : Launch) : (s.putLaunch n l).mem = s.mem := rfl
@[simp] theorem State.putLaunch_sealed (n : Nat) (l : Launch) : (s.putLaunch n l).sealed = s.sealed := rfl
@[simp] theorem State.putLaunch_forms (n : Nat) (l : Launch) : (s.putLaunch n l).forms = s.forms := rfl
@[simp] theorem State.putLaunch_tlb (n : Nat) (l : Launch) : (s.putLaunch n l).tlb = s.tlb := rfl
@[simp] theorem State.putLaunch_errors (n : Nat) (l : Launch) : (s.putLaunch n l).errors = s.errors := rfl
@[simp] theorem State.putLaunch_coreMap (n : Nat) (l : Launch) : (s.putLaunch n l).coreMap = s.coreMap := rfl
@[simp] theorem State.putLaunch_failedCores (n : Nat) (l : Launch) : (s.putLaunch n l).failedCores = s.failedCores := rfl
@[simp] theorem State.putLaunch_engines (n : Nat) (l : Launch) : (s.putLaunch n l).engines = s.engines := rfl
@[simp] theorem State.putLaunch_serr (n : Nat) (l : Launch) : (s.putLaunch n l).serr = s.serr := rfl
@[simp] theorem State.putLaunch_seqUnit (n : Nat) (l : Launch) : (s.putLaunch n l).seqUnit = s.seqUnit := rfl
@[simp] theorem State.putLaunch_graphs (n : Nat) (l : Launch) : (s.putLaunch n l).graphs = s.graphs := rfl
@[simp] theorem State.putLaunch_waves (n : Nat) (l : Launch) : (s.putLaunch n l).waves = s.waves := rfl
@[simp] theorem State.putLaunch_waveNo (n : Nat) (l : Launch) : (s.putLaunch n l).waveNo = s.waveNo := rfl
@[simp] theorem State.putLaunch_copies (n : Nat) (l : Launch) : (s.putLaunch n l).copies = s.copies := rfl
@[simp] theorem State.putLaunch_ranges (n : Nat) (l : Launch) : (s.putLaunch n l).ranges = s.ranges := rfl
@[simp] theorem State.putLaunch_packets (n : Nat) (l : Launch) : (s.putLaunch n l).packets = s.packets := rfl
@[simp] theorem State.putLaunch_sums (n : Nat) (l : Launch) : (s.putLaunch n l).sums = s.sums := rfl
@[simp] theorem State.putLaunch_asked (n : Nat) (l : Launch) : (s.putLaunch n l).asked = s.asked := rfl
@[simp] theorem State.putLaunch_remotes (n : Nat) (l : Launch) : (s.putLaunch n l).remotes = s.remotes := rfl
@[simp] theorem State.putLaunch_events (n : Nat) (l : Launch) : (s.putLaunch n l).events = s.events := rfl
@[simp] theorem State.putLaunch_replies (n : Nat) (l : Launch) : (s.putLaunch n l).replies = s.replies := rfl
@[simp] theorem State.putLaunch_links (n : Nat) (l : Launch) : (s.putLaunch n l).links = s.links := rfl
@[simp] theorem State.putLaunch_dropped (n : Nat) (l : Launch) : (s.putLaunch n l).dropped = s.dropped := rfl
@[simp] theorem State.putLaunch_downPorts (n : Nat) (l : Launch) : (s.putLaunch n l).downPorts = s.downPorts := rfl
@[simp] theorem State.putLaunch_defects (n : Nat) (l : Launch) : (s.putLaunch n l).defects = s.defects := rfl
@[simp] theorem State.putLaunch_windows (n : Nat) (l : Launch) : (s.putLaunch n l).windows = s.windows := rfl
@[simp] theorem State.putLaunch_islands (n : Nat) (l : Launch) : (s.putLaunch n l).islands = s.islands := rfl
@[simp] theorem State.putLaunch_script (n : Nat) (l : Launch) : (s.putLaunch n l).script = s.script := rfl
@[simp] theorem State.putLaunch_focus (n : Nat) (l : Launch) : (s.putLaunch n l).focus = s.focus := rfl
@[simp] theorem State.putLaunch_turn (n : Nat) (l : Launch) : (s.putLaunch n l).turn = s.turn := rfl
@[simp] theorem State.putLaunch_lazy (n : Nat) (l : Launch) : (s.putLaunch n l).lazy = s.lazy := rfl
@[simp] theorem State.putLaunch_tick (n : Nat) (l : Launch) : (s.putLaunch n l).tick = s.tick := rfl
@[simp] theorem State.putLaunch_fresh (n : Nat) (l : Launch) : (s.putLaunch n l).fresh = s.fresh := rfl
@[simp] theorem State.putLaunch_nextId (n : Nat) (l : Launch) : (s.putLaunch n l).nextId = s.nextId := rfl

/-! putCluster -/

@[simp] theorem State.putCluster_phase (n : Nat) (c : Cluster) : (s.putCluster n c).phase = s.phase := rfl
@[simp] theorem State.putCluster_mgmt (n : Nat) (c : Cluster) : (s.putCluster n c).mgmt = s.mgmt := rfl
@[simp] theorem State.putCluster_keys (n : Nat) (c : Cluster) : (s.putCluster n c).keys = s.keys := rfl
@[simp] theorem State.putCluster_queues (n : Nat) (c : Cluster) : (s.putCluster n c).queues = s.queues := rfl
@[simp] theorem State.putCluster_launches (n : Nat) (c : Cluster) : (s.putCluster n c).launches = s.launches := rfl
@[simp] theorem State.putCluster_clusters (n : Nat) (c : Cluster) : (s.putCluster n c).clusters = aput s.clusters n c := rfl
@[simp] theorem State.putCluster_teams (n : Nat) (c : Cluster) : (s.putCluster n c).teams = s.teams := rfl
@[simp] theorem State.putCluster_cores (n : Nat) (c : Cluster) : (s.putCluster n c).cores = s.cores := rfl
@[simp] theorem State.putCluster_dies (n : Nat) (c : Cluster) : (s.putCluster n c).dies = s.dies := rfl
@[simp] theorem State.putCluster_mem (n : Nat) (c : Cluster) : (s.putCluster n c).mem = s.mem := rfl
@[simp] theorem State.putCluster_sealed (n : Nat) (c : Cluster) : (s.putCluster n c).sealed = s.sealed := rfl
@[simp] theorem State.putCluster_forms (n : Nat) (c : Cluster) : (s.putCluster n c).forms = s.forms := rfl
@[simp] theorem State.putCluster_tlb (n : Nat) (c : Cluster) : (s.putCluster n c).tlb = s.tlb := rfl
@[simp] theorem State.putCluster_errors (n : Nat) (c : Cluster) : (s.putCluster n c).errors = s.errors := rfl
@[simp] theorem State.putCluster_coreMap (n : Nat) (c : Cluster) : (s.putCluster n c).coreMap = s.coreMap := rfl
@[simp] theorem State.putCluster_failedCores (n : Nat) (c : Cluster) : (s.putCluster n c).failedCores = s.failedCores := rfl
@[simp] theorem State.putCluster_engines (n : Nat) (c : Cluster) : (s.putCluster n c).engines = s.engines := rfl
@[simp] theorem State.putCluster_serr (n : Nat) (c : Cluster) : (s.putCluster n c).serr = s.serr := rfl
@[simp] theorem State.putCluster_seqUnit (n : Nat) (c : Cluster) : (s.putCluster n c).seqUnit = s.seqUnit := rfl
@[simp] theorem State.putCluster_graphs (n : Nat) (c : Cluster) : (s.putCluster n c).graphs = s.graphs := rfl
@[simp] theorem State.putCluster_waves (n : Nat) (c : Cluster) : (s.putCluster n c).waves = s.waves := rfl
@[simp] theorem State.putCluster_waveNo (n : Nat) (c : Cluster) : (s.putCluster n c).waveNo = s.waveNo := rfl
@[simp] theorem State.putCluster_copies (n : Nat) (c : Cluster) : (s.putCluster n c).copies = s.copies := rfl
@[simp] theorem State.putCluster_ranges (n : Nat) (c : Cluster) : (s.putCluster n c).ranges = s.ranges := rfl
@[simp] theorem State.putCluster_packets (n : Nat) (c : Cluster) : (s.putCluster n c).packets = s.packets := rfl
@[simp] theorem State.putCluster_sums (n : Nat) (c : Cluster) : (s.putCluster n c).sums = s.sums := rfl
@[simp] theorem State.putCluster_asked (n : Nat) (c : Cluster) : (s.putCluster n c).asked = s.asked := rfl
@[simp] theorem State.putCluster_remotes (n : Nat) (c : Cluster) : (s.putCluster n c).remotes = s.remotes := rfl
@[simp] theorem State.putCluster_events (n : Nat) (c : Cluster) : (s.putCluster n c).events = s.events := rfl
@[simp] theorem State.putCluster_replies (n : Nat) (c : Cluster) : (s.putCluster n c).replies = s.replies := rfl
@[simp] theorem State.putCluster_links (n : Nat) (c : Cluster) : (s.putCluster n c).links = s.links := rfl
@[simp] theorem State.putCluster_dropped (n : Nat) (c : Cluster) : (s.putCluster n c).dropped = s.dropped := rfl
@[simp] theorem State.putCluster_downPorts (n : Nat) (c : Cluster) : (s.putCluster n c).downPorts = s.downPorts := rfl
@[simp] theorem State.putCluster_defects (n : Nat) (c : Cluster) : (s.putCluster n c).defects = s.defects := rfl
@[simp] theorem State.putCluster_windows (n : Nat) (c : Cluster) : (s.putCluster n c).windows = s.windows := rfl
@[simp] theorem State.putCluster_islands (n : Nat) (c : Cluster) : (s.putCluster n c).islands = s.islands := rfl
@[simp] theorem State.putCluster_script (n : Nat) (c : Cluster) : (s.putCluster n c).script = s.script := rfl
@[simp] theorem State.putCluster_focus (n : Nat) (c : Cluster) : (s.putCluster n c).focus = s.focus := rfl
@[simp] theorem State.putCluster_turn (n : Nat) (c : Cluster) : (s.putCluster n c).turn = s.turn := rfl
@[simp] theorem State.putCluster_lazy (n : Nat) (c : Cluster) : (s.putCluster n c).lazy = s.lazy := rfl
@[simp] theorem State.putCluster_tick (n : Nat) (c : Cluster) : (s.putCluster n c).tick = s.tick := rfl
@[simp] theorem State.putCluster_fresh (n : Nat) (c : Cluster) : (s.putCluster n c).fresh = s.fresh := rfl
@[simp] theorem State.putCluster_nextId (n : Nat) (c : Cluster) : (s.putCluster n c).nextId = s.nextId := rfl

/-! putTeam -/

@[simp] theorem State.putTeam_phase (n : Nat) (x : Team) : (s.putTeam n x).phase = s.phase := rfl
@[simp] theorem State.putTeam_mgmt (n : Nat) (x : Team) : (s.putTeam n x).mgmt = s.mgmt := rfl
@[simp] theorem State.putTeam_keys (n : Nat) (x : Team) : (s.putTeam n x).keys = s.keys := rfl
@[simp] theorem State.putTeam_queues (n : Nat) (x : Team) : (s.putTeam n x).queues = s.queues := rfl
@[simp] theorem State.putTeam_launches (n : Nat) (x : Team) : (s.putTeam n x).launches = s.launches := rfl
@[simp] theorem State.putTeam_clusters (n : Nat) (x : Team) : (s.putTeam n x).clusters = s.clusters := rfl
@[simp] theorem State.putTeam_teams (n : Nat) (x : Team) : (s.putTeam n x).teams = aput s.teams n x := rfl
@[simp] theorem State.putTeam_cores (n : Nat) (x : Team) : (s.putTeam n x).cores = s.cores := rfl
@[simp] theorem State.putTeam_dies (n : Nat) (x : Team) : (s.putTeam n x).dies = s.dies := rfl
@[simp] theorem State.putTeam_mem (n : Nat) (x : Team) : (s.putTeam n x).mem = s.mem := rfl
@[simp] theorem State.putTeam_sealed (n : Nat) (x : Team) : (s.putTeam n x).sealed = s.sealed := rfl
@[simp] theorem State.putTeam_forms (n : Nat) (x : Team) : (s.putTeam n x).forms = s.forms := rfl
@[simp] theorem State.putTeam_tlb (n : Nat) (x : Team) : (s.putTeam n x).tlb = s.tlb := rfl
@[simp] theorem State.putTeam_errors (n : Nat) (x : Team) : (s.putTeam n x).errors = s.errors := rfl
@[simp] theorem State.putTeam_coreMap (n : Nat) (x : Team) : (s.putTeam n x).coreMap = s.coreMap := rfl
@[simp] theorem State.putTeam_failedCores (n : Nat) (x : Team) : (s.putTeam n x).failedCores = s.failedCores := rfl
@[simp] theorem State.putTeam_engines (n : Nat) (x : Team) : (s.putTeam n x).engines = s.engines := rfl
@[simp] theorem State.putTeam_serr (n : Nat) (x : Team) : (s.putTeam n x).serr = s.serr := rfl
@[simp] theorem State.putTeam_seqUnit (n : Nat) (x : Team) : (s.putTeam n x).seqUnit = s.seqUnit := rfl
@[simp] theorem State.putTeam_graphs (n : Nat) (x : Team) : (s.putTeam n x).graphs = s.graphs := rfl
@[simp] theorem State.putTeam_waves (n : Nat) (x : Team) : (s.putTeam n x).waves = s.waves := rfl
@[simp] theorem State.putTeam_waveNo (n : Nat) (x : Team) : (s.putTeam n x).waveNo = s.waveNo := rfl
@[simp] theorem State.putTeam_copies (n : Nat) (x : Team) : (s.putTeam n x).copies = s.copies := rfl
@[simp] theorem State.putTeam_ranges (n : Nat) (x : Team) : (s.putTeam n x).ranges = s.ranges := rfl
@[simp] theorem State.putTeam_packets (n : Nat) (x : Team) : (s.putTeam n x).packets = s.packets := rfl
@[simp] theorem State.putTeam_sums (n : Nat) (x : Team) : (s.putTeam n x).sums = s.sums := rfl
@[simp] theorem State.putTeam_asked (n : Nat) (x : Team) : (s.putTeam n x).asked = s.asked := rfl
@[simp] theorem State.putTeam_remotes (n : Nat) (x : Team) : (s.putTeam n x).remotes = s.remotes := rfl
@[simp] theorem State.putTeam_events (n : Nat) (x : Team) : (s.putTeam n x).events = s.events := rfl
@[simp] theorem State.putTeam_replies (n : Nat) (x : Team) : (s.putTeam n x).replies = s.replies := rfl
@[simp] theorem State.putTeam_links (n : Nat) (x : Team) : (s.putTeam n x).links = s.links := rfl
@[simp] theorem State.putTeam_dropped (n : Nat) (x : Team) : (s.putTeam n x).dropped = s.dropped := rfl
@[simp] theorem State.putTeam_downPorts (n : Nat) (x : Team) : (s.putTeam n x).downPorts = s.downPorts := rfl
@[simp] theorem State.putTeam_defects (n : Nat) (x : Team) : (s.putTeam n x).defects = s.defects := rfl
@[simp] theorem State.putTeam_windows (n : Nat) (x : Team) : (s.putTeam n x).windows = s.windows := rfl
@[simp] theorem State.putTeam_islands (n : Nat) (x : Team) : (s.putTeam n x).islands = s.islands := rfl
@[simp] theorem State.putTeam_script (n : Nat) (x : Team) : (s.putTeam n x).script = s.script := rfl
@[simp] theorem State.putTeam_focus (n : Nat) (x : Team) : (s.putTeam n x).focus = s.focus := rfl
@[simp] theorem State.putTeam_turn (n : Nat) (x : Team) : (s.putTeam n x).turn = s.turn := rfl
@[simp] theorem State.putTeam_lazy (n : Nat) (x : Team) : (s.putTeam n x).lazy = s.lazy := rfl
@[simp] theorem State.putTeam_tick (n : Nat) (x : Team) : (s.putTeam n x).tick = s.tick := rfl
@[simp] theorem State.putTeam_fresh (n : Nat) (x : Team) : (s.putTeam n x).fresh = s.fresh := rfl
@[simp] theorem State.putTeam_nextId (n : Nat) (x : Team) : (s.putTeam n x).nextId = s.nextId := rfl

/-! putCopy -/

@[simp] theorem State.putCopy_phase (n : Nat) (c : Copy) : (s.putCopy n c).phase = s.phase := rfl
@[simp] theorem State.putCopy_mgmt (n : Nat) (c : Copy) : (s.putCopy n c).mgmt = s.mgmt := rfl
@[simp] theorem State.putCopy_keys (n : Nat) (c : Copy) : (s.putCopy n c).keys = s.keys := rfl
@[simp] theorem State.putCopy_queues (n : Nat) (c : Copy) : (s.putCopy n c).queues = s.queues := rfl
@[simp] theorem State.putCopy_launches (n : Nat) (c : Copy) : (s.putCopy n c).launches = s.launches := rfl
@[simp] theorem State.putCopy_clusters (n : Nat) (c : Copy) : (s.putCopy n c).clusters = s.clusters := rfl
@[simp] theorem State.putCopy_teams (n : Nat) (c : Copy) : (s.putCopy n c).teams = s.teams := rfl
@[simp] theorem State.putCopy_cores (n : Nat) (c : Copy) : (s.putCopy n c).cores = s.cores := rfl
@[simp] theorem State.putCopy_dies (n : Nat) (c : Copy) : (s.putCopy n c).dies = s.dies := rfl
@[simp] theorem State.putCopy_mem (n : Nat) (c : Copy) : (s.putCopy n c).mem = s.mem := rfl
@[simp] theorem State.putCopy_sealed (n : Nat) (c : Copy) : (s.putCopy n c).sealed = s.sealed := rfl
@[simp] theorem State.putCopy_forms (n : Nat) (c : Copy) : (s.putCopy n c).forms = s.forms := rfl
@[simp] theorem State.putCopy_tlb (n : Nat) (c : Copy) : (s.putCopy n c).tlb = s.tlb := rfl
@[simp] theorem State.putCopy_errors (n : Nat) (c : Copy) : (s.putCopy n c).errors = s.errors := rfl
@[simp] theorem State.putCopy_coreMap (n : Nat) (c : Copy) : (s.putCopy n c).coreMap = s.coreMap := rfl
@[simp] theorem State.putCopy_failedCores (n : Nat) (c : Copy) : (s.putCopy n c).failedCores = s.failedCores := rfl
@[simp] theorem State.putCopy_engines (n : Nat) (c : Copy) : (s.putCopy n c).engines = s.engines := rfl
@[simp] theorem State.putCopy_serr (n : Nat) (c : Copy) : (s.putCopy n c).serr = s.serr := rfl
@[simp] theorem State.putCopy_seqUnit (n : Nat) (c : Copy) : (s.putCopy n c).seqUnit = s.seqUnit := rfl
@[simp] theorem State.putCopy_graphs (n : Nat) (c : Copy) : (s.putCopy n c).graphs = s.graphs := rfl
@[simp] theorem State.putCopy_waves (n : Nat) (c : Copy) : (s.putCopy n c).waves = s.waves := rfl
@[simp] theorem State.putCopy_waveNo (n : Nat) (c : Copy) : (s.putCopy n c).waveNo = s.waveNo := rfl
@[simp] theorem State.putCopy_copies (n : Nat) (c : Copy) : (s.putCopy n c).copies = aput s.copies n c := rfl
@[simp] theorem State.putCopy_ranges (n : Nat) (c : Copy) : (s.putCopy n c).ranges = s.ranges := rfl
@[simp] theorem State.putCopy_packets (n : Nat) (c : Copy) : (s.putCopy n c).packets = s.packets := rfl
@[simp] theorem State.putCopy_sums (n : Nat) (c : Copy) : (s.putCopy n c).sums = s.sums := rfl
@[simp] theorem State.putCopy_asked (n : Nat) (c : Copy) : (s.putCopy n c).asked = s.asked := rfl
@[simp] theorem State.putCopy_remotes (n : Nat) (c : Copy) : (s.putCopy n c).remotes = s.remotes := rfl
@[simp] theorem State.putCopy_events (n : Nat) (c : Copy) : (s.putCopy n c).events = s.events := rfl
@[simp] theorem State.putCopy_replies (n : Nat) (c : Copy) : (s.putCopy n c).replies = s.replies := rfl
@[simp] theorem State.putCopy_links (n : Nat) (c : Copy) : (s.putCopy n c).links = s.links := rfl
@[simp] theorem State.putCopy_dropped (n : Nat) (c : Copy) : (s.putCopy n c).dropped = s.dropped := rfl
@[simp] theorem State.putCopy_downPorts (n : Nat) (c : Copy) : (s.putCopy n c).downPorts = s.downPorts := rfl
@[simp] theorem State.putCopy_defects (n : Nat) (c : Copy) : (s.putCopy n c).defects = s.defects := rfl
@[simp] theorem State.putCopy_windows (n : Nat) (c : Copy) : (s.putCopy n c).windows = s.windows := rfl
@[simp] theorem State.putCopy_islands (n : Nat) (c : Copy) : (s.putCopy n c).islands = s.islands := rfl
@[simp] theorem State.putCopy_script (n : Nat) (c : Copy) : (s.putCopy n c).script = s.script := rfl
@[simp] theorem State.putCopy_focus (n : Nat) (c : Copy) : (s.putCopy n c).focus = s.focus := rfl
@[simp] theorem State.putCopy_turn (n : Nat) (c : Copy) : (s.putCopy n c).turn = s.turn := rfl
@[simp] theorem State.putCopy_lazy (n : Nat) (c : Copy) : (s.putCopy n c).lazy = s.lazy := rfl
@[simp] theorem State.putCopy_tick (n : Nat) (c : Copy) : (s.putCopy n c).tick = s.tick := rfl
@[simp] theorem State.putCopy_fresh (n : Nat) (c : Copy) : (s.putCopy n c).fresh = s.fresh := rfl
@[simp] theorem State.putCopy_nextId (n : Nat) (c : Copy) : (s.putCopy n c).nextId = s.nextId := rfl

/-! putRange -/

@[simp] theorem State.putRange_phase (n : Nat) (r : Range) : (s.putRange n r).phase = s.phase := rfl
@[simp] theorem State.putRange_mgmt (n : Nat) (r : Range) : (s.putRange n r).mgmt = s.mgmt := rfl
@[simp] theorem State.putRange_keys (n : Nat) (r : Range) : (s.putRange n r).keys = s.keys := rfl
@[simp] theorem State.putRange_queues (n : Nat) (r : Range) : (s.putRange n r).queues = s.queues := rfl
@[simp] theorem State.putRange_launches (n : Nat) (r : Range) : (s.putRange n r).launches = s.launches := rfl
@[simp] theorem State.putRange_clusters (n : Nat) (r : Range) : (s.putRange n r).clusters = s.clusters := rfl
@[simp] theorem State.putRange_teams (n : Nat) (r : Range) : (s.putRange n r).teams = s.teams := rfl
@[simp] theorem State.putRange_cores (n : Nat) (r : Range) : (s.putRange n r).cores = s.cores := rfl
@[simp] theorem State.putRange_dies (n : Nat) (r : Range) : (s.putRange n r).dies = s.dies := rfl
@[simp] theorem State.putRange_mem (n : Nat) (r : Range) : (s.putRange n r).mem = s.mem := rfl
@[simp] theorem State.putRange_sealed (n : Nat) (r : Range) : (s.putRange n r).sealed = s.sealed := rfl
@[simp] theorem State.putRange_forms (n : Nat) (r : Range) : (s.putRange n r).forms = s.forms := rfl
@[simp] theorem State.putRange_tlb (n : Nat) (r : Range) : (s.putRange n r).tlb = s.tlb := rfl
@[simp] theorem State.putRange_errors (n : Nat) (r : Range) : (s.putRange n r).errors = s.errors := rfl
@[simp] theorem State.putRange_coreMap (n : Nat) (r : Range) : (s.putRange n r).coreMap = s.coreMap := rfl
@[simp] theorem State.putRange_failedCores (n : Nat) (r : Range) : (s.putRange n r).failedCores = s.failedCores := rfl
@[simp] theorem State.putRange_engines (n : Nat) (r : Range) : (s.putRange n r).engines = s.engines := rfl
@[simp] theorem State.putRange_serr (n : Nat) (r : Range) : (s.putRange n r).serr = s.serr := rfl
@[simp] theorem State.putRange_seqUnit (n : Nat) (r : Range) : (s.putRange n r).seqUnit = s.seqUnit := rfl
@[simp] theorem State.putRange_graphs (n : Nat) (r : Range) : (s.putRange n r).graphs = s.graphs := rfl
@[simp] theorem State.putRange_waves (n : Nat) (r : Range) : (s.putRange n r).waves = s.waves := rfl
@[simp] theorem State.putRange_waveNo (n : Nat) (r : Range) : (s.putRange n r).waveNo = s.waveNo := rfl
@[simp] theorem State.putRange_copies (n : Nat) (r : Range) : (s.putRange n r).copies = s.copies := rfl
@[simp] theorem State.putRange_ranges (n : Nat) (r : Range) : (s.putRange n r).ranges = aput s.ranges n r := rfl
@[simp] theorem State.putRange_packets (n : Nat) (r : Range) : (s.putRange n r).packets = s.packets := rfl
@[simp] theorem State.putRange_sums (n : Nat) (r : Range) : (s.putRange n r).sums = s.sums := rfl
@[simp] theorem State.putRange_asked (n : Nat) (r : Range) : (s.putRange n r).asked = s.asked := rfl
@[simp] theorem State.putRange_remotes (n : Nat) (r : Range) : (s.putRange n r).remotes = s.remotes := rfl
@[simp] theorem State.putRange_events (n : Nat) (r : Range) : (s.putRange n r).events = s.events := rfl
@[simp] theorem State.putRange_replies (n : Nat) (r : Range) : (s.putRange n r).replies = s.replies := rfl
@[simp] theorem State.putRange_links (n : Nat) (r : Range) : (s.putRange n r).links = s.links := rfl
@[simp] theorem State.putRange_dropped (n : Nat) (r : Range) : (s.putRange n r).dropped = s.dropped := rfl
@[simp] theorem State.putRange_downPorts (n : Nat) (r : Range) : (s.putRange n r).downPorts = s.downPorts := rfl
@[simp] theorem State.putRange_defects (n : Nat) (r : Range) : (s.putRange n r).defects = s.defects := rfl
@[simp] theorem State.putRange_windows (n : Nat) (r : Range) : (s.putRange n r).windows = s.windows := rfl
@[simp] theorem State.putRange_islands (n : Nat) (r : Range) : (s.putRange n r).islands = s.islands := rfl
@[simp] theorem State.putRange_script (n : Nat) (r : Range) : (s.putRange n r).script = s.script := rfl
@[simp] theorem State.putRange_focus (n : Nat) (r : Range) : (s.putRange n r).focus = s.focus := rfl
@[simp] theorem State.putRange_turn (n : Nat) (r : Range) : (s.putRange n r).turn = s.turn := rfl
@[simp] theorem State.putRange_lazy (n : Nat) (r : Range) : (s.putRange n r).lazy = s.lazy := rfl
@[simp] theorem State.putRange_tick (n : Nat) (r : Range) : (s.putRange n r).tick = s.tick := rfl
@[simp] theorem State.putRange_fresh (n : Nat) (r : Range) : (s.putRange n r).fresh = s.fresh := rfl
@[simp] theorem State.putRange_nextId (n : Nat) (r : Range) : (s.putRange n r).nextId = s.nextId := rfl

/-! putWave -/

@[simp] theorem State.putWave_phase (n : Nat) (w : Wave) : (s.putWave n w).phase = s.phase := rfl
@[simp] theorem State.putWave_mgmt (n : Nat) (w : Wave) : (s.putWave n w).mgmt = s.mgmt := rfl
@[simp] theorem State.putWave_keys (n : Nat) (w : Wave) : (s.putWave n w).keys = s.keys := rfl
@[simp] theorem State.putWave_queues (n : Nat) (w : Wave) : (s.putWave n w).queues = s.queues := rfl
@[simp] theorem State.putWave_launches (n : Nat) (w : Wave) : (s.putWave n w).launches = s.launches := rfl
@[simp] theorem State.putWave_clusters (n : Nat) (w : Wave) : (s.putWave n w).clusters = s.clusters := rfl
@[simp] theorem State.putWave_teams (n : Nat) (w : Wave) : (s.putWave n w).teams = s.teams := rfl
@[simp] theorem State.putWave_cores (n : Nat) (w : Wave) : (s.putWave n w).cores = s.cores := rfl
@[simp] theorem State.putWave_dies (n : Nat) (w : Wave) : (s.putWave n w).dies = s.dies := rfl
@[simp] theorem State.putWave_mem (n : Nat) (w : Wave) : (s.putWave n w).mem = s.mem := rfl
@[simp] theorem State.putWave_sealed (n : Nat) (w : Wave) : (s.putWave n w).sealed = s.sealed := rfl
@[simp] theorem State.putWave_forms (n : Nat) (w : Wave) : (s.putWave n w).forms = s.forms := rfl
@[simp] theorem State.putWave_tlb (n : Nat) (w : Wave) : (s.putWave n w).tlb = s.tlb := rfl
@[simp] theorem State.putWave_errors (n : Nat) (w : Wave) : (s.putWave n w).errors = s.errors := rfl
@[simp] theorem State.putWave_coreMap (n : Nat) (w : Wave) : (s.putWave n w).coreMap = s.coreMap := rfl
@[simp] theorem State.putWave_failedCores (n : Nat) (w : Wave) : (s.putWave n w).failedCores = s.failedCores := rfl
@[simp] theorem State.putWave_engines (n : Nat) (w : Wave) : (s.putWave n w).engines = s.engines := rfl
@[simp] theorem State.putWave_serr (n : Nat) (w : Wave) : (s.putWave n w).serr = s.serr := rfl
@[simp] theorem State.putWave_seqUnit (n : Nat) (w : Wave) : (s.putWave n w).seqUnit = s.seqUnit := rfl
@[simp] theorem State.putWave_graphs (n : Nat) (w : Wave) : (s.putWave n w).graphs = s.graphs := rfl
@[simp] theorem State.putWave_waves (n : Nat) (w : Wave) : (s.putWave n w).waves = aput s.waves n w := rfl
@[simp] theorem State.putWave_waveNo (n : Nat) (w : Wave) : (s.putWave n w).waveNo = s.waveNo := rfl
@[simp] theorem State.putWave_copies (n : Nat) (w : Wave) : (s.putWave n w).copies = s.copies := rfl
@[simp] theorem State.putWave_ranges (n : Nat) (w : Wave) : (s.putWave n w).ranges = s.ranges := rfl
@[simp] theorem State.putWave_packets (n : Nat) (w : Wave) : (s.putWave n w).packets = s.packets := rfl
@[simp] theorem State.putWave_sums (n : Nat) (w : Wave) : (s.putWave n w).sums = s.sums := rfl
@[simp] theorem State.putWave_asked (n : Nat) (w : Wave) : (s.putWave n w).asked = s.asked := rfl
@[simp] theorem State.putWave_remotes (n : Nat) (w : Wave) : (s.putWave n w).remotes = s.remotes := rfl
@[simp] theorem State.putWave_events (n : Nat) (w : Wave) : (s.putWave n w).events = s.events := rfl
@[simp] theorem State.putWave_replies (n : Nat) (w : Wave) : (s.putWave n w).replies = s.replies := rfl
@[simp] theorem State.putWave_links (n : Nat) (w : Wave) : (s.putWave n w).links = s.links := rfl
@[simp] theorem State.putWave_dropped (n : Nat) (w : Wave) : (s.putWave n w).dropped = s.dropped := rfl
@[simp] theorem State.putWave_downPorts (n : Nat) (w : Wave) : (s.putWave n w).downPorts = s.downPorts := rfl
@[simp] theorem State.putWave_defects (n : Nat) (w : Wave) : (s.putWave n w).defects = s.defects := rfl
@[simp] theorem State.putWave_windows (n : Nat) (w : Wave) : (s.putWave n w).windows = s.windows := rfl
@[simp] theorem State.putWave_islands (n : Nat) (w : Wave) : (s.putWave n w).islands = s.islands := rfl
@[simp] theorem State.putWave_script (n : Nat) (w : Wave) : (s.putWave n w).script = s.script := rfl
@[simp] theorem State.putWave_focus (n : Nat) (w : Wave) : (s.putWave n w).focus = s.focus := rfl
@[simp] theorem State.putWave_turn (n : Nat) (w : Wave) : (s.putWave n w).turn = s.turn := rfl
@[simp] theorem State.putWave_lazy (n : Nat) (w : Wave) : (s.putWave n w).lazy = s.lazy := rfl
@[simp] theorem State.putWave_tick (n : Nat) (w : Wave) : (s.putWave n w).tick = s.tick := rfl
@[simp] theorem State.putWave_fresh (n : Nat) (w : Wave) : (s.putWave n w).fresh = s.fresh := rfl
@[simp] theorem State.putWave_nextId (n : Nat) (w : Wave) : (s.putWave n w).nextId = s.nextId := rfl

/-! putGraph -/

@[simp] theorem State.putGraph_phase (n : Nat) (g : Graph) : (s.putGraph n g).phase = s.phase := rfl
@[simp] theorem State.putGraph_mgmt (n : Nat) (g : Graph) : (s.putGraph n g).mgmt = s.mgmt := rfl
@[simp] theorem State.putGraph_keys (n : Nat) (g : Graph) : (s.putGraph n g).keys = s.keys := rfl
@[simp] theorem State.putGraph_queues (n : Nat) (g : Graph) : (s.putGraph n g).queues = s.queues := rfl
@[simp] theorem State.putGraph_launches (n : Nat) (g : Graph) : (s.putGraph n g).launches = s.launches := rfl
@[simp] theorem State.putGraph_clusters (n : Nat) (g : Graph) : (s.putGraph n g).clusters = s.clusters := rfl
@[simp] theorem State.putGraph_teams (n : Nat) (g : Graph) : (s.putGraph n g).teams = s.teams := rfl
@[simp] theorem State.putGraph_cores (n : Nat) (g : Graph) : (s.putGraph n g).cores = s.cores := rfl
@[simp] theorem State.putGraph_dies (n : Nat) (g : Graph) : (s.putGraph n g).dies = s.dies := rfl
@[simp] theorem State.putGraph_mem (n : Nat) (g : Graph) : (s.putGraph n g).mem = s.mem := rfl
@[simp] theorem State.putGraph_sealed (n : Nat) (g : Graph) : (s.putGraph n g).sealed = s.sealed := rfl
@[simp] theorem State.putGraph_forms (n : Nat) (g : Graph) : (s.putGraph n g).forms = s.forms := rfl
@[simp] theorem State.putGraph_tlb (n : Nat) (g : Graph) : (s.putGraph n g).tlb = s.tlb := rfl
@[simp] theorem State.putGraph_errors (n : Nat) (g : Graph) : (s.putGraph n g).errors = s.errors := rfl
@[simp] theorem State.putGraph_coreMap (n : Nat) (g : Graph) : (s.putGraph n g).coreMap = s.coreMap := rfl
@[simp] theorem State.putGraph_failedCores (n : Nat) (g : Graph) : (s.putGraph n g).failedCores = s.failedCores := rfl
@[simp] theorem State.putGraph_engines (n : Nat) (g : Graph) : (s.putGraph n g).engines = s.engines := rfl
@[simp] theorem State.putGraph_serr (n : Nat) (g : Graph) : (s.putGraph n g).serr = s.serr := rfl
@[simp] theorem State.putGraph_seqUnit (n : Nat) (g : Graph) : (s.putGraph n g).seqUnit = s.seqUnit := rfl
@[simp] theorem State.putGraph_graphs (n : Nat) (g : Graph) : (s.putGraph n g).graphs = aput s.graphs n g := rfl
@[simp] theorem State.putGraph_waves (n : Nat) (g : Graph) : (s.putGraph n g).waves = s.waves := rfl
@[simp] theorem State.putGraph_waveNo (n : Nat) (g : Graph) : (s.putGraph n g).waveNo = s.waveNo := rfl
@[simp] theorem State.putGraph_copies (n : Nat) (g : Graph) : (s.putGraph n g).copies = s.copies := rfl
@[simp] theorem State.putGraph_ranges (n : Nat) (g : Graph) : (s.putGraph n g).ranges = s.ranges := rfl
@[simp] theorem State.putGraph_packets (n : Nat) (g : Graph) : (s.putGraph n g).packets = s.packets := rfl
@[simp] theorem State.putGraph_sums (n : Nat) (g : Graph) : (s.putGraph n g).sums = s.sums := rfl
@[simp] theorem State.putGraph_asked (n : Nat) (g : Graph) : (s.putGraph n g).asked = s.asked := rfl
@[simp] theorem State.putGraph_remotes (n : Nat) (g : Graph) : (s.putGraph n g).remotes = s.remotes := rfl
@[simp] theorem State.putGraph_events (n : Nat) (g : Graph) : (s.putGraph n g).events = s.events := rfl
@[simp] theorem State.putGraph_replies (n : Nat) (g : Graph) : (s.putGraph n g).replies = s.replies := rfl
@[simp] theorem State.putGraph_links (n : Nat) (g : Graph) : (s.putGraph n g).links = s.links := rfl
@[simp] theorem State.putGraph_dropped (n : Nat) (g : Graph) : (s.putGraph n g).dropped = s.dropped := rfl
@[simp] theorem State.putGraph_downPorts (n : Nat) (g : Graph) : (s.putGraph n g).downPorts = s.downPorts := rfl
@[simp] theorem State.putGraph_defects (n : Nat) (g : Graph) : (s.putGraph n g).defects = s.defects := rfl
@[simp] theorem State.putGraph_windows (n : Nat) (g : Graph) : (s.putGraph n g).windows = s.windows := rfl
@[simp] theorem State.putGraph_islands (n : Nat) (g : Graph) : (s.putGraph n g).islands = s.islands := rfl
@[simp] theorem State.putGraph_script (n : Nat) (g : Graph) : (s.putGraph n g).script = s.script := rfl
@[simp] theorem State.putGraph_focus (n : Nat) (g : Graph) : (s.putGraph n g).focus = s.focus := rfl
@[simp] theorem State.putGraph_turn (n : Nat) (g : Graph) : (s.putGraph n g).turn = s.turn := rfl
@[simp] theorem State.putGraph_lazy (n : Nat) (g : Graph) : (s.putGraph n g).lazy = s.lazy := rfl
@[simp] theorem State.putGraph_tick (n : Nat) (g : Graph) : (s.putGraph n g).tick = s.tick := rfl
@[simp] theorem State.putGraph_fresh (n : Nat) (g : Graph) : (s.putGraph n g).fresh = s.fresh := rfl
@[simp] theorem State.putGraph_nextId (n : Nat) (g : Graph) : (s.putGraph n g).nextId = s.nextId := rfl

/-! Parts read back. -/

@[simp] theorem State.core_putCore_self (n : Nat) (c : Core) : (s.putCore n c).core n = c := by simp [State.core]
theorem State.core_putCore_ne {n m : Nat} (c : Core) (h : m ≠ n) : (s.putCore n c).core m = s.core m := by
  simp [State.core, aget_aput_ne _ _ h]
@[simp] theorem State.die_putDie_self (n : Nat) (d : Die) : (s.putDie n d).die n = d := by simp [State.die]
theorem State.die_putDie_ne {n m : Nat} (d : Die) (h : m ≠ n) : (s.putDie n d).die m = s.die m := by
  simp [State.die, aget_aput_ne _ _ h]
@[simp] theorem State.queue_putQueue_self (n : Nat) (q : Queue) : (s.putQueue n q).queue n = q := by simp [State.queue]
@[simp] theorem State.putTeam_putTeam (n : Nat) (x y : Team) : (s.putTeam n x).putTeam n y = s.putTeam n y := by
  simp [State.putTeam]
@[simp] theorem State.core_putTeam (n m : Nat) (x : Team) : (s.putTeam n x).core m = s.core m := rfl
@[simp] theorem State.die_putTeam (n m : Nat) (x : Team) : (s.putTeam n x).die m = s.die m := rfl
@[simp] theorem State.die_putCore (n m : Nat) (c : Core) : (s.putCore n c).die m = s.die m := rfl
@[simp] theorem State.core_putDie (n m : Nat) (d : Die) : (s.putDie n d).core m = s.core m := rfl
@[simp] theorem State.queue_putTeam (n m : Nat) (x : Team) : (s.putTeam n x).queue m = s.queue m := rfl
@[simp] theorem State.record?_putTeam (n l : Nat) (x : Team) : (s.putTeam n x).record? l = s.record? l := rfl
@[simp] theorem State.rootOf_putTeam (n l : Nat) (x : Team) : (s.putTeam n x).rootOf l = s.rootOf l := rfl
@[simp] theorem State.place?_putTeam (n k c : Nat) (x : Team) : (s.putTeam n x).place? k c = s.place? k c := rfl

end Sys2Proof.Machine
end

