-- ==== Sys2Proof/Laws/Ops.lean ====
section
/-!
SUPPORT. What executing an instruction comes to when its checks pass, and what a result writes.
-/

namespace Sys2Proof.Machine

/-- An instruction that passes its checks settles what its body does. -/
theorem issue_eq {i : Instr} {s : State} {t : Nat} {x : Team} (h : Issues i s t x) (body : Body) :
    issue i s body = .next ((s.putTeam t (x.issued i)).settle t (literalsOf i) (x.issued i)
      (body t (x.issued i) (s.putTeam t (x.issued i)))) := by
  obtain ⟨hf, ht, hl, hg, hr, he, hp, ho, hc⟩ := h
  have f : s.focused = some (t, x) := by simp [State.focused, hf, ht]
  have a : (s.putTeam t (x.issued i)).attempt t (x.issued i) i body
      = body t (x.issued i) (s.putTeam t (x.issued i)) := by
    have h0 : (s.putTeam t (x.issued i)).holdBack (x.issued i) i = none := by
      have q : (x.issued i).pending i = false := hp
      have w : (classRole i == 2 && ((s.putTeam t (x.issued i)).core (x.issued i).core).owner != some (x.issued i).launch) = false := by
        by_cases c : classRole i = 2
        · have := ho c
          simp only [State.core_putTeam, c, BEq.rfl, Bool.true_and, bne_eq_false_iff_eq]
          exact this
        · simp [c]
      simp only [State.holdBack, w, q, Bool.false_eq_true, if_false]
    have h1 : (s.putTeam t (x.issued i)).issueCheck (x.issued i) i = none := by
      have d : (x.issued i).decodeCheck i = none := hl
      have e : (s.putTeam t (x.issued i)).stateCheck (x.issued i) i = none := hg
      simp [State.issueCheck, d, e]
    have h2 : roleOwns (x.issued i).role i = true := hr
    have h3 : (s.putTeam t (x.issued i)).regError t (x.issued i) i = none := he
    have h5 : (x.issued i).planes.any ((x.issued i).writesPlane i) = false := hc
    simp only [State.attempt, h0, h1, h2, h3, h5, Bool.not_true, Bool.false_eq_true, if_false]
  simp only [issue, f]
  exact congrArg _ (congrArg _ a)

/-- An effect that goes on behind it retires. -/
theorem settle_next {s s' : State} {t : Nat} {x : Team} {i : Instr} (h : s'.goesOn x) :
    s.settle t (literalsOf i) x (.next s') = s'.retired t x i := by
  unfold State.settle State.retired
  by_cases c : x.atLast = true
  · simp [c, State.retireTo, h c]
  · simp [c]

theorem retired_issued {s : State} {t : Nat} {x : Team} {i : Instr} : s.retired t (x.issued i) i = s.retired t x i := rfl

/-- An instruction that passes its checks, and whose body has an effect, completes. -/
theorem issue_next {i : Instr} {s s' : State} {t : Nat} {x : Team} {body : Body} (h : Issues i s t x)
    (b : body t (x.issued i) (s.putTeam t (x.issued i)) = .next s') (g : s'.goesOn x) :
    issue i s body = .next (s'.retired t x i) := by
  rw [issue_eq h, b]
  exact congrArg _ (settle_next (x := x.issued i) g)

/-- A transfer to a header that can be fetched retires there. -/
theorem issue_goto {i : Instr} {s s' : State} {t : Nat} {x : Team} {body : Body} {off : BitVec 52} (h : Issues i s t x)
    (b : body t (x.issued i) (s.putTeam t (x.issued i)) = .goto off s') (g : s'.clauseFault x.launch off = none)
    (hd : isHeader (s'.codeWord x.launch off) = true) :
    issue i s body = .next (s'.retiredTo t x i off) := by
  rw [issue_eq h, b]
  have g' : s'.clauseFault (x.issued i).launch off = none := g
  have hd' : isHeader (s'.codeWord (x.issued i).launch off) = true := hd
  simp only [State.settle, State.retireTo, g', hd', Bool.not_true, Bool.and_false, Bool.false_eq_true, if_false]
  rfl

/-- An instruction that changes its own team only. -/
theorem issue_team {i : Instr} {s : State} {t : Nat} {x : Team} {f : Team → Team} (h : Issues i s t x)
    (g : (s.putTeam t (f (x.issued i))).goesOn x) :
    issue i s (teamAct f) = .next ((s.putTeam t (f (x.issued i))).retired t x i) :=
  issue_next h (by simp [teamAct]) g

/-- An instruction that waits is not retired: the team is parked. -/
theorem issue_wait {i : Instr} {s s' : State} {t : Nat} {x : Team} {body : Body} {p : Park} (h : Issues i s t x)
    (b : body t (x.issued i) (s.putTeam t (x.issued i)) = .wait p s') : issue i s body = .next (s'.park t p) := by
  rw [issue_eq h, b]; rfl

/-- An instruction whose body traps. -/
theorem issue_trap {i : Instr} {s : State} {t : Nat} {x : Team} {body : Body} {r : Report} (h : Issues i s t x)
    (b : body t (x.issued i) (s.putTeam t (x.issued i)) = .trap r) :
    issue i s body = .next ((s.putTeam t (x.issued i)).takeTrap t { r with word := x.word }) := by
  rw [issue_eq h, b]; rfl

/-- An instruction that the decoder's checks turn away. -/
theorem issue_illegal {i : Instr} {s : State} {t : Nat} {x : Team} {body : Body} {sub : BitVec 4} (hf : s.focus = some t)
    (ht : aget s.teams t = some x) (h0 : (s.putTeam t (x.issued i)).holdBack (x.issued i) i = none)
    (hl : (s.putTeam t (x.issued i)).issueCheck (x.issued i) i = some sub) :
    issue i s body = .next ((s.putTeam t (x.issued i)).takeTrap t { Report.illegal sub with word := x.word }) := by
  have f : s.focused = some (t, x) := by simp [State.focused, hf, ht]
  have a : (s.putTeam t (x.issued i)).attempt t (x.issued i) i body = .trap (.illegal sub) := by
    simp only [State.attempt, h0, hl]
  simp only [issue, f]
  exact congrArg _ (congrArg (State.settle _ _ _ _) a)

/-- Executing an instruction of a team answers a next state, whatever it comes to. -/
theorem issue_moves {i : Instr} {s : State} {t : Nat} {x : Team} (body : Body) (hf : s.focus = some t)
    (ht : aget s.teams t = some x) : ∃ u, issue i s body = .next u := by
  have f : s.focused = some (t, x) := by simp [State.focused, hf, ht]
  simp only [issue, f]
  exact ⟨_, rfl⟩

/-- No instruction is refused. -/
theorem issue_not_refused {i : Instr} {s : State} (body : Body) (r : Refusal) : issue i s body ≠ .refused r := by
  unfold issue; split <;> simp

/-- A team that waits goes on. -/
theorem resume_next {s : State} {t : Nat} {x : Team} {w : Park} {p : Team → Park → Bool} (h : aget s.teams t = some x)
    (k : x.park = some w) (m : s.resident t x = true) (c : p x w = true) :
    resume t p s = .next (s.putTeam t { x with park := none }) := by
  simp [resume, h, k, m, c, ofEvent]

/-- Nothing to publish behind a stall. -/
theorem withDusk_pass {s : State} {t : Nat} {x : Team} (k : State → Act) (h : s.duskStalls x.core t = false) :
    withDusk t x s k = k (s.publishTeam x.core t) := by
  simp [withDusk, h]

/-- The team behind its release: no marker is under way, and what its die has published is released (R322, R414). -/
def behindRelease (t : Nat) (x : Team) (s : State) : Team :=
  { x with markers := none,
           released := (((s.putTeam t { x with markers := none }).publishTeam x.core t).die (dieOf x.core)).pubs.length }

/-- A release that waits for no endpoint publishes and goes on. -/
theorem withRelease_pass {s : State} {t : Nat} {x : Team} (sys : Bool) (k : Team → State → Act)
    (h : ∀ e ∈ x.sentTo, sys = false ∧ 98 ≤ e.1) (r : x.redDrop = none) (m : x.msgDrop = none)
    (d : (s.putTeam t { x with markers := none }).duskStalls x.core t = false) :
    withRelease sys t x s k = k (behindRelease t x s)
      (((s.putTeam t { x with markers := none }).publishTeam x.core t).putTeam t (behindRelease t x s)) := by
  have n : (x.sentTo.any fun e => sys || decide (e.1 < 98)) = false := by
    simpa using h
  have p : Team.dropTrap { x with markers := none } = none := by simp [Team.dropTrap, r, m]
  simp only [withRelease, withFlush, n, p, withPackage, withDusk, d, Bool.false_eq_true, ↓reduceIte]
  rfl

/-- A release that an endpoint has not acknowledged waits; its markers leave with the first wait. -/
theorem withRelease_wait {s : State} {t : Nat} {x : Team} (sys : Bool) (k : Team → State → Act) {e : Nat × Endpoint}
    (h : e ∈ x.sentTo) (g : sys = true ∨ e.1 < 98) :
    withRelease sys t x s k = .wait .flush (s.putTeam t { x with markers := x.markers.or (some s.nextId) }) := by
  have n : (x.sentTo.any fun e => sys || decide (e.1 < 98)) = true := by
    rw [List.any_eq_true]; exact ⟨e, h, by rcases g with g | g <;> simp [g]⟩
  simp [withRelease, withFlush, n]

/-- A trap of a team whose loads have all performed. -/
theorem takeTrap_eq {s : State} {t : Nat} {x : Team} {r : Report} (h : aget s.teams t = some x) (l : x.late = []) :
    s.takeTrap t r = s.enterTrap t r false := by
  unfold State.takeTrap State.performLoads
  simp [h, l]

/-- A trap with no handler, or in it, ends the launch. -/
theorem takeTrap_abort {s : State} {t : Nat} {x : Team} {r : Report} (h : aget s.teams t = some x) (l : x.late = [])
    (c : x.trap.vec = 0#32 ∨ x.trap.inTrap = true) :
    s.takeTrap t r = s.abortLaunch x.launch (0#16 ++ r.cause ++ 0#4 ++ r.sub) (x.pcOff.setWidth 32) := by
  rw [takeTrap_eq h l]
  unfold State.enterTrap
  rw [h]
  rcases c with c | c <;> simp [c]

/-- A trap that the handler takes. -/
theorem takeTrap_handler {s : State} {t : Nat} {x : Team} {r : Report} (h : aget s.teams t = some x) (l : x.late = []) (v : x.trap.vec ≠ 0#32)
    (n : x.trap.inTrap = false) (f : s.clauseFault x.launch (x.trap.vec.setWidth 52) = none)
    (hd : isHeader (s.codeWord x.launch (x.trap.vec.setWidth 52)) = true) :
    s.takeTrap t r = (s.putTeam t (x.enterHandler r)).countIssue x.core t := by
  have v' : (x.trap.vec == 0#32) = false := by simpa using v
  rw [takeTrap_eq h l]
  unfold State.enterTrap
  rw [h]
  simp [v', n, f, hd]

@[simp] theorem act_issued (x : Team) (i : Instr) : (x.issued i).act = x.act := rfl

theorem mem_active {x : Team} {l : Nat} : l ∈ x.active ↔ x.act l = true := by
  simp [Team.active, Team.act]

theorem act_lt {x : Team} {l : Nat} (h : x.act l = true) : l < 1024 := by
  simp only [Team.act, Bool.and_eq_true, decide_eq_true_eq] at h
  by_contra c
  rw [BitVec.getLsbD_of_ge _ _ (by omega)] at h
  exact absurd h.2 (by simp)

end Sys2Proof.Machine
end

