-- ==== Sys2Proof/Laws/PerInstr.lean ====
section
/-!
SUPPORT. One lemma per instruction: its word is decoded to it, by the decoder of words or of headers; a step without an encoding has no
word.
-/

namespace Sys2Proof.Laws

variable (mj : BitVec 7) (fn : BitVec 4) (d a b : Field) (imm : BitVec 14) (off : BitVec 21)

/-- A bit of a field, once the fields below it are split off. -/
theorem bit_of {w : Nat} (f : BitVec w) {i j : Nat} (h : i < w) (e : j = i) : f.getLsbD j = f[i] := by
  subst e; exact BitVec.getLsbD_eq_getElem h

@[simp] theorem mkR_major : wMajor (mkR mj fn d a b) = mj := by
  unfold wMajor mkR; ext i h; rw [BitVec.getElem_extractLsb']; simp only [BitVec.getLsbD_append]
  rw [if_neg (by omega), if_neg (by omega), if_neg (by omega), if_neg (by omega)]; exact bit_of mj h (by omega)

@[simp] theorem mkR_fn : wFn (mkR mj fn d a b) = fn := by
  unfold wFn mkR; ext i h; rw [BitVec.getElem_extractLsb']; simp only [BitVec.getLsbD_append]
  rw [if_neg (by omega), if_neg (by omega), if_neg (by omega), if_pos (by omega)]; exact bit_of fn h (by omega)

@[simp] theorem mkR_d : wD (mkR mj fn d a b) = d := by
  unfold wD mkR; ext i h; rw [BitVec.getElem_extractLsb']; simp only [BitVec.getLsbD_append]
  rw [if_neg (by omega), if_neg (by omega), if_pos (by omega)]; exact bit_of d h (by omega)

@[simp] theorem mkR_a : wA (mkR mj fn d a b) = a := by
  unfold wA mkR; ext i h; rw [BitVec.getElem_extractLsb']; simp only [BitVec.getLsbD_append]
  rw [if_neg (by omega), if_pos (by omega)]; exact bit_of a h (by omega)

@[simp] theorem mkR_b : wB (mkR mj fn d a b) = b := by
  unfold wB mkR; ext i h; rw [BitVec.getElem_extractLsb']; simp only [BitVec.getLsbD_append]
  rw [if_pos (by omega)]; exact bit_of b h (by omega)

@[simp] theorem mkI_major : wMajor (mkI mj fn d imm) = mj := by
  unfold wMajor mkI; ext i h; rw [BitVec.getElem_extractLsb']; simp only [BitVec.getLsbD_append]
  rw [if_neg (by omega), if_neg (by omega), if_neg (by omega)]; exact bit_of mj h (by omega)

@[simp] theorem mkI_fn : wFn (mkI mj fn d imm) = fn := by
  unfold wFn mkI; ext i h; rw [BitVec.getElem_extractLsb']; simp only [BitVec.getLsbD_append]
  rw [if_neg (by omega), if_neg (by omega), if_pos (by omega)]; exact bit_of fn h (by omega)

@[simp] theorem mkI_d : wD (mkI mj fn d imm) = d := by
  unfold wD mkI; ext i h; rw [BitVec.getElem_extractLsb']; simp only [BitVec.getLsbD_append]
  rw [if_neg (by omega), if_pos (by omega)]; exact bit_of d h (by omega)

@[simp] theorem mkI_imm : wImm (mkI mj fn d imm) = imm := by
  unfold wImm mkI; ext i h; rw [BitVec.getElem_extractLsb']; simp only [BitVec.getLsbD_append]
  rw [if_pos (by omega)]; exact bit_of imm h (by omega)

@[simp] theorem mkB_major : wMajor (mkB mj fn off) = mj := by
  unfold wMajor mkB; ext i h; rw [BitVec.getElem_extractLsb']; simp only [BitVec.getLsbD_append]
  rw [if_neg (by omega), if_neg (by omega)]; exact bit_of mj h (by omega)

@[simp] theorem mkB_fn : wFn (mkB mj fn off) = fn := by
  unfold wFn mkB; ext i h; rw [BitVec.getElem_extractLsb']; simp only [BitVec.getLsbD_append]
  rw [if_neg (by omega), if_pos (by omega)]; exact bit_of fn h (by omega)

@[simp] theorem mkB_off : wOff (mkB mj fn off) = off := by
  unfold wOff mkB; ext i h; rw [BitVec.getElem_extractLsb']; simp only [BitVec.getLsbD_append]
  rw [if_pos (by omega)]; exact bit_of off h (by omega)

@[simp] theorem mkR_top : (mkR mj fn d a b).extractLsb' 28 4 = mj.extractLsb' 3 4 := by
  unfold mkR; ext i h; rw [BitVec.getElem_extractLsb', BitVec.getElem_extractLsb']; simp only [BitVec.getLsbD_append]
  rw [if_neg (by omega), if_neg (by omega), if_neg (by omega), if_neg (by omega)]; congr 1; omega

@[simp] theorem mkI_top : (mkI mj fn d imm).extractLsb' 28 4 = mj.extractLsb' 3 4 := by
  unfold mkI; ext i h; rw [BitVec.getElem_extractLsb', BitVec.getElem_extractLsb']; simp only [BitVec.getLsbD_append]
  rw [if_neg (by omega), if_neg (by omega), if_neg (by omega)]; congr 1; omega

@[simp] theorem mkB_top : (mkB mj fn off).extractLsb' 28 4 = mj.extractLsb' 3 4 := by
  unfold mkB; ext i h; rw [BitVec.getElem_extractLsb', BitVec.getElem_extractLsb']; simp only [BitVec.getLsbD_append]
  rw [if_neg (by omega), if_neg (by omega)]; congr 1; omega

@[simp] theorem Cond_code (x : Cond) : Cond.ofCode x.code = some x := by cases x <;> rfl
@[simp] theorem MCond_code (x : MCond) : MCond.ofCode x.code = some x := by cases x <;> rfl
@[simp] theorem CmpT_code (x : CmpT) : CmpT.ofCode x.code = some x := by cases x <;> rfl
@[simp] theorem IdrForm_code (x : IdrForm) : IdrForm.ofCode x.code = some x := by cases x <;> rfl
@[simp] theorem SetCond_code (x : SetCond) : SetCond.ofCode x.code = some x := by cases x <;> rfl
@[simp] theorem ShflForm_code (x : ShflForm) : ShflForm.ofCode x.code = some x := by cases x <;> rfl
@[simp] theorem VoteForm_code (x : VoteForm) : VoteForm.ofCode x.code = some x := by cases x <;> rfl
@[simp] theorem RedOp_code (x : RedOp) : RedOp.ofCode x.code = some x := by cases x <;> rfl
@[simp] theorem ScanOp_code (x : ScanOp) : ScanOp.ofCode x.code = some x := by cases x <;> rfl
@[simp] theorem FCond_code (x : FCond) : FCond.ofCode x.code = some x := by cases x <;> rfl
@[simp] theorem CvtSel_code (x : CvtSel) : CvtSel.ofCode x.code = some x := by cases x <;> rfl
@[simp] theorem QType_code (x : QType) : QType.ofCode x.code = some x := by cases x <;> rfl
@[simp] theorem LdW_code (x : LdW) : LdW.ofCode x.code = some x := by cases x <;> rfl
@[simp] theorem StW_code (x : StW) : StW.ofCode x.code = some x := by cases x <;> rfl
@[simp] theorem AtomOp_code (x : AtomOp) : AtomOp.ofCode x.code = some x := by cases x <;> rfl
@[simp] theorem Scope_code (x : Scope) : Scope.ofCode x.code = some x := by cases x <;> rfl
@[simp] theorem ScatOp_code (x : ScatOp) : ScatOp.ofCode x.code = some x := by cases x <;> rfl

/-- The top of a window base's immediate, and its value (R108). -/
@[simp] theorem winbase_top (base : BitVec 4) : (mkI 0x08#7 0#4 0#7 (0#10 ++ base)).extractLsb' 4 10 = 0#10 := by
  revert base; decide
@[simp] theorem winbase_base (base : BitVec 4) : (mkI 0x08#7 0#4 0#7 (0#10 ++ base)).extractLsb' 0 4 = base := by
  revert base; decide

namespace RoundTrip

/-- The instruction's word, if it has one, is decoded to the instruction. -/
def Statement (i : Instr) : Prop := ∀ w, encode i = some w → i.wf = true → decodeInstr w = .ok i ∨ decodeHeader w = .ok i

theorem clauseStart (wait : BitVec 12) (setA setB len : BitVec 4) (lits : BitVec 2) (region : Bool) : Statement (.clauseStart wait setA setB len lits region) := by
  intro w h k; cases h
  have f : ∀ (n q : Nat) (v : BitVec q),
      (∀ i (h : i < q), (15#4 ++ wait ++ setA ++ setB ++ len ++ lits ++ BitVec.ofBool region ++ 0#1 : Word).getLsbD (n + i) = v[i]) →
      (15#4 ++ wait ++ setA ++ setB ++ len ++ lits ++ BitVec.ofBool region ++ 0#1 : Word).extractLsb' n q = v := by
    intro n q v g; ext i h; rw [BitVec.getElem_extractLsb']; exact g i h
  simp only [BitVec.getLsbD_append] at f
  have top := f 28 4 15#4 fun i h => by
    rw [if_neg (by omega), if_neg (by omega), if_neg (by omega), if_neg (by omega), if_neg (by omega), if_neg (by omega), if_neg (by omega)]
    exact bit_of _ h (by omega)
  have wt := f 16 12 wait fun i h => by
    rw [if_neg (by omega), if_neg (by omega), if_neg (by omega), if_neg (by omega), if_neg (by omega), if_neg (by omega), if_pos (by omega)]
    exact bit_of _ h (by omega)
  have sa := f 12 4 setA fun i h => by
    rw [if_neg (by omega), if_neg (by omega), if_neg (by omega), if_neg (by omega), if_neg (by omega), if_pos (by omega)]
    exact bit_of _ h (by omega)
  have sb := f 8 4 setB fun i h => by
    rw [if_neg (by omega), if_neg (by omega), if_neg (by omega), if_neg (by omega), if_pos (by omega)]
    exact bit_of _ h (by omega)
  have ln := f 4 4 len fun i h => by
    rw [if_neg (by omega), if_neg (by omega), if_neg (by omega), if_pos (by omega)]
    exact bit_of _ h (by omega)
  have lt := f 2 2 lits fun i h => by
    rw [if_neg (by omega), if_neg (by omega), if_pos (by omega)]
    exact bit_of _ h (by omega)
  have rg : (15#4 ++ wait ++ setA ++ setB ++ len ++ lits ++ BitVec.ofBool region ++ 0#1 : Word).getLsbD 1 = region := by
    simp only [BitVec.getLsbD_append]; simp
  have zr : (15#4 ++ wait ++ setA ++ setB ++ len ++ lits ++ BitVec.ofBool region ++ 0#1 : Word).getLsbD 0 = false := by
    simp only [BitVec.getLsbD_append]; simp
  simp only [Instr.wf, Bool.and_eq_true] at k
  right
  simp only [decodeHeader, isHeader, top, wt, sa, sb, ln, lt, rg, zr, k.1, k.2]
  rfl

theorem nop : Statement .nop := by
  intro w h _; cases h; exact .inl (by simp [decodeInstr, decodeFlow])

theorem halt : Statement .halt := by
  intro w h _; cases h; exact .inl (by simp [decodeInstr, decodeFlow])

theorem bCond (c : Cond) (off : BitVec 21) : Statement (.bCond c off) := by
  intro w h _; cases h; exact .inl (by simp [decodeInstr, decodeFlow, orFunction])

theorem bMask (c : MCond) (off : BitVec 21) : Statement (.bMask c off) := by
  intro w h _; cases h; exact .inl (by simp [decodeInstr, decodeFlow, orFunction])

theorem call (off : BitVec 21) : Statement (.call off) := by
  intro w h _; cases h; exact .inl (by simp [decodeInstr, decodeFlow])

theorem ret (a : Field) : Statement (.ret a) := by
  intro w h _; cases h; exact .inl (by simp [decodeInstr, decodeFlow])

theorem callr (d a : Field) : Statement (.callr d a) := by
  intro w h _; cases h; exact .inl (by simp [decodeInstr, decodeFlow])

theorem br (a : Field) : Statement (.br a) := by
  intro w h _; cases h; exact .inl (by simp [decodeInstr, decodeFlow])

theorem cmpu (t : CmpT) (a b : Field) : Statement (.cmpu t a b) := by
  intro w h _; cases h; exact .inl (by simp [decodeInstr, decodeFlow, orFunction])

theorem mpush (d p : Field) : Statement (.mpush d p) := by
  intro w h _; cases h; exact .inl (by simp [decodeInstr, decodeFlow])

theorem melse (s p : Field) : Statement (.melse s p) := by
  intro w h _; cases h; exact .inl (by simp [decodeInstr, decodeFlow])

theorem mpop (s : Field) : Statement (.mpop s) := by
  intro w h _; cases h; exact .inl (by simp [decodeInstr, decodeFlow])

theorem yield : Statement .yield := by
  intro w h _; cases h; exact .inl (by simp [decodeInstr, decodeFlow])

theorem yieldF (a b : Field) : Statement (.yieldF a b) := by
  intro w h _; cases h; exact .inl (by simp [decodeInstr, decodeFlow])

theorem yieldC (d a b : Field) : Statement (.yieldC d a b) := by
  intro w h _; cases h; exact .inl (by simp [decodeInstr, decodeFlow])

theorem yieldParkResume (team : Nat) : Statement (.yieldParkResume team) := by
  intro w h; cases h

theorem winbase (base : BitVec 4) : Statement (.winbase base) := by
  intro w h _; cases h; exact .inl (by simp [decodeInstr, decodeFlow])

theorem stgpost (a q : Field) : Statement (.stgpost a q) := by
  intro w h _; cases h; exact .inl (by simp [decodeInstr, decodeFlow])

theorem stgtake (d q : Field) : Statement (.stgtake d q) := by
  intro w h _; cases h; exact .inl (by simp [decodeInstr, decodeFlow])

theorem stageRingResume (team : Nat) : Statement (.stageRingResume team) := by
  intro w h; cases h

theorem idr (f : IdrForm) (d : Field) : Statement (.idr f d) := by
  intro w h _; cases h; exact .inl (by simp [decodeInstr, decodeFlow, orFunction])

theorem cycles (hi : Bool) (d : Field) : Statement (.cycles hi d) := by
  intro w h _; cases hi <;> (cases h; exact .inl (by simp [decodeInstr, decodeFlow]))

theorem retired (hi : Bool) (d : Field) : Statement (.retired hi d) := by
  intro w h _; cases hi <;> (cases h; exact .inl (by simp [decodeInstr, decodeFlow]))

theorem regionPc (d : Field) : Statement (.regionPc d) := by
  intro w h _; cases h; exact .inl (by simp [decodeInstr, decodeFlow])

theorem regionCount (d : Field) : Statement (.regionCount d) := by
  intro w h _; cases h; exact .inl (by simp [decodeInstr, decodeFlow])

theorem add (d a b : Field) : Statement (.add d a b) := by
  intro w h _; cases h; exact .inl (by simp [decodeInstr, decodeInteger])

theorem sub (d a b : Field) : Statement (.sub d a b) := by
  intro w h _; cases h; exact .inl (by simp [decodeInstr, decodeInteger])

theorem addc (d a b : Field) : Statement (.addc d a b) := by
  intro w h _; cases h; exact .inl (by simp [decodeInstr, decodeInteger])

theorem subc (d a b : Field) : Statement (.subc d a b) := by
  intro w h _; cases h; exact .inl (by simp [decodeInstr, decodeInteger])

theorem adds (t : Sgn) (d a b : Field) : Statement (.adds t d a b) := by
  intro w h _; cases t <;> (cases h; exact .inl (by simp [decodeInstr, decodeInteger]))

theorem subs (t : Sgn) (d a b : Field) : Statement (.subs t d a b) := by
  intro w h _; cases t <;> (cases h; exact .inl (by simp [decodeInstr, decodeInteger]))

theorem mul (d a b : Field) : Statement (.mul d a b) := by
  intro w h _; cases h; exact .inl (by simp [decodeInstr, decodeInteger])

theorem mulhI32 (d a b : Field) : Statement (.mulhI32 d a b) := by
  intro w h _; cases h; exact .inl (by simp [decodeInstr, decodeInteger])

theorem mulhN32 (d a b : Field) : Statement (.mulhN32 d a b) := by
  intro w h _; cases h; exact .inl (by simp [decodeInstr, decodeInteger])

theorem mulwI32 (d a b : Field) : Statement (.mulwI32 d a b) := by
  intro w h _; cases h; exact .inl (by simp [decodeInstr, decodeInteger])

theorem mulwN32 (d a b : Field) : Statement (.mulwN32 d a b) := by
  intro w h _; cases h; exact .inl (by simp [decodeInstr, decodeInteger])

theorem mad (d a b : Field) : Statement (.mad d a b) := by
  intro w h _; cases h; exact .inl (by simp [decodeInstr, decodeInteger])

theorem madhI32 (d a b : Field) : Statement (.madhI32 d a b) := by
  intro w h _; cases h; exact .inl (by simp [decodeInstr, decodeInteger])

theorem madhN32 (d a b : Field) : Statement (.madhN32 d a b) := by
  intro w h _; cases h; exact .inl (by simp [decodeInstr, decodeInteger])

theorem divstepN32 (d a : Field) : Statement (.divstepN32 d a) := by
  intro w h _; cases h; exact .inl (by simp [decodeInstr, decodeInteger])

theorem divstepI32 (d a b : Field) : Statement (.divstepI32 d a b) := by
  intro w h _; cases h; exact .inl (by simp [decodeInstr, decodeInteger])

theorem and (d a b : Field) : Statement (.and d a b) := by
  intro w h _; cases h; exact .inl (by simp [decodeInstr, decodeInteger])

theorem or (d a b : Field) : Statement (.or d a b) := by
  intro w h _; cases h; exact .inl (by simp [decodeInstr, decodeInteger])

theorem xor (d a b : Field) : Statement (.xor d a b) := by
  intro w h _; cases h; exact .inl (by simp [decodeInstr, decodeInteger])

theorem andn (d a b : Field) : Statement (.andn d a b) := by
  intro w h _; cases h; exact .inl (by simp [decodeInstr, decodeInteger])

theorem orn (d a b : Field) : Statement (.orn d a b) := by
  intro w h _; cases h; exact .inl (by simp [decodeInstr, decodeInteger])

theorem xnor (d a b : Field) : Statement (.xnor d a b) := by
  intro w h _; cases h; exact .inl (by simp [decodeInstr, decodeInteger])

theorem not (d a : Field) : Statement (.not d a) := by
  intro w h _; cases h; exact .inl (by simp [decodeInstr, decodeInteger])

theorem shl (d a b : Field) : Statement (.shl d a b) := by
  intro w h _; cases h; exact .inl (by simp [decodeInstr, decodeInteger])

theorem shrN32 (d a b : Field) : Statement (.shrN32 d a b) := by
  intro w h _; cases h; exact .inl (by simp [decodeInstr, decodeInteger])

theorem shrI32 (d a b : Field) : Statement (.shrI32 d a b) := by
  intro w h _; cases h; exact .inl (by simp [decodeInstr, decodeInteger])

theorem rotl (d a b : Field) : Statement (.rotl d a b) := by
  intro w h _; cases h; exact .inl (by simp [decodeInstr, decodeInteger])

theorem rotr (d a b : Field) : Statement (.rotr d a b) := by
  intro w h _; cases h; exact .inl (by simp [decodeInstr, decodeInteger])

theorem minI32 (d a b : Field) : Statement (.minI32 d a b) := by
  intro w h _; cases h; exact .inl (by simp [decodeInstr, decodeInteger])

theorem maxI32 (d a b : Field) : Statement (.maxI32 d a b) := by
  intro w h _; cases h; exact .inl (by simp [decodeInstr, decodeInteger])

theorem minN32 (d a b : Field) : Statement (.minN32 d a b) := by
  intro w h _; cases h; exact .inl (by simp [decodeInstr, decodeInteger])

theorem maxN32 (d a b : Field) : Statement (.maxN32 d a b) := by
  intro w h _; cases h; exact .inl (by simp [decodeInstr, decodeInteger])

theorem absI32 (d a : Field) : Statement (.absI32 d a) := by
  intro w h _; cases h; exact .inl (by simp [decodeInstr, decodeInteger])

theorem setc (c : SetCond) (d a b : Field) : Statement (.setc c d a b) := by
  intro w h _; cases h; exact .inl (by simp [decodeInstr, decodeInteger, orFunction])

theorem sel (d a b : Field) : Statement (.sel d a b) := by
  intro w h _; cases h; exact .inl (by simp [decodeInstr, decodeInteger])

theorem popc (d a : Field) : Statement (.popc d a) := by
  intro w h _; cases h; exact .inl (by simp [decodeInstr, decodeInteger])

theorem clz (d a : Field) : Statement (.clz d a) := by
  intro w h _; cases h; exact .inl (by simp [decodeInstr, decodeInteger])

theorem ctz (d a : Field) : Statement (.ctz d a) := by
  intro w h _; cases h; exact .inl (by simp [decodeInstr, decodeInteger])

theorem brev (d a : Field) : Statement (.brev d a) := by
  intro w h _; cases h; exact .inl (by simp [decodeInstr, decodeInteger])

theorem bfxN32 (d a b : Field) : Statement (.bfxN32 d a b) := by
  intro w h _; cases h; exact .inl (by simp [decodeInstr, decodeInteger])

theorem bfxI32 (d a b : Field) : Statement (.bfxI32 d a b) := by
  intro w h _; cases h; exact .inl (by simp [decodeInstr, decodeInteger])

theorem bfi (d a b : Field) : Statement (.bfi d a b) := by
  intro w h _; cases h; exact .inl (by simp [decodeInstr, decodeInteger])

theorem prm (d a b : Field) : Statement (.prm d a b) := by
  intro w h _; cases h; exact .inl (by simp [decodeInstr, decodeInteger])

theorem lea (s : Fin 5) (d a b : Field) : Statement (.lea s d a b) := by
  intro w h _; fin_cases s <;> (cases h; exact .inl (by simp [decodeInstr, decodeInteger]))

theorem mov (d a : Field) : Statement (.mov d a) := by
  intro w h _; cases h; exact .inl (by simp [decodeInstr, decodeInteger])

theorem movi (d : Field) (imm : BitVec 14) : Statement (.movi d imm) := by
  intro w h _; cases h; exact .inl (by simp [decodeInstr, decodeInteger])

theorem movhi (d : Field) (imm : BitVec 14) : Statement (.movhi d imm) := by
  intro w h _; cases h; exact .inl (by simp [decodeInstr, decodeInteger])

theorem shfl (f : ShflForm) (d a b : Field) : Statement (.shfl f d a b) := by
  intro w h _; cases h; exact .inl (by simp [decodeInstr, decodeInteger, orFunction])

theorem vote (f : VoteForm) (d a : Field) : Statement (.vote f d a) := by
  intro w h _; cases h; exact .inl (by simp [decodeInstr, decodeInteger, orFunction])

theorem red (o : RedOp) (d a : Field) : Statement (.red o d a) := by
  intro w h _; cases h; exact .inl (by simp [decodeInstr, decodeInteger, orFunction])

theorem scan (o : ScanOp) (d a : Field) : Statement (.scan o d a) := by
  intro w h _; cases h; exact .inl (by simp [decodeInstr, decodeInteger, orFunction])

theorem fadd (d a b : Field) : Statement (.fadd d a b) := by
  intro w h _; cases h; exact .inl (by simp [decodeInstr, decodeFloat])

theorem fsub (d a b : Field) : Statement (.fsub d a b) := by
  intro w h _; cases h; exact .inl (by simp [decodeInstr, decodeFloat])

theorem fmul (d a b : Field) : Statement (.fmul d a b) := by
  intro w h _; cases h; exact .inl (by simp [decodeInstr, decodeFloat])

theorem ffma (d a b : Field) : Statement (.ffma d a b) := by
  intro w h _; cases h; exact .inl (by simp [decodeInstr, decodeFloat])

theorem ffms (d a b : Field) : Statement (.ffms d a b) := by
  intro w h _; cases h; exact .inl (by simp [decodeInstr, decodeFloat])

theorem ffnma (d a b : Field) : Statement (.ffnma d a b) := by
  intro w h _; cases h; exact .inl (by simp [decodeInstr, decodeFloat])

theorem ffnms (d a b : Field) : Statement (.ffnms d a b) := by
  intro w h _; cases h; exact .inl (by simp [decodeInstr, decodeFloat])

theorem fmin (d a b : Field) : Statement (.fmin d a b) := by
  intro w h _; cases h; exact .inl (by simp [decodeInstr, decodeFloat])

theorem fmax (d a b : Field) : Statement (.fmax d a b) := by
  intro w h _; cases h; exact .inl (by simp [decodeInstr, decodeFloat])

theorem fminm (d a b : Field) : Statement (.fminm d a b) := by
  intro w h _; cases h; exact .inl (by simp [decodeInstr, decodeFloat])

theorem fmaxm (d a b : Field) : Statement (.fmaxm d a b) := by
  intro w h _; cases h; exact .inl (by simp [decodeInstr, decodeFloat])

theorem fabs (d a : Field) : Statement (.fabs d a) := by
  intro w h _; cases h; exact .inl (by simp [decodeInstr, decodeFloat])

theorem fneg (d a : Field) : Statement (.fneg d a) := by
  intro w h _; cases h; exact .inl (by simp [decodeInstr, decodeFloat])

theorem fcmp (c : FCond) (d a b : Field) : Statement (.fcmp c d a b) := by
  intro w h _; cases h; exact .inl (by simp [decodeInstr, decodeFloat, orFunction])

theorem frcp (d a : Field) : Statement (.frcp d a) := by
  intro w h _; cases h; exact .inl (by simp [decodeInstr, decodeFloat])

theorem frsq (d a : Field) : Statement (.frsq d a) := by
  intro w h _; cases h; exact .inl (by simp [decodeInstr, decodeFloat])

theorem fsqrt (d a : Field) : Statement (.fsqrt d a) := by
  intro w h _; cases h; exact .inl (by simp [decodeInstr, decodeFloat])

theorem fexp2 (d a : Field) : Statement (.fexp2 d a) := by
  intro w h _; cases h; exact .inl (by simp [decodeInstr, decodeFloat])

theorem flog2 (d a : Field) : Statement (.flog2 d a) := by
  intro w h _; cases h; exact .inl (by simp [decodeInstr, decodeFloat])

theorem ftanh (d a : Field) : Statement (.ftanh d a) := by
  intro w h _; cases h; exact .inl (by simp [decodeInstr, decodeFloat])

theorem hadd2F16 (d a b : Field) : Statement (.hadd2F16 d a b) := by
  intro w h _; cases h; exact .inl (by simp [decodeInstr, decodeFloat])

theorem hmul2F16 (d a b : Field) : Statement (.hmul2F16 d a b) := by
  intro w h _; cases h; exact .inl (by simp [decodeInstr, decodeFloat])

theorem hfma2F16 (d a b : Field) : Statement (.hfma2F16 d a b) := by
  intro w h _; cases h; exact .inl (by simp [decodeInstr, decodeFloat])

theorem hadd2Bf16 (d a b : Field) : Statement (.hadd2Bf16 d a b) := by
  intro w h _; cases h; exact .inl (by simp [decodeInstr, decodeFloat])

theorem hmul2Bf16 (d a b : Field) : Statement (.hmul2Bf16 d a b) := by
  intro w h _; cases h; exact .inl (by simp [decodeInstr, decodeFloat])

theorem hfma2Bf16 (d a b : Field) : Statement (.hfma2Bf16 d a b) := by
  intro w h _; cases h; exact .inl (by simp [decodeInstr, decodeFloat])

theorem hmin2F16 (d a b : Field) : Statement (.hmin2F16 d a b) := by
  intro w h _; cases h; exact .inl (by simp [decodeInstr, decodeFloat])

theorem hmax2F16 (d a b : Field) : Statement (.hmax2F16 d a b) := by
  intro w h _; cases h; exact .inl (by simp [decodeInstr, decodeFloat])

theorem hmin2Bf16 (d a b : Field) : Statement (.hmin2Bf16 d a b) := by
  intro w h _; cases h; exact .inl (by simp [decodeInstr, decodeFloat])

theorem hmax2Bf16 (d a b : Field) : Statement (.hmax2Bf16 d a b) := by
  intro w h _; cases h; exact .inl (by simp [decodeInstr, decodeFloat])

theorem cvtToF32 (s : CvtSel) (d a : Field) : Statement (.cvtToF32 s d a) := by
  intro w h _; cases h; exact .inl (by simp [decodeInstr, decodeFloat, orFunction])

theorem cvtFromF32 (s : CvtSel) (d a : Field) : Statement (.cvtFromF32 s d a) := by
  intro w h _; cases h; exact .inl (by simp [decodeInstr, decodeFloat, orFunction])

theorem qpack (t : QType) (d a b : Field) : Statement (.qpack t d a b) := by
  intro w h _; cases t <;> (cases h; exact .inl (by simp [decodeInstr, decodeFloat]))

theorem qunpack (t : QType) (d a b : Field) : Statement (.qunpack t d a b) := by
  intro w h _; cases t <;> (cases h; exact .inl (by simp [decodeInstr, decodeFloat]))

theorem fmtset (d a : Field) : Statement (.fmtset d a) := by
  intro w h _; cases h; exact .inl (by simp [decodeInstr, decodeFloat])

theorem fmode (d a : Field) : Statement (.fmode d a) := by
  intro w h _; cases h; exact .inl (by simp [decodeInstr, decodeFloat])

theorem ldSh (w : LdW) (d a : Field) (off : BitVec 7) : Statement (.ldSh w d a off) := by
  intro w h _; cases h; exact .inl (by simp [decodeInstr, decodeLocal, orFunction])

theorem stSh (w : StW) (d a : Field) (off : BitVec 7) : Statement (.stSh w d a off) := by
  intro w h _; cases h; exact .inl (by simp [decodeInstr, decodeLocal, orFunction])

theorem ldSp (w : LdW) (d a : Field) (off : BitVec 7) : Statement (.ldSp w d a off) := by
  intro w h _; cases h; exact .inl (by simp [decodeInstr, decodeLocal, orFunction])

theorem stSp (w : StW) (d a : Field) (off : BitVec 7) : Statement (.stSp w d a off) := by
  intro w h _; cases h; exact .inl (by simp [decodeInstr, decodeLocal, orFunction])

theorem ldSt (w : LdW) (d a : Field) (off : BitVec 7) : Statement (.ldSt w d a off) := by
  intro w h _; cases h; exact .inl (by simp [decodeInstr, decodeLocal, orFunction])

theorem stSt (w : StW) (d a : Field) (off : BitVec 7) : Statement (.stSt w d a off) := by
  intro w h _; cases h; exact .inl (by simp [decodeInstr, decodeLocal, orFunction])

theorem ldlk (d a : Field) (off : BitVec 7) : Statement (.ldlk d a off) := by
  intro w h _; cases h; exact .inl (by simp [decodeInstr, decodeLocal])

theorem stul (d a : Field) (off : BitVec 7) : Statement (.stul d a off) := by
  intro w h _; cases h; exact .inl (by simp [decodeInstr, decodeLocal])

theorem atomSh (o : AtomOp) (d a : Field) (off : BitVec 7) : Statement (.atomSh o d a off) := by
  intro w h _; cases h; exact .inl (by simp [decodeInstr, decodeLocal, orFunction])

theorem atomSp (o : AtomOp) (d a : Field) (off : BitVec 7) : Statement (.atomSp o d a off) := by
  intro w h _; cases h; exact .inl (by simp [decodeInstr, decodeLocal, orFunction])

theorem atomLockWaitResume (team : Nat) : Statement (.atomLockWaitResume team) := by
  intro w h; cases h

theorem dusk (s : Scope) : Statement (.dusk s) := by
  intro w h _; cases s <;> (cases h; exact .inl (by simp [decodeInstr, decodeLocal]))

theorem dawn (s : Scope) : Statement (.dawn s) := by
  intro w h _; cases s <;> (cases h; exact .inl (by simp [decodeInstr, decodeLocal]))

theorem duskStallRelease (team : Nat) : Statement (.duskStallRelease team) := by
  intro w h; cases h

theorem idleRefresh (core : Nat) : Statement (.idleRefresh core) := by
  intro w h; cases h

theorem loadCompletion (team : Nat) : Statement (.loadCompletion team) := by
  intro w h; cases h

theorem stackFillComplete (team : Nat) : Statement (.stackFillComplete team) := by
  intro w h; cases h

theorem landingLoadResume (team : Nat) : Statement (.landingLoadResume team) := by
  intro w h; cases h

theorem landingStoreResume (team : Nat) : Statement (.landingStoreResume team) := by
  intro w h; cases h

theorem cstage (d a : Field) : Statement (.cstage d a) := by
  intro w h _; cases h; exact .inl (by simp [decodeInstr, decodeCopy])

theorem cstageArg (d a b : Field) : Statement (.cstageArg d a b) := by
  intro w h _; cases h; exact .inl (by simp [decodeInstr, decodeCopy])

theorem copyRelease (team : Nat) : Statement (.copyRelease team) := by
  intro w h; cases h

theorem copyLanding (range : Nat) : Statement (.copyLanding range) := by
  intro w h; cases h

theorem copyOverlapRelease (range : Nat) : Statement (.copyOverlapRelease range) := by
  intro w h; cases h

theorem copyCompletion (core slot : Nat) : Statement (.copyCompletion core slot) := by
  intro w h; cases h

theorem copyDeregistration (range : Nat) : Statement (.copyDeregistration range) := by
  intro w h; cases h

theorem copyDeadline (core slot : Nat) : Statement (.copyDeadline core slot) := by
  intro w h; cases h

theorem cwait (a b : Field) : Statement (.cwait a b) := by
  intro w h _; cases h; exact .inl (by simp [decodeInstr, decodeCopy])

theorem counterPoll (team : Nat) : Statement (.counterPoll team) := by
  intro w h; cases h

theorem cread (d a : Field) : Statement (.cread d a) := by
  intro w h _; cases h; exact .inl (by simp [decodeInstr, decodeCopy])

theorem wmread (d a : Field) : Statement (.wmread d a) := by
  intro w h _; cases h; exact .inl (by simp [decodeInstr, decodeCopy])

theorem cstat (d a : Field) : Statement (.cstat d a) := by
  intro w h _; cases h; exact .inl (by simp [decodeInstr, decodeCopy])

theorem balloc (d a b : Field) : Statement (.balloc d a b) := by
  intro w h _; cases h; exact .inl (by simp [decodeInstr, decodeCopy])

theorem bref (a : Field) : Statement (.bref a) := by
  intro w h _; cases h; exact .inl (by simp [decodeInstr, decodeCopy])

theorem bfree (a : Field) : Statement (.bfree a) := by
  intro w h _; cases h; exact .inl (by simp [decodeInstr, decodeCopy])

theorem barrive (d a : Field) : Statement (.barrive d a) := by
  intro w h _; cases h; exact .inl (by simp [decodeInstr, decodeCopy])

theorem bexpect (a b : Field) : Statement (.bexpect a b) := by
  intro w h _; cases h; exact .inl (by simp [decodeInstr, decodeCopy])

theorem bwait (d a b : Field) : Statement (.bwait d a b) := by
  intro w h _; cases h; exact .inl (by simp [decodeInstr, decodeCopy])

theorem barrierTimeout (die index : Nat) : Statement (.barrierTimeout die index) := by
  intro w h; cases h

theorem barrierToken (handle : Word) (presence : Bool) : Statement (.barrierToken handle presence) := by
  intro w h; cases h

theorem mmq (b a v : Field) : Statement (.mmq b a v) := by
  intro w h _; cases h; exact .inl (by simp [decodeInstr, decodeMatrix])

theorem mmqs (j : BitVec 4) (b a v : Field) : Statement (.mmqs j b a v) := by
  intro w h _; cases h; exact .inl (by simp [decodeInstr, decodeMatrix])

theorem mmc (b a v : Field) : Statement (.mmc b a v) := by
  intro w h _; cases h; exact .inl (by simp [decodeInstr, decodeMatrix])

theorem mxfence : Statement .mxfence := by
  intro w h _; cases h; exact .inl (by simp [decodeInstr, decodeMatrix])

theorem mxzero (b e : Field) : Statement (.mxzero b e) := by
  intro w h _; cases h; exact .inl (by simp [decodeInstr, decodeMatrix])

theorem mxread (d b v : Field) : Statement (.mxread d b v) := by
  intro w h _; cases h; exact .inl (by simp [decodeInstr, decodeMatrix])

theorem mxwrite (b a v : Field) : Statement (.mxwrite b a v) := by
  intro w h _; cases h; exact .inl (by simp [decodeInstr, decodeMatrix])

theorem mxsmax (d b v : Field) : Statement (.mxsmax d b v) := by
  intro w h _; cases h; exact .inl (by simp [decodeInstr, decodeMatrix])

theorem mxrescale (b v : Field) : Statement (.mxrescale b v) := by
  intro w h _; cases h; exact .inl (by simp [decodeInstr, decodeMatrix])

theorem mxsum (d b : Field) : Statement (.mxsum d b) := by
  intro w h _; cases h; exact .inl (by simp [decodeInstr, decodeMatrix])

theorem arrayPass (core : Nat) : Statement (.arrayPass core) := by
  intro w h; cases h

theorem spcmp (d a v : Field) : Statement (.spcmp d a v) := by
  intro w h _; cases h; exact .inl (by simp [decodeInstr, decodeMatrix])

theorem mdload (k a : Field) : Statement (.mdload k a) := by
  intro w h _; cases h; exact .inl (by simp [decodeInstr, decodeMatrix])

theorem mdread (d k : Field) : Statement (.mdread d k) := by
  intro w h _; cases h; exact .inl (by simp [decodeInstr, decodeMatrix])

theorem sopen (s a b : Field) : Statement (.sopen s a b) := by
  intro w h _; cases h; exact .inl (by simp [decodeInstr, decodeStream])

theorem snext (s : Field) : Statement (.snext s) := by
  intro w h _; cases h; exact .inl (by simp [decodeInstr, decodeStream])

theorem sskip (s b : Field) : Statement (.sskip s b) := by
  intro w h _; cases h; exact .inl (by simp [decodeInstr, decodeStream])

theorem sisect (d a b : Field) : Statement (.sisect d a b) := by
  intro w h _; cases h; exact .inl (by simp [decodeInstr, decodeStream])

theorem sunion (d a b : Field) : Statement (.sunion d a b) := by
  intro w h _; cases h; exact .inl (by simp [decodeInstr, decodeStream])

theorem scrd (d s : Field) : Statement (.scrd d s) := by
  intro w h _; cases h; exact .inl (by simp [decodeInstr, decodeStream])

theorem spos (d s : Field) : Statement (.spos d s) := by
  intro w h _; cases h; exact .inl (by simp [decodeInstr, decodeStream])

theorem partn (d a b : Field) : Statement (.partn d a b) := by
  intro w h _; cases h; exact .inl (by simp [decodeInstr, decodeStream])

theorem streamSegmentFill (team : Nat) : Statement (.streamSegmentFill team) := by
  intro w h; cases h

theorem gbind (d a : Field) : Statement (.gbind d a) := by
  intro w h _; cases h; exact .inl (by simp [decodeInstr, decodeWave])

theorem gunbind (a : Field) : Statement (.gunbind a) := by
  intro w h _; cases h; exact .inl (by simp [decodeInstr, decodeWave])

theorem mark (d a : Field) : Statement (.mark d a) := by
  intro w h _; cases h; exact .inl (by simp [decodeInstr, decodeWave])

theorem clear (d a : Field) : Statement (.clear d a) := by
  intro w h _; cases h; exact .inl (by simp [decodeInstr, decodeWave])

theorem prop (d a : Field) : Statement (.prop d a) := by
  intro w h _; cases h; exact .inl (by simp [decodeInstr, decodeWave])

theorem propf (d a : Field) : Statement (.propf d a) := by
  intro w h _; cases h; exact .inl (by simp [decodeInstr, decodeWave])

theorem waveq (d a : Field) : Statement (.waveq d a) := by
  intro w h _; cases h; exact .inl (by simp [decodeInstr, decodeWave])

theorem collect (d a : Field) : Statement (.collect d a) := by
  intro w h _; cases h; exact .inl (by simp [decodeInstr, decodeWave])

theorem collectg (d a : Field) : Statement (.collectg d a) := by
  intro w h _; cases h; exact .inl (by simp [decodeInstr, decodeWave])

theorem ncount (d a : Field) : Statement (.ncount d a) := by
  intro w h _; cases h; exact .inl (by simp [decodeInstr, decodeWave])

theorem waveAcceptance (team : Nat) : Statement (.waveAcceptance team) := by
  intro w h; cases h

theorem waveStart (place : Nat) : Statement (.waveStart place) := by
  intro w h; cases h

theorem waveHopCommit (place : Nat) : Statement (.waveHopCommit place) := by
  intro w h; cases h

theorem propfDelivery (place : Nat) : Statement (.propfDelivery place) := by
  intro w h; cases h

theorem waveEnd (place : Nat) : Statement (.waveEnd place) := by
  intro w h; cases h

theorem engineResidueMismatch (engine : Nat) (second : Bool) : Statement (.engineResidueMismatch engine second) := by
  intro w h; cases h

theorem sequencerTakeover : Statement .sequencerTakeover := by
  intro w h; cases h

theorem embed (d a : Field) : Statement (.embed d a) := by
  intro w h _; cases h; exact .inl (by simp [decodeInstr, decodeWave])

theorem descend (d a : Field) : Statement (.descend d a) := by
  intro w h _; cases h; exact .inl (by simp [decodeInstr, decodeWave])

theorem sideapp (d a b : Field) : Statement (.sideapp d a b) := by
  intro w h _; cases h; exact .inl (by simp [decodeInstr, decodeWave])

theorem sidepub (a : Field) : Statement (.sidepub a) := by
  intro w h _; cases h; exact .inl (by simp [decodeInstr, decodeWave])

theorem walkEnd (core slot : Nat) : Statement (.walkEnd core slot) := by
  intro w h; cases h

theorem scatred (o : ScatOp) (a b : Field) : Statement (.scatred o a b) := by
  intro w h _; cases h; exact .inl (by simp [decodeInstr, decodeWave, orFunction])

theorem reductionAtOwner (packet : Nat) : Statement (.reductionAtOwner packet) := by
  intro w h; cases h

theorem amsend (a b : Field) : Statement (.amsend a b) := by
  intro w h _; cases h; exact .inl (by simp [decodeInstr, decodeSystem])

theorem saread (d a : Field) : Statement (.saread d a) := by
  intro w h _; cases h; exact .inl (by simp [decodeInstr, decodeSystem])

theorem satest (a : Field) : Statement (.satest a) := by
  intro w h _; cases h; exact .inl (by simp [decodeInstr, decodeSystem])

theorem spawn (a b : Field) : Statement (.spawn a b) := by
  intro w h _; cases h; exact .inl (by simp [decodeInstr, decodeSystem])

theorem spawnTimeout (core : Nat) : Statement (.spawnTimeout core) := by
  intro w h; cases h

theorem childTeamStart (core : Nat) : Statement (.childTeamStart core) := by
  intro w h; cases h

theorem activeMessageArrival (src : MsgSource) : Statement (.activeMessageArrival src) := by
  intro w h; cases h

theorem handlerTeamStart (core : Nat) : Statement (.handlerTeamStart core) := by
  intro w h; cases h

theorem allowanceCredit (core entry : Nat) (window : Option Nat) : Statement (.allowanceCredit core entry window) := by
  intro w h; cases h

theorem flushMarkerAck (team : Nat) : Statement (.flushMarkerAck team) := by
  intro w h; cases h

theorem linkReplayRequest (link : Nat) : Statement (.linkReplayRequest link) := by
  intro w h; cases h

theorem linkOutOfService (link : Nat) : Statement (.linkOutOfService link) := by
  intro w h; cases h

theorem auditFlit (link : Nat) : Statement (.auditFlit link) := by
  intro w h; cases h

theorem auditReply (link : Nat) : Statement (.auditReply link) := by
  intro w h; cases h

theorem launchMessage (queue : Nat) (payload : List Byte) : Statement (.launchMessage queue payload) := by
  intro w h; cases h

theorem launchCheck (queue : Nat) : Statement (.launchCheck queue) := by
  intro w h; cases h

theorem clusterAdmission (launch : Nat) : Statement (.clusterAdmission launch) := by
  intro w h; cases h

theorem teamEnd (team : Nat) : Statement (.teamEnd team) := by
  intro w h; cases h

theorem peerUnavailable (queue peer : Nat) : Statement (.peerUnavailable queue peer) := by
  intro w h; cases h

theorem remoteWrite (queue : Nat) (addr : BitVec 64) (bytes : List Byte) : Statement (.remoteWrite queue addr bytes) := by
  intro w h; cases h

theorem remoteRead (queue : Nat) (addr : BitVec 64) (len : Nat) : Statement (.remoteRead queue addr len) := by
  intro w h; cases h

theorem trap (a : Field) : Statement (.trap a) := by
  intro w h _; cases h; exact .inl (by simp [decodeInstr, decodeSystem])

theorem tret (m : Field) : Statement (.tret m) := by
  intro w h _; cases h; exact .inl (by simp [decodeInstr, decodeSystem])

theorem trapVectorFetchResume (team : Nat) : Statement (.trapVectorFetchResume team) := by
  intro w h; cases h

theorem ckpt : Statement .ckpt := by
  intro w h _; cases h; exact .inl (by simp [decodeInstr, decodeSystem])

theorem checkpointPlaneWrite (team : Nat) : Statement (.checkpointPlaneWrite team) := by
  intro w h; cases h

theorem event (a b : Field) : Statement (.event a b) := by
  intro w h _; cases h; exact .inl (by simp [decodeInstr, decodeSystem])

theorem tlbinv (a b : Field) : Statement (.tlbinv a b) := by
  intro w h _; cases h; exact .inl (by simp [decodeInstr, decodeSystem])

theorem sysrd (d n : Field) : Statement (.sysrd d n) := by
  intro w h _; cases h; exact .inl (by simp [decodeInstr, decodeSystem])

theorem syswr (a n : Field) : Statement (.syswr a n) := by
  intro w h _; cases h; exact .inl (by simp [decodeInstr, decodeSystem])

theorem clauseFetchResume (team : Nat) : Statement (.clauseFetchResume team) := by
  intro w h; cases h

theorem answerFault (queue : Asked) (addr : BitVec 64) (repaired : Bool) : Statement (.answerFault queue addr repaired) := by
  intro w h; cases h

theorem preempt (queue : Asked) (seq : Nat) (save : BitVec 64) : Statement (.preempt queue seq save) := by
  intro w h; cases h

theorem restore (queue : Asked) (seq : Nat) (moves : List (Nat × Nat × Nat × Nat)) : Statement (.restore queue seq moves) := by
  intro w h; cases h

theorem invalidateRange (queue : Asked) (addr : BitVec 64) (pages : Nat) : Statement (.invalidateRange queue addr pages) := by
  intro w h; cases h

theorem enrolOwner (sig : Signed) (newKey : BitVec 256) : Statement (.enrolOwner sig newKey) := by
  intro w h; cases h

theorem updateFirmware (sig : Signed) (image : FwImage) : Statement (.updateFirmware sig image) := by
  intro w h; cases h

theorem configureQueue (sig : Signed) (queue : Nat) (cfg : QueueCfg) : Statement (.configureQueue sig queue cfg) := by
  intro w h; cases h

theorem loadKey (sig : Signed) (slot : Nat) (key : KeyLoad) : Statement (.loadKey sig slot key) := by
  intro w h; cases h

theorem unloadKey (sig : Signed) (slot : Nat) : Statement (.unloadKey sig slot) := by
  intro w h; cases h

theorem attest (nonce : BitVec 256) : Statement (.attest nonce) := by
  intro w h; cases h

theorem reset (sig : Signed) : Statement (.reset sig) := by
  intro w h; cases h

theorem powerOn : Statement (.powerOn) := by
  intro w h; cases h

theorem coreFailure (core : Nat) (spare : Option Nat) : Statement (.coreFailure core spare) := by
  intro w h; cases h

theorem islandSleep (island : Nat) : Statement (.islandSleep island) := by
  intro w h; cases h

theorem islandWake (island : Nat) : Statement (.islandWake island) := by
  intro w h; cases h

theorem clockThrottle (island mhz : Nat) : Statement (.clockThrottle island mhz) := by
  intro w h; cases h

theorem peerIngressFlush (flush : Nat) : Statement (.peerIngressFlush flush) := by
  intro w h; cases h

theorem crossModuleBarrierAccess (handle : Word) (op : BitVec 3) (value : Word) : Statement (.crossModuleBarrierAccess handle op value) := by
  intro w h; cases h

theorem otherDeliveryModePacket (port : Nat) : Statement (.otherDeliveryModePacket port) := by
  intro w h; cases h

end RoundTrip

end Sys2Proof.Laws
end

