-- ==== Sys2Proof/Laws/Result.lean ====
section
/-!
SUPPORT. What writing registers and results leaves in every register, lane and latch.
-/

namespace Sys2Proof.Machine

theorem key_inj {r q l k : Nat} (hl : l < 1024) (hk : k < 1024) : r * 1024 + l = q * 1024 + k ↔ r = q ∧ l = k := by
  omega

/-- A register written lane by lane. -/
theorem tget_lanes {w : Nat} (d : Nat → BitVec w) (t : Table w) (lanes : List Nat) (r : Nat) (v : Nat → BitVec w) {q k : Nat}
    (hk : k < 1024) (hl : ∀ l ∈ lanes, l < 1024) :
    tget d (tsets d t (lanes.map fun l => (r * 1024 + l, v l))) (q * 1024 + k)
      = if q = r ∧ k ∈ lanes then v k else tget d t (q * 1024 + k) := by
  split
  · rename_i h
    obtain ⟨rfl, hm⟩ := h
    apply tget_tsets_mem
    · exact List.mem_map.mpr ⟨k, hm, rfl⟩
    · intro c hc e
      obtain ⟨l, hlm, rfl⟩ := List.mem_map.mp hc
      have := (key_inj (hl l hlm) hk).mp e
      rw [this.2]
  · rename_i h
    apply tget_tsets_none
    intro c hc e
    obtain ⟨l, hlm, rfl⟩ := List.mem_map.mp hc
    have := (key_inj (hl l hlm) hk).mp e
    exact h ⟨this.1.symm, this.2 ▸ hlm⟩

variable {x : Team} {lanes : List Nat} {d : Field}

@[simp] theorem stain_regs (ps : List Nat) : (x.stain ps).regs = x.regs := rfl
@[simp] theorem stain_ofile (ps : List Nat) : (x.stain ps).ofile = x.ofile := rfl
@[simp] theorem stain_latch (ps : List Nat) : (x.stain ps).latch = x.latch := rfl
@[simp] theorem stain_ctx (ps : List Nat) : (x.stain ps).ctx = x.ctx := rfl
@[simp] theorem stain_late (ps : List Nat) : (x.stain ps).late = x.late := rfl
@[simp] theorem stain_latchN (ps : List Nat) : (x.stain ps).latchN = x.latchN := rfl
@[simp] theorem stain_lanes (ps : List Nat) : (x.stain ps).lanes = x.lanes := rfl
@[simp] theorem putRegs_regs (cs : List (Nat × Word)) : (x.putRegs cs).regs = tsets zeros x.regs cs := rfl
@[simp] theorem putRegs_ofile (cs : List (Nat × Word)) : (x.putRegs cs).ofile = x.ofile := rfl
@[simp] theorem putOfile_regs (cs : List (Nat × Word)) : (x.putOfile cs).regs = x.regs := rfl
@[simp] theorem putOfile_ofile (cs : List (Nat × Word)) : (x.putOfile cs).ofile = tsets zeros x.ofile cs := rfl

theorem mem_stain (ps : List Nat) (p : Nat) : p ∈ (x.stain ps).dirty ↔ p ∈ x.dirty ∨ p ∈ ps := by
  simp only [Team.stain, List.mem_append, List.mem_filter, List.mem_eraseDups, Bool.not_eq_true']
  by_cases h : p ∈ x.dirty
  · simp [h]
  · simp [h]

theorem wr_reg (hl : ∀ l ∈ lanes, l < 1024) (o r l : Nat) (v : Nat → Word) (hk : l < 1024) :
    (x.wr lanes d o v).reg r l
      = if d.toNat < 112 ∧ r = x.ctx.win + d.toNat + o ∧ l ∈ lanes then v l else x.reg r l := by
  unfold Team.wr Team.reg
  by_cases h : d.toNat < 112
  · simp only [h, if_true, true_and, putRegs_regs, tget_lanes zeros _ _ _ _ hk hl]
  · by_cases g : d.toNat < 120 <;> simp [h, g]

theorem wr_ofile (hl : ∀ l ∈ lanes, l < 1024) (o j l : Nat) (v : Nat → Word) (hk : l < 1024) :
    tget zeros (x.wr lanes d o v).ofile (j * 1024 + l)
      = if 112 ≤ d.toNat ∧ d.toNat < 120 ∧ j = d.toNat - 112 + o ∧ l ∈ lanes then v l
        else tget zeros x.ofile (j * 1024 + l) := by
  unfold Team.wr
  by_cases h : d.toNat < 112
  · have : ¬ 112 ≤ d.toNat := by omega
    simp [h, this]
  · by_cases g : d.toNat < 120
    · have : 112 ≤ d.toNat := by omega
      simp only [h, g, if_true, if_false, this, true_and, putOfile_ofile, tget_lanes zeros _ _ _ _ hk hl]
    · simp [h, g]

theorem wr_rest (o : Nat) (v : Nat → Word) :
    ∃ r f p g, x.wr lanes d o v = { x with regs := r, ofile := f, dirty := p, spanLog := g } := by
  unfold Team.wr
  by_cases h : d.toNat < 112
  · exact ⟨_, x.ofile, _, _, by simp only [h, if_true]; rfl⟩
  · by_cases g : d.toNat < 120
    · exact ⟨x.regs, _, _, x.spanLog, by simp only [h, g, if_true, if_false]; rfl⟩
    · exact ⟨x.regs, x.ofile, x.dirty, x.spanLog, by simp only [h, g, if_false]⟩

theorem wrs_rest (v : Nat → Nat → Word) (n : Nat) :
    ∃ r f p g, x.wrs lanes d v n = { x with regs := r, ofile := f, dirty := p, spanLog := g } := by
  induction n with
  | zero => exact ⟨x.regs, x.ofile, x.dirty, x.spanLog, rfl⟩
  | succ n ih =>
    obtain ⟨r, f, p, g, e⟩ := ih
    obtain ⟨q, h, p', g', e'⟩ := wr_rest (x := x.wrs lanes d v n) (lanes := lanes) (d := d) n (v n)
    exact ⟨q, h, p', g', by rw [Team.wrs, e', e]⟩

/-- Planes that one register's write leaves noted. -/
theorem wr_dirty (o : Nat) (v : Nat → Word) (hl : ∀ l ∈ lanes, l < 1024) (p : Nat) :
    p ∈ (x.wr lanes d o v).dirty ↔ p ∈ x.dirty ∨
      (∃ l ∈ lanes, d.toNat < 112 ∧ p = 32 * (x.ctx.win + d.toNat + o) + l / 32) ∨
      (∃ l ∈ lanes, 112 ≤ d.toNat ∧ d.toNat < 120 ∧ p = 32 * (x.regsN + (d.toNat - 112 + o)) + l / 32) := by
  have key : ∀ r l, l ∈ lanes → (r * 1024 + l) / 1024 = r ∧ (r * 1024 + l) % 1024 / 32 = l / 32 := by
    intro r l m
    have := hl l m
    omega
  unfold Team.wr
  by_cases h : d.toNat < 112
  · have g : ¬ 112 ≤ d.toNat := by omega
    simp only [h, g, if_true, Team.putRegs, mem_stain, planesOf, List.map_map, List.mem_map, Function.comp, Nat.zero_add,
      true_and, false_and, and_false, exists_false, or_false]
    constructor
    · rintro (a | ⟨l, m, rfl⟩)
      · exact .inl a
      · have := key (x.ctx.win + d.toNat + o) l m
        exact .inr ⟨l, m, by rw [this.1, this.2]⟩
    · rintro (a | ⟨l, m, rfl⟩)
      · exact .inl a
      · have := key (x.ctx.win + d.toNat + o) l m
        exact .inr ⟨l, m, by rw [this.1, this.2]⟩
  · by_cases g : d.toNat < 120
    · have g' : 112 ≤ d.toNat := by omega
      simp only [h, g, g', if_true, if_false, Team.putOfile, mem_stain, planesOf, List.map_map, List.mem_map, Function.comp,
        true_and, false_and, and_false, exists_false, false_or]
      constructor
      · rintro (a | ⟨l, m, rfl⟩)
        · exact .inl a
        · have := key (d.toNat - 112 + o) l m
          exact .inr ⟨l, m, by rw [this.1, this.2]⟩
      · rintro (a | ⟨l, m, rfl⟩)
        · exact .inl a
        · have := key (d.toNat - 112 + o) l m
          exact .inr ⟨l, m, by rw [this.1, this.2]⟩
    · simp [h, g]

/-- What one register's write notes for a matrix operation. -/
theorem wr_noted (o : Nat) (v : Nat → Word) (hl : ∀ l ∈ lanes, l < 1024) :
    ∃ m, (x.wr lanes d o v).spanLog = x.spanLog ++ m ∧
      ∀ c ∈ m, x.spans ≠ [] ∧ c.1 % 1024 ∈ lanes ∧ d.toNat < 112 ∧ c.1 / 1024 = x.ctx.win + d.toNat + o := by
  unfold Team.wr
  by_cases h : d.toNat < 112
  · by_cases e : x.spans = []
    · exact ⟨[], by simp [h, Team.putRegs, Team.stain, e], by simp⟩
    · refine ⟨lanes.map fun l => ((x.ctx.win + d.toNat + o) * 1024 + l, v l), by simp [h, Team.putRegs, Team.stain, e], ?_⟩
      intro c hc
      obtain ⟨l, m, rfl⟩ := List.mem_map.mp hc
      have b := hl l m
      have q : ((x.ctx.win + d.toNat + o) * 1024 + l) % 1024 = l := by omega
      exact ⟨e, by simpa only [q] using m, h, by simp only; omega⟩
  · by_cases g : d.toNat < 120
    · exact ⟨[], by simp [h, g, Team.putOfile, Team.stain], by simp⟩
    · exact ⟨[], by simp [h, g], by simp⟩

theorem wrs_ctx (v : Nat → Nat → Word) (n : Nat) : (x.wrs lanes d v n).ctx = x.ctx := by
  obtain ⟨r, f, p, g, e⟩ := wrs_rest (x := x) (lanes := lanes) (d := d) v n
  rw [e]

/-- Planes that a result's writes leave noted. -/
theorem wrs_dirty (hl : ∀ l ∈ lanes, l < 1024) (v : Nat → Nat → Word) (n p : Nat) :
    p ∈ (x.wrs lanes d v n).dirty ↔ p ∈ x.dirty ∨
      (∃ r l, l ∈ lanes ∧ x.spanReg d n r ∧ p = 32 * r + l / 32) ∨
      (∃ j l, l ∈ lanes ∧ 112 ≤ d.toNat ∧ d.toNat < 120 ∧ d.toNat - 112 ≤ j ∧ j < d.toNat - 112 + n ∧
        p = 32 * (x.regsN + j) + l / 32) := by
  induction n with
  | zero =>
    have a : ∀ r, ¬ x.spanReg d 0 r := by intro r; unfold Team.spanReg; omega
    have b : ∀ j, d.toNat - 112 ≤ j → ¬ j < d.toNat - 112 + 0 := by intro j; omega
    constructor
    · exact .inl
    · rintro (h | ⟨r, l, _, h, _⟩ | ⟨j, l, _, _, _, h, k, _⟩)
      · exact h
      · exact absurd h (a r)
      · exact absurd k (b j h)
  | succ n ih =>
    have c : (x.wrs lanes d v n).ctx = x.ctx ∧ (x.wrs lanes d v n).regsN = x.regsN := by
      obtain ⟨r, f, p, g, e⟩ := wrs_rest (x := x) (lanes := lanes) (d := d) v n
      rw [e]; exact ⟨rfl, rfl⟩
    show p ∈ ((x.wrs lanes d v n).wr lanes d n (v n)).dirty ↔ _
    rw [wr_dirty n (v n) hl, ih, c.1, c.2]
    constructor
    · rintro ((h | ⟨r, l, m, h, e⟩ | ⟨j, l, m, h1, h2, h3, h4, e⟩) | ⟨l, m, h, e⟩ | ⟨l, m, h1, h2, e⟩)
      · exact .inl h
      · exact .inr (.inl ⟨r, l, m, ⟨h.1, h.2.1, by have := h.2.2; omega⟩, e⟩)
      · exact .inr (.inr ⟨j, l, m, h1, h2, h3, by omega, e⟩)
      · exact .inr (.inl ⟨_, l, m, ⟨h, by omega, by omega⟩, e⟩)
      · exact .inr (.inr ⟨_, l, m, h1, h2, by omega, by omega, e⟩)
    · rintro (h | ⟨r, l, m, h, e⟩ | ⟨j, l, m, h1, h2, h3, h4, e⟩)
      · exact .inl (.inl h)
      · by_cases q : r = x.ctx.win + d.toNat + n
        · exact .inr (.inl ⟨l, m, h.1, by rw [← q]; exact e⟩)
        · exact .inl (.inr (.inl ⟨r, l, m, ⟨h.1, h.2.1, by have := h.2.2; omega⟩, e⟩))
      · by_cases q : j = d.toNat - 112 + n
        · exact .inr (.inr ⟨l, m, h1, h2, by rw [← q]; exact e⟩)
        · exact .inl (.inr (.inr ⟨j, l, m, h1, h2, h3, by omega, e⟩))

/-- What a result's writes note for a matrix operation. -/
theorem wrs_noted (hl : ∀ l ∈ lanes, l < 1024) (v : Nat → Nat → Word) (n : Nat) :
    ∃ m, (x.wrs lanes d v n).spanLog = x.spanLog ++ m ∧
      ∀ c ∈ m, x.spans ≠ [] ∧ c.1 % 1024 ∈ lanes ∧ x.spanReg d n (c.1 / 1024) := by
  induction n with
  | zero => exact ⟨[], by simp [Team.wrs], by simp⟩
  | succ n ih =>
    obtain ⟨m, e, h⟩ := ih
    have c : (x.wrs lanes d v n).ctx = x.ctx ∧ (x.wrs lanes d v n).spans = x.spans := by
      obtain ⟨r, f, p, g, e⟩ := wrs_rest (x := x) (lanes := lanes) (d := d) v n
      rw [e]; exact ⟨rfl, rfl⟩
    obtain ⟨k, e', h'⟩ := wr_noted (x := x.wrs lanes d v n) (lanes := lanes) (d := d) n (v n) hl
    refine ⟨m ++ k, by rw [Team.wrs, e', e, List.append_assoc], ?_⟩
    intro q hq
    rcases List.mem_append.mp hq with hq | hq
    · obtain ⟨a, b, w⟩ := h q hq
      exact ⟨a, b, w.1, w.2.1, by have := w.2.2; omega⟩
    · obtain ⟨a, b, w, z⟩ := h' q hq
      rw [c.1] at z
      rw [c.2] at a
      exact ⟨a, b, w, by omega, by omega⟩

theorem wrs_reg (hl : ∀ l ∈ lanes, l < 1024) (v : Nat → Nat → Word) (n r l : Nat) (hk : l < 1024) :
    (x.wrs lanes d v n).reg r l
      = if l ∈ lanes ∧ x.spanReg d n r then v (r - (x.ctx.win + d.toNat)) l else x.reg r l := by
  induction n with
  | zero => 
    have : ¬ (l ∈ lanes ∧ x.spanReg d 0 r) := by unfold Team.spanReg; omega
    rw [if_neg this]; rfl
  | succ n ih =>
    show ((x.wrs lanes d v n).wr lanes d n (v n)).reg r l = _
    rw [wr_reg hl _ _ _ _ hk, ih, wrs_ctx]
    unfold Team.spanReg
    by_cases m : l ∈ lanes
    · by_cases a : d.toNat < 112
      · by_cases b : r = x.ctx.win + d.toNat + n
        · have e : r - (x.ctx.win + d.toNat) = n := by omega
          have c : x.ctx.win + d.toNat ≤ r ∧ r < x.ctx.win + d.toNat + (n + 1) := by omega
          simp [m, a, ← b, e, c.1, c.2]
        · have : (x.ctx.win + d.toNat ≤ r ∧ r < x.ctx.win + d.toNat + n) ↔
            (x.ctx.win + d.toNat ≤ r ∧ r < x.ctx.win + d.toNat + (n + 1)) := by omega
          simp only [m, a, b, true_and, false_and, if_false, this]
      · simp [a]
    · simp [m]

theorem wrs_ofile (hl : ∀ l ∈ lanes, l < 1024) (v : Nat → Nat → Word) (n j l : Nat) (hk : l < 1024) :
    tget zeros (x.wrs lanes d v n).ofile (j * 1024 + l)
      = if l ∈ lanes ∧ 112 ≤ d.toNat ∧ d.toNat < 120 ∧ d.toNat - 112 ≤ j ∧ j < d.toNat - 112 + n
        then v (j - (d.toNat - 112)) l else tget zeros x.ofile (j * 1024 + l) := by
  induction n with
  | zero =>
    rw [if_neg (by omega)]; rfl
  | succ n ih =>
    show tget zeros ((x.wrs lanes d v n).wr lanes d n (v n)).ofile (j * 1024 + l) = _
    rw [wr_ofile hl _ _ _ _ hk, ih]
    by_cases m : l ∈ lanes
    · by_cases a : 112 ≤ d.toNat ∧ d.toNat < 120
      · by_cases b : j = d.toNat - 112 + n
        · have e : j - (d.toNat - 112) = n := by omega
          have c : d.toNat - 112 ≤ j ∧ j < d.toNat - 112 + (n + 1) := by omega
          simp [m, a.1, a.2, ← b, e, c.1, c.2]
        · have : (d.toNat - 112 ≤ j ∧ j < d.toNat - 112 + n) ↔ (d.toNat - 112 ≤ j ∧ j < d.toNat - 112 + (n + 1)) := by omega
          simp only [m, a.1, a.2, b, true_and, false_and, and_false, if_false, this]
      · have : ¬ (112 ≤ d.toNat ∧ d.toNat < 120 ∧ True) := by simpa using a
        by_cases a1 : 112 ≤ d.toNat
        · have a2 : ¬ d.toNat < 120 := fun h => a ⟨a1, h⟩
          simp [a2]
        · simp [a1]
    · simp [m]

theorem shift_latch_first (h : Nat → Word) {l : Nat} (h1 : l < x.lanes) (h2 : l < 1024) :
    tget zeros (x.shift h).latch l = h l := by
  unfold tget Team.shift
  have m : l ∈ x.all := by simp [Team.all, h1, h2]
  simp only [stain_latch, aget_append, tget_map_filter]
  by_cases z : h l = 0#32
  · have : aget ((x.latch.filter fun c => decide (c.1 < 3 * 1024)).map fun c => (c.1 + 1024, c.2)) l = none := by
      apply aget_none
      intro c hc
      obtain ⟨b, _, rfl⟩ := List.mem_map.mp hc
      simp only
      omega
    simp [z, this, zeros]
  · simp [m, z]

theorem shift_latch (h : Nat → Word) {k l : Nat} (hk : k < 3) (hl : l < 1024) :
    tget zeros (x.shift h).latch ((k + 1) * 1024 + l) = tget zeros x.latch (k * 1024 + l) := by
  unfold tget Team.shift
  have m : ¬ ((k + 1) * 1024 + l ∈ x.all) := by simp [Team.all]; omega
  have e : (k + 1) * 1024 + l = (k * 1024 + l) + 1024 := by omega
  have f : aget (x.latch.filter fun c => decide (c.1 < 3 * 1024)) (k * 1024 + l) = aget x.latch (k * 1024 + l) :=
    aget_filter_key x.latch (fun a => decide (a < 3 * 1024)) (by simp; omega)
  simp only [stain_latch, aget_append, tget_map_filter, m, false_and, if_false]
  simp only [e, Option.orElse_none, aget_shift, f, zeros]

theorem resultIn_shift (n : Nat) (v : Nat → Nat → Word) : ∃ h, x.resultIn lanes d n v = (x.wrs lanes d v n).shift h := ⟨_, rfl⟩

@[simp] theorem shift_regs (h : Nat → Word) : (x.shift h).regs = x.regs := rfl
@[simp] theorem shift_ofile (h : Nat → Word) : (x.shift h).ofile = x.ofile := rfl
@[simp] theorem shift_ctx (h : Nat → Word) : (x.shift h).ctx = x.ctx := rfl
@[simp] theorem shift_reg (h : Nat → Word) (r l : Nat) : (x.shift h).reg r l = x.reg r l := by unfold Team.reg; rw [shift_regs]

theorem shift_rd (h : Nat → Word) (n o l : Nat) (hd : d.toNat < 120) : (x.shift h).rd n d o l = x.rd n d o l := by
  unfold Team.rd
  by_cases h1 : d.toNat < 112
  · simp only [h1, if_true, shift_reg, shift_ctx]
  · simp only [h1, if_false, hd, if_true, shift_ofile]

/-- What a result leaves. -/
theorem resultIn_wrote (p : Nat → Bool) (hp : ∀ l, l ∈ lanes ↔ p l = true) (hl : ∀ l ∈ lanes, l < 1024) (n : Nat)
    (v : Nat → Nat → Word) (ok : Opnd.dstOk d = true) : x.Wrote (x.resultIn lanes d n v) p d n v := by
  obtain ⟨h, eh⟩ := resultIn_shift (x := x) (lanes := lanes) (d := d) n v
  have hs : ∀ r l, (x.resultIn lanes d n v).reg r l = (x.wrs lanes d v n).reg r l := by
    intro r l; rw [eh, shift_reg]
  have ho : (x.resultIn lanes d n v).ofile = (x.wrs lanes d v n).ofile := by rw [eh, shift_ofile]
  have hr : ∀ o l, d.toNat < 120 → (x.resultIn lanes d n v).rd 0 d o l = (x.wrs lanes d v n).rd 0 d o l := by
    intro o l g; rw [eh, shift_rd _ _ _ _ g]
  have hd : ∀ o l, o < n → l < 1024 → p l = true → d.toNat < 120 → (x.wrs lanes d v n).rd 0 d o l = v o l := by
    intro o l h1 h2 h3 h4
    unfold Team.rd
    by_cases h5 : d.toNat < 112
    · have sp : x.spanReg d n (x.ctx.win + d.toNat + o) := ⟨h5, by omega, by omega⟩
      have e : x.ctx.win + d.toNat + o - (x.ctx.win + d.toNat) = o := by omega
      rw [if_pos h5, wrs_ctx, wrs_reg hl _ _ _ _ h2, if_pos ⟨(hp l).mpr h3, sp⟩, e]
    · have c : 112 ≤ d.toNat ∧ d.toNat < 120 ∧ d.toNat - 112 ≤ d.toNat - 112 + o ∧ d.toNat - 112 + o < d.toNat - 112 + n := by
        omega
      have e : d.toNat - 112 + o - (d.toNat - 112) = o := by omega
      rw [if_neg h5, if_pos h4, wrs_ofile hl _ _ _ _ h2, if_pos ⟨(hp l).mpr h3, c⟩, e]
  obtain ⟨q, f, dp, g, e⟩ := wrs_rest (x := x) (lanes := lanes) (d := d) v n
  refine ⟨?_, ?_, ?_, ?_, ?_, ?_, ?_, ?_, ?_, ?_⟩
  · intro o l h1 h2 h3 h4
    rw [hr o l h4, hd o l h1 h2 h3 h4]
  · intro r l h1 h2
    rw [hs, wrs_reg hl _ _ _ _ h1, if_neg]
    rw [hp]
    exact h2
  · intro j l h1 h2
    rw [ho, wrs_ofile hl _ _ _ _ h1, if_neg]
    rw [hp]
    exact h2
  · intro l h1 h2
    have h1' : l < (x.wrs lanes d v n).lanes := by rw [e]; exact h1
    have := shift_latch_first (x := x.wrs lanes d v n)
      (fun l => if d = 124#7 then (if lanes.contains l then v 0 l else 0#32) else (x.wrs lanes d v n).rd 0 d 0 l) h1' h2
    refine this.trans ?_
    by_cases hz : d = 124#7
    · have : lanes.contains l = p l := by
        rw [Bool.eq_iff_iff, List.contains_iff_mem, hp]
      simp only [hz, if_true, this]
    · have lt : d.toNat < 120 := by
        unfold Opnd.dstOk at ok
        simp only [Bool.or_eq_true, decide_eq_true_eq, beq_iff_eq] at ok
        rcases ok with h | h
        · exact h
        · exact absurd (BitVec.eq_of_toNat_eq h) hz
      simp only [hz, if_false]
      exact (hr 0 l lt).symm
  · intro k l h1 h2
    refine (shift_latch (x := x.wrs lanes d v n) _ h1 h2).trans ?_
    rw [e]
  · simp only [Team.resultIn, Team.shift, Team.stain, e]
  · simp only [Team.resultIn, Team.shift, Team.stain, e]
  · intro r
    have k : (x.wrs lanes d v n).latchPlanes = x.latchPlanes := by rw [e]; rfl
    unfold Team.resultIn Team.shift
    rw [mem_stain]
    show r ∈ (x.wrs lanes d v n).dirty ∨ r ∈ (x.wrs lanes d v n).latchPlanes ↔ _
    rw [wrs_dirty hl, k]
    constructor
    · rintro ((h | ⟨a, l, m, h, w⟩ | ⟨j, l, m, h⟩) | h)
      · exact .inl h
      · exact .inr (.inr (.inl ⟨a, l, hl l m, (hp l).mp m, h, w⟩))
      · exact .inr (.inr (.inr ⟨j, l, hl l m, (hp l).mp m, h⟩))
      · exact .inr (.inl h)
    · rintro (h | h | ⟨a, l, _, m, h, w⟩ | ⟨j, l, _, m, h⟩)
      · exact .inl (.inl h)
      · exact .inr h
      · exact .inl (.inr (.inl ⟨a, l, (hp l).mpr m, h, w⟩))
      · exact .inl (.inr (.inr ⟨j, l, (hp l).mpr m, h⟩))
  · obtain ⟨m, a, b⟩ := wrs_noted (x := x) (d := d) hl v n
    refine ⟨m, ?_, fun c hc => ⟨(b c hc).1, (hp _).mp (b c hc).2.1, (b c hc).2.2⟩⟩
    simpa only [Team.resultIn, Team.shift, Team.stain] using a
  · simp only [Team.resultIn, Team.shift, Team.stain, e]

/-- A result in the active lanes. -/
theorem results_wrote (n : Nat) (v : Nat → Nat → Word) (ok : Opnd.dstOk d = true) : x.Wrote (x.results d n v) x.act d n v :=
  resultIn_wrote x.act (fun _ => mem_active) (fun _ h => act_lt (mem_active.mp h)) n v ok

theorem result_wrote (v : Nat → Word) (ok : Opnd.dstOk d = true) : x.Wrote (x.result d v) x.act d 1 fun _ => v :=
  results_wrote 1 (fun _ => v) ok

/-- An instruction whose checks pass names legal operands (R51 subcode 2). -/
theorem legal_of_issues {i : Instr} {s : State} {t : Nat} {x : Team} (h : Issues i s t x) : i.legal = true := by
  by_contra c
  have := h.2.2.1
  unfold Team.decodeCheck at this
  simp only [Bool.not_eq_true] at c
  simp [c] at this

/-- Each operand of a legal instruction is legal. -/
theorem operand_ok {i : Instr} (h : i.legal = true) {o : Opnd} (m : o ∈ i.operands) : o.ok = true := by
  simp only [Instr.legal, Bool.and_eq_true, List.all_eq_true] at h
  exact h.1 o m

/-- An instruction whose whole effect is a result of n registers in the active lanes. -/
theorem team_results {i : Instr} {s : State} {t : Nat} {x : Team} {d : Field} {n : Nat} {v u : Nat → Nat → Word} {f : Team → Team}
    (h : Runs i s t x) (ok : Opnd.dstOk d = true) (he : exec i s = issue i s (teamAct f))
    (hf : f (x.issued i) = (x.issued i).results d n u) (hv : ∀ o l, o < n → u o l = v o l) (hn : 0 < n) : Results i s t x d n v := by
  refine ⟨(x.issued i).results d n u, ?_, ?_⟩
  · have w := results_wrote (x := x.issued i) n u ok
    refine ⟨?_, w.regs, w.ofile, ?_, w.latch, w.filled, w.late, w.dirty, w.noted, w.rest⟩
    · intro o l a b c e
      rw [w.dest o l a b c e, hv o l a]
    · intro l a b
      rw [w.first l a b, hv 0 l hn]
      rfl
  · rw [he, issue_team h.1 (by rw [hf]; exact h.2), hf]

end Sys2Proof.Machine
end

