-- ==== Sys2Proof/Tests/Slice0.lean ====
section
/-!
SUPPORT. The model's own tests: words written out from the encodings of spec/opcode_table.json, ill-formed terms that are refused, worked
values of the spec, and a witness for the hypotheses of the statements.
-/

namespace Sys2Proof.Tests

set_option Elab.async false

open Sys2Proof.Machine Sys2Proof.Claims

/-! Words, bit by bit as the opcode table gives each row, every function code of a form once. -/

/-- Each word decodes to its instruction. -/
def decodes (l : List (Word × Instr)) : Bool := l.all fun p => decodeTableWord 32 p.1.toNat == some p.2

/-- Words of the header rows. -/
def headerWords : List (Word × Instr) := [
    (0b1111100_0000_0010100_1111001_0011010#32, .clauseStart 0x805 3 12 9 2 true)]

theorem test_decode_header : decodes headerWords = true := by decide +kernel

/-- Words of the flow rows. -/
def flow1Words : List (Word × Instr) := [
    (0b0000000_0000_0000100_0001000_0010000#32, .nop),
    (0b0000000_0001_0000100_0001000_0010000#32, .halt),
    (0b0000001_0000_1010101_0101010_1010111#32, .bCond .al 0x155557),
    (0b0000001_0001_1010101_0101010_1010111#32, .bCond .eq 0x155557),
    (0b0000001_0010_1010101_0101010_1010111#32, .bCond .ne 0x155557),
    (0b0000001_0011_1010101_0101010_1010111#32, .bCond .hs 0x155557),
    (0b0000001_0100_1010101_0101010_1010111#32, .bCond .lo 0x155557),
    (0b0000001_0101_1010101_0101010_1010111#32, .bCond .mi 0x155557),
    (0b0000001_0110_1010101_0101010_1010111#32, .bCond .pl 0x155557),
    (0b0000001_0111_1010101_0101010_1010111#32, .bCond .vs 0x155557),
    (0b0000001_1000_1010101_0101010_1010111#32, .bCond .vc 0x155557),
    (0b0000001_1001_1010101_0101010_1010111#32, .bCond .hi 0x155557),
    (0b0000001_1010_1010101_0101010_1010111#32, .bCond .ls 0x155557),
    (0b0000001_1011_1010101_0101010_1010111#32, .bCond .ge 0x155557),
    (0b0000001_1100_1010101_0101010_1010111#32, .bCond .lt 0x155557),
    (0b0000001_1101_1010101_0101010_1010111#32, .bCond .gt 0x155557),
    (0b0000001_1110_1010101_0101010_1010111#32, .bCond .le 0x155557),
    (0b0000010_0000_1010101_0101010_1010111#32, .bMask .mz 0x155557),
    (0b0000010_0001_1010101_0101010_1010111#32, .bMask .nmz 0x155557),
    (0b0000010_0010_1010101_0101010_1010111#32, .bMask .ma 0x155557),
    (0b0000010_0011_1010101_0101010_1010111#32, .bMask .nma 0x155557),
    (0b0000011_0000_1010101_0101010_1010111#32, .call 0x155557),
    (0b0000100_0000_0000100_0001000_0010000#32, .ret 8),
    (0b0000100_0001_0000100_0001000_0010000#32, .callr 4 8)]

theorem test_decode_flow_1 : decodes flow1Words = true := by decide +kernel

/-- Words of the flow rows. -/
def flow2Words : List (Word × Instr) := [
    (0b0000100_0010_0000100_0001000_0010000#32, .br 8),
    (0b0000101_0000_0000100_0001000_0010000#32, .cmpu .i32 8 16),
    (0b0000101_0001_0000100_0001000_0010000#32, .cmpu .n32 8 16),
    (0b0000101_0010_0000100_0001000_0010000#32, .cmpu .f32 8 16),
    (0b0000110_0000_0000100_0001000_0010000#32, .mpush 4 8),
    (0b0000110_0001_0000100_0001000_0010000#32, .melse 8 16),
    (0b0000110_0010_0000100_0001000_0010000#32, .mpop 8),
    (0b0000111_0000_0000100_0001000_0010000#32, .yield),
    (0b0000111_0001_0000100_0001000_0010000#32, .yieldF 8 16),
    (0b0000111_0010_0000100_0001000_0010000#32, .yieldC 4 8 16),
    (0b0001000_0000_0000100_0000000_0000101#32, .winbase 5),
    (0b0001001_0000_0000100_0001000_0010000#32, .stgpost 8 16),
    (0b0001001_0001_0000100_0001000_0010000#32, .stgtake 4 16),
    (0b0001010_0000_0000100_0001000_0010000#32, .idr .core 4),
    (0b0001010_0001_0000100_0001000_0010000#32, .idr .die 4),
    (0b0001010_0010_0000100_0001000_0010000#32, .idr .cluster 4),
    (0b0001010_0011_0000100_0001000_0010000#32, .idr .teams 4),
    (0b0001010_0100_0000100_0001000_0010000#32, .idr .groups 4),
    (0b0001010_0101_0000100_0001000_0010000#32, .idr .launch 4),
    (0b0001010_0110_0000100_0001000_0010000#32, .idr .arch 4),
    (0b0001011_0000_0000100_0001000_0010000#32, .cycles false 4),
    (0b0001011_0001_0000100_0001000_0010000#32, .cycles true 4),
    (0b0001011_0010_0000100_0001000_0010000#32, .retired false 4),
    (0b0001011_0011_0000100_0001000_0010000#32, .retired true 4)]

theorem test_decode_flow_2 : decodes flow2Words = true := by decide +kernel

/-- Words of the flow rows. -/
def flow3Words : List (Word × Instr) := [
    (0b0001100_0000_0000100_0001000_0010000#32, .regionPc 4),
    (0b0001100_0001_0000100_0001000_0010000#32, .regionCount 4)]

theorem test_decode_flow_3 : decodes flow3Words = true := by decide +kernel

/-- Words of the integer rows. -/
def integer1Words : List (Word × Instr) := [
    (0b0010000_0000_0000100_0001000_0010000#32, .add 4 8 16),
    (0b0010000_0001_0000100_0001000_0010000#32, .sub 4 8 16),
    (0b0010000_0010_0000100_0001000_0010000#32, .addc 4 8 16),
    (0b0010000_0011_0000100_0001000_0010000#32, .subc 4 8 16),
    (0b0010000_0100_0000100_0001000_0010000#32, .adds .i32 4 8 16),
    (0b0010000_0110_0000100_0001000_0010000#32, .adds .n32 4 8 16),
    (0b0010000_0101_0000100_0001000_0010000#32, .subs .i32 4 8 16),
    (0b0010000_0111_0000100_0001000_0010000#32, .subs .n32 4 8 16),
    (0b0010001_0000_0000100_0001000_0010000#32, .mul 4 8 16),
    (0b0010001_0001_0000100_0001000_0010000#32, .mulhI32 4 8 16),
    (0b0010001_0010_0000100_0001000_0010000#32, .mulhN32 4 8 16),
    (0b0010001_0011_0000100_0001000_0010000#32, .mulwI32 4 8 16),
    (0b0010001_0100_0000100_0001000_0010000#32, .mulwN32 4 8 16),
    (0b0010010_0000_0000100_0001000_0010000#32, .mad 4 8 16),
    (0b0010010_0001_0000100_0001000_0010000#32, .madhI32 4 8 16),
    (0b0010010_0010_0000100_0001000_0010000#32, .madhN32 4 8 16),
    (0b0010011_0000_0000100_0001000_0010000#32, .divstepN32 4 8),
    (0b0010011_0001_0000100_0001000_0010000#32, .divstepI32 4 8 16),
    (0b0010100_0000_0000100_0001000_0010000#32, .and 4 8 16),
    (0b0010100_0001_0000100_0001000_0010000#32, .or 4 8 16),
    (0b0010100_0010_0000100_0001000_0010000#32, .xor 4 8 16),
    (0b0010100_0011_0000100_0001000_0010000#32, .andn 4 8 16),
    (0b0010100_0100_0000100_0001000_0010000#32, .orn 4 8 16),
    (0b0010100_0101_0000100_0001000_0010000#32, .xnor 4 8 16)]

theorem test_decode_integer_1 : decodes integer1Words = true := by decide +kernel

/-- Words of the integer rows. -/
def integer2Words : List (Word × Instr) := [
    (0b0010100_0110_0000100_0001000_0010000#32, .not 4 8),
    (0b0010101_0000_0000100_0001000_0010000#32, .shl 4 8 16),
    (0b0010101_0001_0000100_0001000_0010000#32, .shrN32 4 8 16),
    (0b0010101_0010_0000100_0001000_0010000#32, .shrI32 4 8 16),
    (0b0010101_0011_0000100_0001000_0010000#32, .rotl 4 8 16),
    (0b0010101_0100_0000100_0001000_0010000#32, .rotr 4 8 16),
    (0b0010110_0000_0000100_0001000_0010000#32, .minI32 4 8 16),
    (0b0010110_0001_0000100_0001000_0010000#32, .maxI32 4 8 16),
    (0b0010110_0010_0000100_0001000_0010000#32, .minN32 4 8 16),
    (0b0010110_0011_0000100_0001000_0010000#32, .maxN32 4 8 16),
    (0b0010110_0100_0000100_0001000_0010000#32, .absI32 4 8),
    (0b0010111_0000_0000100_0001000_0010000#32, .setc .eq 4 8 16),
    (0b0010111_0001_0000100_0001000_0010000#32, .setc .ne 4 8 16),
    (0b0010111_0010_0000100_0001000_0010000#32, .setc .ltI 4 8 16),
    (0b0010111_0011_0000100_0001000_0010000#32, .setc .leI 4 8 16),
    (0b0010111_0100_0000100_0001000_0010000#32, .setc .gtI 4 8 16),
    (0b0010111_0101_0000100_0001000_0010000#32, .setc .geI 4 8 16),
    (0b0010111_0110_0000100_0001000_0010000#32, .setc .ltN 4 8 16),
    (0b0010111_0111_0000100_0001000_0010000#32, .setc .leN 4 8 16),
    (0b0010111_1000_0000100_0001000_0010000#32, .setc .gtN 4 8 16),
    (0b0010111_1001_0000100_0001000_0010000#32, .setc .geN 4 8 16),
    (0b0011000_0000_0000100_0001000_0010000#32, .sel 4 8 16),
    (0b0011001_0000_0000100_0001000_0010000#32, .popc 4 8),
    (0b0011001_0001_0000100_0001000_0010000#32, .clz 4 8)]

theorem test_decode_integer_2 : decodes integer2Words = true := by decide +kernel

/-- Words of the integer rows. -/
def integer3Words : List (Word × Instr) := [
    (0b0011001_0010_0000100_0001000_0010000#32, .ctz 4 8),
    (0b0011001_0011_0000100_0001000_0010000#32, .brev 4 8),
    (0b0011001_0100_0000100_0001000_0010000#32, .bfxN32 4 8 16),
    (0b0011001_0101_0000100_0001000_0010000#32, .bfxI32 4 8 16),
    (0b0011001_0110_0000100_0001000_0010000#32, .bfi 4 8 16),
    (0b0011010_0000_0000100_0001000_0010000#32, .prm 4 8 16),
    (0b0011011_0000_0000100_0001000_0010000#32, .lea 0 4 8 16),
    (0b0011011_0001_0000100_0001000_0010000#32, .lea 1 4 8 16),
    (0b0011011_0010_0000100_0001000_0010000#32, .lea 2 4 8 16),
    (0b0011011_0011_0000100_0001000_0010000#32, .lea 3 4 8 16),
    (0b0011011_0100_0000100_0001000_0010000#32, .lea 4 4 8 16),
    (0b0011100_0000_0000100_0001000_0010000#32, .mov 4 8),
    (0b0011101_0000_0000100_1010101_0101011#32, .movi 4 0x2AAB),
    (0b0011101_0001_0000100_1010101_0101011#32, .movhi 4 0x2AAB),
    (0b0011110_0000_0000100_0001000_0010000#32, .shfl .idx 4 8 16),
    (0b0011110_0001_0000100_0001000_0010000#32, .shfl .bcast 4 8 16),
    (0b0011110_0010_0000100_0001000_0010000#32, .shfl .xor 4 8 16),
    (0b0011110_0011_0000100_0001000_0010000#32, .shfl .up 4 8 16),
    (0b0011110_0100_0000100_0001000_0010000#32, .shfl .down 4 8 16),
    (0b0011111_0000_0000100_0001000_0010000#32, .vote .any 4 8),
    (0b0011111_0001_0000100_0001000_0010000#32, .vote .all 4 8),
    (0b0011111_0010_0000100_0001000_0010000#32, .vote .ballot 4 8),
    (0b0011111_0011_0000100_0001000_0010000#32, .vote .uni 4 8),
    (0b0100000_0000_0000100_0001000_0010000#32, .red .addI32 4 8)]

theorem test_decode_integer_3 : decodes integer3Words = true := by decide +kernel

/-- Words of the integer rows. -/
def integer4Words : List (Word × Instr) := [
    (0b0100000_0001_0000100_0001000_0010000#32, .red .minI32 4 8),
    (0b0100000_0010_0000100_0001000_0010000#32, .red .maxI32 4 8),
    (0b0100000_0011_0000100_0001000_0010000#32, .red .minN32 4 8),
    (0b0100000_0100_0000100_0001000_0010000#32, .red .maxN32 4 8),
    (0b0100000_0101_0000100_0001000_0010000#32, .red .and 4 8),
    (0b0100000_0110_0000100_0001000_0010000#32, .red .or 4 8),
    (0b0100000_0111_0000100_0001000_0010000#32, .red .xor 4 8),
    (0b0100001_0000_0000100_0001000_0010000#32, .scan .addIncl 4 8),
    (0b0100001_0001_0000100_0001000_0010000#32, .scan .addExcl 4 8),
    (0b0100001_0010_0000100_0001000_0010000#32, .scan .maxI32Incl 4 8),
    (0b0100001_0011_0000100_0001000_0010000#32, .scan .minI32Incl 4 8),
    (0b0100001_0100_0000100_0001000_0010000#32, .scan .orIncl 4 8)]

theorem test_decode_integer_4 : decodes integer4Words = true := by decide +kernel

/-- Words of the float rows. -/
def float1Words : List (Word × Instr) := [
    (0b0101000_0000_0000100_0001000_0010000#32, .fadd 4 8 16),
    (0b0101000_0001_0000100_0001000_0010000#32, .fsub 4 8 16),
    (0b0101001_0000_0000100_0001000_0010000#32, .fmul 4 8 16),
    (0b0101010_0000_0000100_0001000_0010000#32, .ffma 4 8 16),
    (0b0101010_0001_0000100_0001000_0010000#32, .ffms 4 8 16),
    (0b0101010_0010_0000100_0001000_0010000#32, .ffnma 4 8 16),
    (0b0101010_0011_0000100_0001000_0010000#32, .ffnms 4 8 16),
    (0b0101011_0000_0000100_0001000_0010000#32, .fmin 4 8 16),
    (0b0101011_0001_0000100_0001000_0010000#32, .fmax 4 8 16),
    (0b0101011_0010_0000100_0001000_0010000#32, .fminm 4 8 16),
    (0b0101011_0011_0000100_0001000_0010000#32, .fmaxm 4 8 16),
    (0b0101011_0100_0000100_0001000_0010000#32, .fabs 4 8),
    (0b0101011_0101_0000100_0001000_0010000#32, .fneg 4 8),
    (0b0101100_0000_0000100_0001000_0010000#32, .fcmp .eq 4 8 16),
    (0b0101100_0001_0000100_0001000_0010000#32, .fcmp .ne 4 8 16),
    (0b0101100_0010_0000100_0001000_0010000#32, .fcmp .lt 4 8 16),
    (0b0101100_0011_0000100_0001000_0010000#32, .fcmp .le 4 8 16),
    (0b0101100_0100_0000100_0001000_0010000#32, .fcmp .gt 4 8 16),
    (0b0101100_0101_0000100_0001000_0010000#32, .fcmp .ge 4 8 16),
    (0b0101100_0110_0000100_0001000_0010000#32, .fcmp .un 4 8 16),
    (0b0101100_0111_0000100_0001000_0010000#32, .fcmp .ord 4 8 16),
    (0b0101101_0000_0000100_0001000_0010000#32, .frcp 4 8),
    (0b0101101_0001_0000100_0001000_0010000#32, .frsq 4 8),
    (0b0101101_0010_0000100_0001000_0010000#32, .fsqrt 4 8)]

theorem test_decode_float_1 : decodes float1Words = true := by decide +kernel

/-- Words of the float rows. -/
def float2Words : List (Word × Instr) := [
    (0b0101101_0011_0000100_0001000_0010000#32, .fexp2 4 8),
    (0b0101101_0100_0000100_0001000_0010000#32, .flog2 4 8),
    (0b0101101_0101_0000100_0001000_0010000#32, .ftanh 4 8),
    (0b0101110_0000_0000100_0001000_0010000#32, .hadd2F16 4 8 16),
    (0b0101110_0001_0000100_0001000_0010000#32, .hmul2F16 4 8 16),
    (0b0101110_0010_0000100_0001000_0010000#32, .hfma2F16 4 8 16),
    (0b0101110_0011_0000100_0001000_0010000#32, .hadd2Bf16 4 8 16),
    (0b0101110_0100_0000100_0001000_0010000#32, .hmul2Bf16 4 8 16),
    (0b0101110_0101_0000100_0001000_0010000#32, .hfma2Bf16 4 8 16),
    (0b0101110_0110_0000100_0001000_0010000#32, .hmin2F16 4 8 16),
    (0b0101110_0111_0000100_0001000_0010000#32, .hmax2F16 4 8 16),
    (0b0101110_1000_0000100_0001000_0010000#32, .hmin2Bf16 4 8 16),
    (0b0101110_1001_0000100_0001000_0010000#32, .hmax2Bf16 4 8 16),
    (0b0101111_0000_0000100_0001000_0010000#32, .cvtToF32 .f16lo 4 8),
    (0b0101111_0001_0000100_0001000_0010000#32, .cvtToF32 .f16hi 4 8),
    (0b0101111_0010_0000100_0001000_0010000#32, .cvtToF32 .bf16lo 4 8),
    (0b0101111_0011_0000100_0001000_0010000#32, .cvtToF32 .bf16hi 4 8),
    (0b0101111_0100_0000100_0001000_0010000#32, .cvtToF32 .e4m3b0 4 8),
    (0b0101111_0101_0000100_0001000_0010000#32, .cvtToF32 .e4m3b1 4 8),
    (0b0101111_0110_0000100_0001000_0010000#32, .cvtToF32 .e4m3b2 4 8),
    (0b0101111_0111_0000100_0001000_0010000#32, .cvtToF32 .e4m3b3 4 8),
    (0b0101111_1000_0000100_0001000_0010000#32, .cvtToF32 .e5m2b0 4 8),
    (0b0101111_1001_0000100_0001000_0010000#32, .cvtToF32 .e5m2b1 4 8),
    (0b0101111_1010_0000100_0001000_0010000#32, .cvtToF32 .e5m2b2 4 8)]

theorem test_decode_float_2 : decodes float2Words = true := by decide +kernel

/-- Words of the float rows. -/
def float3Words : List (Word × Instr) := [
    (0b0101111_1011_0000100_0001000_0010000#32, .cvtToF32 .e5m2b3 4 8),
    (0b0101111_1100_0000100_0001000_0010000#32, .cvtToF32 .i32 4 8),
    (0b0101111_1101_0000100_0001000_0010000#32, .cvtToF32 .n32 4 8),
    (0b0110000_0000_0000100_0001000_0010000#32, .cvtFromF32 .f16lo 4 8),
    (0b0110000_0001_0000100_0001000_0010000#32, .cvtFromF32 .f16hi 4 8),
    (0b0110000_0010_0000100_0001000_0010000#32, .cvtFromF32 .bf16lo 4 8),
    (0b0110000_0011_0000100_0001000_0010000#32, .cvtFromF32 .bf16hi 4 8),
    (0b0110000_0100_0000100_0001000_0010000#32, .cvtFromF32 .e4m3b0 4 8),
    (0b0110000_0101_0000100_0001000_0010000#32, .cvtFromF32 .e4m3b1 4 8),
    (0b0110000_0110_0000100_0001000_0010000#32, .cvtFromF32 .e4m3b2 4 8),
    (0b0110000_0111_0000100_0001000_0010000#32, .cvtFromF32 .e4m3b3 4 8),
    (0b0110000_1000_0000100_0001000_0010000#32, .cvtFromF32 .e5m2b0 4 8),
    (0b0110000_1001_0000100_0001000_0010000#32, .cvtFromF32 .e5m2b1 4 8),
    (0b0110000_1010_0000100_0001000_0010000#32, .cvtFromF32 .e5m2b2 4 8),
    (0b0110000_1011_0000100_0001000_0010000#32, .cvtFromF32 .e5m2b3 4 8),
    (0b0110000_1100_0000100_0001000_0010000#32, .cvtFromF32 .i32 4 8),
    (0b0110000_1101_0000100_0001000_0010000#32, .cvtFromF32 .n32 4 8),
    (0b0110001_0000_0000100_0001000_0010000#32, .qpack .i8 4 8 16),
    (0b0110001_0001_0000100_0001000_0010000#32, .qpack .n8 4 8 16),
    (0b0110001_0010_0000100_0001000_0010000#32, .qpack .i4 4 8 16),
    (0b0110001_0011_0000100_0001000_0010000#32, .qpack .n4 4 8 16),
    (0b0110001_0100_0000100_0001000_0010000#32, .qunpack .i8 4 8 16),
    (0b0110001_0101_0000100_0001000_0010000#32, .qunpack .n8 4 8 16),
    (0b0110001_0110_0000100_0001000_0010000#32, .qunpack .i4 4 8 16)]

theorem test_decode_float_3 : decodes float3Words = true := by decide +kernel

/-- Words of the float rows. -/
def float4Words : List (Word × Instr) := [
    (0b0110001_0111_0000100_0001000_0010000#32, .qunpack .n4 4 8 16),
    (0b0110010_0000_0000100_0001000_0010000#32, .fmtset 4 8),
    (0b0110010_0001_0000100_0001000_0010000#32, .fmode 4 8)]

theorem test_decode_float_4 : decodes float4Words = true := by decide +kernel

/-- Words of the local rows. -/
def localMemory1Words : List (Word × Instr) := [
    (0b0111000_0000_0000100_0001000_1010101#32, .ldSh .n8 4 8 0x55),
    (0b0111000_0001_0000100_0001000_1010101#32, .ldSh .i8 4 8 0x55),
    (0b0111000_0010_0000100_0001000_1010101#32, .ldSh .n16 4 8 0x55),
    (0b0111000_0011_0000100_0001000_1010101#32, .ldSh .i16 4 8 0x55),
    (0b0111000_0100_0000100_0001000_1010101#32, .ldSh .n32 4 8 0x55),
    (0b0111000_0101_0000100_0001000_1010101#32, .ldSh .w64 4 8 0x55),
    (0b0111000_0110_0000100_0001000_1010101#32, .ldSh .w128 4 8 0x55),
    (0b0111001_0000_0000100_0001000_1010101#32, .stSh .w8 4 8 0x55),
    (0b0111001_0001_0000100_0001000_1010101#32, .stSh .w16 4 8 0x55),
    (0b0111001_0010_0000100_0001000_1010101#32, .stSh .w32 4 8 0x55),
    (0b0111001_0011_0000100_0001000_1010101#32, .stSh .w64 4 8 0x55),
    (0b0111001_0100_0000100_0001000_1010101#32, .stSh .w128 4 8 0x55),
    (0b0111010_0000_0000100_0001000_1010101#32, .ldSp .n8 4 8 0x55),
    (0b0111010_0001_0000100_0001000_1010101#32, .ldSp .i8 4 8 0x55),
    (0b0111010_0010_0000100_0001000_1010101#32, .ldSp .n16 4 8 0x55),
    (0b0111010_0011_0000100_0001000_1010101#32, .ldSp .i16 4 8 0x55),
    (0b0111010_0100_0000100_0001000_1010101#32, .ldSp .n32 4 8 0x55),
    (0b0111010_0101_0000100_0001000_1010101#32, .ldSp .w64 4 8 0x55),
    (0b0111010_0110_0000100_0001000_1010101#32, .ldSp .w128 4 8 0x55),
    (0b0111011_0000_0000100_0001000_1010101#32, .stSp .w8 4 8 0x55),
    (0b0111011_0001_0000100_0001000_1010101#32, .stSp .w16 4 8 0x55),
    (0b0111011_0010_0000100_0001000_1010101#32, .stSp .w32 4 8 0x55),
    (0b0111011_0011_0000100_0001000_1010101#32, .stSp .w64 4 8 0x55),
    (0b0111011_0100_0000100_0001000_1010101#32, .stSp .w128 4 8 0x55)]

theorem test_decode_local_memory_1 : decodes localMemory1Words = true := by decide +kernel

/-- Words of the local rows. -/
def localMemory2Words : List (Word × Instr) := [
    (0b0111100_0000_0000100_0001000_1010101#32, .ldSt .n8 4 8 0x55),
    (0b0111100_0001_0000100_0001000_1010101#32, .ldSt .i8 4 8 0x55),
    (0b0111100_0010_0000100_0001000_1010101#32, .ldSt .n16 4 8 0x55),
    (0b0111100_0011_0000100_0001000_1010101#32, .ldSt .i16 4 8 0x55),
    (0b0111100_0100_0000100_0001000_1010101#32, .ldSt .n32 4 8 0x55),
    (0b0111100_0101_0000100_0001000_1010101#32, .ldSt .w64 4 8 0x55),
    (0b0111100_0110_0000100_0001000_1010101#32, .ldSt .w128 4 8 0x55),
    (0b0111101_0000_0000100_0001000_1010101#32, .stSt .w8 4 8 0x55),
    (0b0111101_0001_0000100_0001000_1010101#32, .stSt .w16 4 8 0x55),
    (0b0111101_0010_0000100_0001000_1010101#32, .stSt .w32 4 8 0x55),
    (0b0111101_0011_0000100_0001000_1010101#32, .stSt .w64 4 8 0x55),
    (0b0111101_0100_0000100_0001000_1010101#32, .stSt .w128 4 8 0x55),
    (0b0111110_0000_0000100_0001000_1010101#32, .ldlk 4 8 0x55),
    (0b0111110_0001_0000100_0001000_1010101#32, .stul 4 8 0x55),
    (0b0111111_0000_0000100_0001000_1010101#32, .atomSh .addI32 4 8 0x55),
    (0b0111111_0001_0000100_0001000_1010101#32, .atomSh .minI32 4 8 0x55),
    (0b0111111_0010_0000100_0001000_1010101#32, .atomSh .maxI32 4 8 0x55),
    (0b0111111_0011_0000100_0001000_1010101#32, .atomSh .minN32 4 8 0x55),
    (0b0111111_0100_0000100_0001000_1010101#32, .atomSh .maxN32 4 8 0x55),
    (0b0111111_0101_0000100_0001000_1010101#32, .atomSh .and 4 8 0x55),
    (0b0111111_0110_0000100_0001000_1010101#32, .atomSh .or 4 8 0x55),
    (0b0111111_0111_0000100_0001000_1010101#32, .atomSh .xor 4 8 0x55),
    (0b0111111_1000_0000100_0001000_1010101#32, .atomSh .xchg 4 8 0x55),
    (0b0111111_1001_0000100_0001000_1010101#32, .atomSh .cas 4 8 0x55)]

theorem test_decode_local_memory_2 : decodes localMemory2Words = true := by decide +kernel

/-- Words of the local rows. -/
def localMemory3Words : List (Word × Instr) := [
    (0b0111111_1010_0000100_0001000_1010101#32, .atomSh .addF32 4 8 0x55),
    (0b1000000_0000_0000100_0001000_1010101#32, .atomSp .addI32 4 8 0x55),
    (0b1000000_0001_0000100_0001000_1010101#32, .atomSp .minI32 4 8 0x55),
    (0b1000000_0010_0000100_0001000_1010101#32, .atomSp .maxI32 4 8 0x55),
    (0b1000000_0011_0000100_0001000_1010101#32, .atomSp .minN32 4 8 0x55),
    (0b1000000_0100_0000100_0001000_1010101#32, .atomSp .maxN32 4 8 0x55),
    (0b1000000_0101_0000100_0001000_1010101#32, .atomSp .and 4 8 0x55),
    (0b1000000_0110_0000100_0001000_1010101#32, .atomSp .or 4 8 0x55),
    (0b1000000_0111_0000100_0001000_1010101#32, .atomSp .xor 4 8 0x55),
    (0b1000000_1000_0000100_0001000_1010101#32, .atomSp .xchg 4 8 0x55),
    (0b1000000_1001_0000100_0001000_1010101#32, .atomSp .cas 4 8 0x55),
    (0b1000000_1010_0000100_0001000_1010101#32, .atomSp .addF32 4 8 0x55),
    (0b1000001_0000_0000100_0001000_0010000#32, .dusk .core),
    (0b1000001_0001_0000100_0001000_0010000#32, .dusk .die),
    (0b1000001_0010_0000100_0001000_0010000#32, .dusk .pkg),
    (0b1000001_0011_0000100_0001000_0010000#32, .dusk .sys),
    (0b1000001_0100_0000100_0001000_0010000#32, .dawn .core),
    (0b1000001_0101_0000100_0001000_0010000#32, .dawn .die),
    (0b1000001_0110_0000100_0001000_0010000#32, .dawn .pkg),
    (0b1000001_0111_0000100_0001000_0010000#32, .dawn .sys)]

theorem test_decode_local_memory_3 : decodes localMemory3Words = true := by decide +kernel

/-- Words of the copy rows. -/
def copyWords : List (Word × Instr) := [
    (0b1001000_0000_0000100_0001000_0010000#32, .cstage 4 8),
    (0b1001000_0001_0000100_0001000_0010000#32, .cstageArg 4 8 16),
    (0b1001001_0000_0000100_0001000_0010000#32, .cwait 8 16),
    (0b1001001_0001_0000100_0001000_0010000#32, .cread 4 8),
    (0b1001001_0010_0000100_0001000_0010000#32, .wmread 4 8),
    (0b1001001_0011_0000100_0001000_0010000#32, .cstat 4 8),
    (0b1001010_0000_0000100_0001000_0010000#32, .balloc 4 8 16),
    (0b1001010_0001_0000100_0001000_0010000#32, .bref 8),
    (0b1001010_0010_0000100_0001000_0010000#32, .bfree 8),
    (0b1001010_0011_0000100_0001000_0010000#32, .barrive 4 8),
    (0b1001010_0100_0000100_0001000_0010000#32, .bexpect 8 16),
    (0b1001010_0101_0000100_0001000_0010000#32, .bwait 4 8 16)]

theorem test_decode_copy : decodes copyWords = true := by decide +kernel

/-- Words of the matrix rows. -/
def matrixWords : List (Word × Instr) := [
    (0b1010000_0000_0000100_0001000_0010000#32, .mmq 4 8 16),
    (0b1010001_0000_0000100_0001000_0010000#32, .mmqs 0 4 8 16),
    (0b1010001_0111_0000100_0001000_0010000#32, .mmqs 7 4 8 16),
    (0b1010001_1111_0000100_0001000_0010000#32, .mmqs 15 4 8 16),
    (0b1010010_0000_0000100_0001000_0010000#32, .mmc 4 8 16),
    (0b1010011_0000_0000100_0001000_0010000#32, .mxfence),
    (0b1010011_0001_0000100_0001000_0010000#32, .mxzero 4 8),
    (0b1010100_0000_0000100_0001000_0010000#32, .mxread 4 8 16),
    (0b1010100_0001_0000100_0001000_0010000#32, .mxwrite 4 8 16),
    (0b1010100_0010_0000100_0001000_0010000#32, .mxsmax 4 8 16),
    (0b1010100_0011_0000100_0001000_0010000#32, .mxrescale 8 16),
    (0b1010100_0100_0000100_0001000_0010000#32, .mxsum 4 8),
    (0b1010101_0000_0000100_0001000_0010000#32, .spcmp 4 8 16),
    (0b1010101_0001_0000100_0001000_0010000#32, .mdload 4 8),
    (0b1010101_0010_0000100_0001000_0010000#32, .mdread 4 8)]

theorem test_decode_matrix : decodes matrixWords = true := by decide +kernel

/-- Words of the stream rows. -/
def streamWords : List (Word × Instr) := [
    (0b1011000_0000_0000100_0001000_0010000#32, .sopen 4 8 16),
    (0b1011000_0001_0000100_0001000_0010000#32, .snext 4),
    (0b1011000_0010_0000100_0001000_0010000#32, .sskip 4 16),
    (0b1011001_0000_0000100_0001000_0010000#32, .sisect 4 8 16),
    (0b1011001_0001_0000100_0001000_0010000#32, .sunion 4 8 16),
    (0b1011010_0000_0000100_0001000_0010000#32, .scrd 4 8),
    (0b1011010_0001_0000100_0001000_0010000#32, .spos 4 8),
    (0b1011011_0000_0000100_0001000_0010000#32, .partn 4 8 16)]

theorem test_decode_stream : decodes streamWords = true := by decide +kernel

/-- Words of the wave rows. -/
def waveWords : List (Word × Instr) := [
    (0b1011110_0000_0000100_0001000_0010000#32, .gbind 4 8),
    (0b1011110_0001_0000100_0001000_0010000#32, .gunbind 8),
    (0b1011111_0000_0000100_0001000_0010000#32, .mark 4 8),
    (0b1011111_0001_0000100_0001000_0010000#32, .clear 4 8),
    (0b1100000_0000_0000100_0001000_0010000#32, .prop 4 8),
    (0b1100000_0001_0000100_0001000_0010000#32, .propf 4 8),
    (0b1100001_0000_0000100_0001000_0010000#32, .waveq 4 8),
    (0b1100010_0000_0000100_0001000_0010000#32, .collect 4 8),
    (0b1100010_0001_0000100_0001000_0010000#32, .collectg 4 8),
    (0b1100010_0010_0000100_0001000_0010000#32, .ncount 4 8)]

theorem test_decode_wave : decodes waveWords = true := by decide +kernel

/-- Words of the walk rows. -/
def walkWords : List (Word × Instr) := [
    (0b1100100_0000_0000100_0001000_0010000#32, .embed 4 8),
    (0b1100101_0000_0000100_0001000_0010000#32, .descend 4 8),
    (0b1100101_0001_0000100_0001000_0010000#32, .sideapp 4 8 16),
    (0b1100101_0010_0000100_0001000_0010000#32, .sidepub 8),
    (0b1100110_0000_0000100_0001000_0010000#32, .scatred .addI32 8 16),
    (0b1100110_0001_0000100_0001000_0010000#32, .scatred .addF32 8 16),
    (0b1100110_0010_0000100_0001000_0010000#32, .scatred .minI32 8 16),
    (0b1100110_0011_0000100_0001000_0010000#32, .scatred .maxI32 8 16),
    (0b1100110_0100_0000100_0001000_0010000#32, .scatred .minF32 8 16),
    (0b1100110_0101_0000100_0001000_0010000#32, .scatred .maxF32 8 16)]

theorem test_decode_walk : decodes walkWords = true := by decide +kernel

/-- Words of the fabric rows. -/
def fabricWords : List (Word × Instr) := [
    (0b1101000_0000_0000100_0001000_0010000#32, .amsend 8 16),
    (0b1101001_0000_0000100_0001000_0010000#32, .saread 4 8),
    (0b1101001_0001_0000100_0001000_0010000#32, .satest 8),
    (0b1101010_0000_0000100_0001000_0010000#32, .spawn 8 16)]

theorem test_decode_fabric : decodes fabricWords = true := by decide +kernel

/-- Words of the system rows. -/
def systemWords : List (Word × Instr) := [
    (0b1101100_0000_0000100_0001000_0010000#32, .trap 8),
    (0b1101100_0001_0000100_0001000_0010000#32, .tret 16),
    (0b1101101_0000_0000100_0001000_0010000#32, .ckpt),
    (0b1101101_0001_0000100_0001000_0010000#32, .event 8 16),
    (0b1101101_0010_0000100_0001000_0010000#32, .tlbinv 8 16),
    (0b1101110_0000_0000100_0001000_0010000#32, .sysrd 4 16),
    (0b1101110_0001_0000100_0001000_0010000#32, .syswr 8 16)]

theorem test_decode_system : decodes systemWords = true := by decide +kernel

/-- Words that the spec prints in full (R56, R108, R135, R153, R357). -/
theorem test_printed_words : decodes [
    (0x3A013FFB#32, .movi 4 (-5)), (0x10000005#32, .winbase 5), (0x00200000#32, .halt), (0x6203020D#32, .qpack .i8 12 4 13),
    (0xB0200000#32, .snext 0), (0xDA000000#32, .ckpt)] = true := by decide +kernel

/-- Words that no row assigns are refused: an unassigned major, function and header flag, a nonzero immediate bit (R29, R41, R51). -/
theorem test_unassigned_words :
    [0x1A000000#32, 0x04800000#32, 0x00400000#32, 0x10000010#32, 0xF000E000#32, 0xF0000001#32].all
      (fun w => decodeTableWord 32 w.toNat == none) = true := by decide +kernel

/-! Ill-formed terms. -/

theorem test_wf_destination : (Instr.add 120 1 2).wf = false ∧ (Instr.add 125 1 2).wf = false ∧ (Instr.add 124 1 2).wf = true := by decide
theorem test_wf_accumulator : (Instr.addc 127 1 2).wf = false := by decide
theorem test_wf_pair_destination : (Instr.mulwI32 111 1 2).wf = false ∧ (Instr.mulwI32 3 1 2).wf = false ∧ (Instr.mulwI32 118 1 2).wf = true := by decide
theorem test_wf_pair_source : (Instr.cwait 1 5).wf = false ∧ (Instr.cwait 1 124).wf = false := by decide
theorem test_wf_pair_accumulator : (Instr.divstepN32 124 1).wf = false := by decide
theorem test_wf_number : (Instr.tret 3).wf = false ∧ (Instr.stgpost 1 16).wf = false ∧ (Instr.snext 8).wf = false ∧ (Instr.tret 2).wf = true := by decide
theorem test_wf_load_data : (Instr.ldSh .w64 5 1 0).wf = false ∧ (Instr.ldSh .w128 6 1 0).wf = false ∧ (Instr.ldSh .n8 121 1 0).wf = false := by decide
theorem test_wf_store_data : (Instr.stSp .w64 5 1 0).wf = false ∧ (Instr.stSp .w128 110 1 0).wf = false ∧ (Instr.stSp .w128 124 1 0).wf = true := by decide
theorem test_wf_atomic_data : (Instr.atomSp .cas 3 1 0).wf = false ∧ (Instr.atomSp .addI32 3 1 0).wf = true := by decide
theorem test_wf_yield_counter : (Instr.yieldC 124 1 2).wf = false := by decide
theorem test_wf_softmax_destination : (Instr.mxsmax 124 0 2).wf = false := by decide
theorem test_wf_four_registers : (Instr.mxread 6 0 2).wf = false ∧ (Instr.mxwrite 0 124 2).wf = false ∧ (Instr.spawn 1 3).wf = false := by decide
theorem test_wf_a_span : (Instr.mmq 0 97 2).wf = false ∧ (Instr.mmq 0 96 2).wf = true := by decide
theorem test_wf_spcmp : (Instr.spcmp 112 1 2).wf = false ∧ (Instr.spcmp 1 112 2).wf = false := by decide
theorem test_wf_streams : (Instr.sisect 1 2 2).wf = false ∧ (Instr.sunion 1 2 3).wf = true := by decide
theorem test_wf_header_flags : (Instr.clauseStart 0 0 1 4 0 false).wf = false ∧ (Instr.clauseStart 0 13 0 4 0 false).wf = false := by decide
theorem test_wf_header_length : (Instr.clauseStart 0 0 0 1 2 false).wf = false := by decide
theorem test_wf_launch_message : (Instr.launchMessage 0 []).wf = false := by decide
theorem test_wf_keys : (Instr.loadKey ⟨1, 0#256, true⟩ 0 ⟨[], []⟩).wf = false ∧ (Instr.unloadKey ⟨1, 0#256, true⟩ 8192).wf = false := by decide
theorem test_wf_queue : (Instr.configureQueue ⟨1, 0#256, true⟩ 64 ⟨0, 0#52, 0#52, 0, 0#52, 0#128, 0, 0#48, ⟨0#128, 0#24⟩⟩).wf = false := by decide

/-! A small module: one launch with one team of one lane on core 0, in a clause of one NOP and three literals. -/

/-- The placed team (log 1) with a change made to it; its instruction is the last of its clause, and three literals stand behind it. -/
def ready (f : Team → Team) : Team := f (placeTeam 0 0#32)

/-- The module with that team. -/
def world (f : Team → Team) : State := (State.reset.withFetchWord 32 0).putTeam 0 (ready f)

/-- Registers of lane 0. -/
def holds (rs : List (Nat × Word)) (x : Team) : Team := { x with regs := rs.map fun p => (p.1 * 1024, p.2) }

/-- A value taken from what an instruction leads to. -/
def after {α : Type} (i : Instr) (s : State) (g : State → Option α) : Option α :=
  match exec i s with
  | .next u => g u
  | .fault _ => none
  | .refused _ => none

/-- Register r of lane 0 after an instruction. -/
def gives (i : Instr) (rs : List (Nat × Word)) (r : Nat) : Option Word :=
  after i (world (holds rs)) fun u => (aget u.teams 0).map (·.reg r 0)

/-- Cause and subcode, the word and the first information word, of the trap that an instruction raises. -/
def trapped (i : Instr) (s : State) : Option (Nat × Word) :=
  after i s fun u => (u.events.find? (·.kind == 1)).map fun e => (e.kind, e.code)

/-! Worked values: of the spec's own examples, and by hand from its rules. -/

/-- R121. -/
theorem test_adds : gives (.adds .i32 3 1 2) [(1, 0x7FFFFFF0#32), (2, 0x20#32)] 3 = some 0x7FFFFFFF#32 := by decide +kernel

/-- R121. -/
theorem test_subs : gives (.subs .n32 3 1 2) [(1, 3#32), (2, 5#32)] 3 = some 0#32 := by decide +kernel

/-- R121: the sum wraps. -/
theorem test_add : gives (.add 1 1 2) [(1, 0xFFFFFFFF#32), (2, 2#32)] 1 = some 1#32 := by decide +kernel

/-- R121: a − b, not b − a. -/
theorem test_sub : gives (.sub 3 1 2) [(1, 3#32), (2, 5#32)] 3 = some 0xFFFFFFFE#32 := by decide +kernel

/-- R122: the carry in is bit 0 of the destination. -/
theorem test_addc : gives (.addc 3 1 2) [(1, 0xFFFFFFFF#32), (2, 0#32), (3, 3#32)] 3 = some 1#32 := by decide +kernel

/-- R122. -/
theorem test_subc : gives (.subc 3 1 2) [(1, 5#32), (2, 5#32), (3, 1#32)] 3 = some 1#32 := by decide +kernel

/-- R123. -/
theorem test_mul : gives (.mul 3 1 2) [(1, 0xFFFFFFFE#32), (2, 3#32)] 3 = some 0xFFFFFFFA#32 := by decide +kernel

/-- R123. -/
theorem test_mulh_i32 : gives (.mulhI32 3 1 2) [(1, 0xFFFFFFFE#32), (2, 3#32)] 3 = some 0xFFFFFFFF#32 := by decide +kernel

/-- R123. -/
theorem test_mulh_n32 : gives (.mulhN32 3 1 2) [(1, 0xFFFFFFFE#32), (2, 3#32)] 3 = some 2#32 := by decide +kernel

/-- R123. -/
theorem test_mulw_i32_low : gives (.mulwI32 4 1 2) [(1, 0xFFFFFFFE#32), (2, 3#32)] 4 = some 0xFFFFFFFA#32 := by decide +kernel

/-- R123. -/
theorem test_mulw_n32_high : gives (.mulwN32 4 1 2) [(1, 0xFFFFFFFE#32), (2, 3#32)] 5 = some 2#32 := by decide +kernel

/-- R124. -/
theorem test_mad : gives (.mad 3 1 2) [(1, 3#32), (2, 5#32), (3, 0xFFFFFFFF#32)] 3 = some 14#32 := by decide +kernel

/-- R124. -/
theorem test_madh_i32 : gives (.madhI32 3 1 2) [(1, 0xFFFFFFFE#32), (2, 3#32), (3, 1#32)] 3 = some 0#32 := by decide +kernel

/-- R124. -/
theorem test_madh_n32 : gives (.madhN32 3 1 2) [(1, 0xFFFFFFFE#32), (2, 3#32), (3, 1#32)] 3 = some 3#32 := by decide +kernel

/-- R125: 100 by 7, the first four steps bring in four zero bits. -/
theorem test_divstep_n32 : gives (.divstepN32 4 1) [(1, 7#32), (4, 100#32), (5, 0#32)] 4 = some 1600#32 := by decide +kernel

/-- R126: −100 by 7. -/
theorem test_divstep_i32_quotient : gives (.divstepI32 4 1 2) [(1, 7#32), (2, 0xFFFFFF9C#32), (4, 14#32), (5, 2#32)] 4 = some 0xFFFFFFF2#32 := by decide +kernel

/-- R126: −100 by 7. -/
theorem test_divstep_i32_remainder : gives (.divstepI32 4 1 2) [(1, 7#32), (2, 0xFFFFFF9C#32), (4, 14#32), (5, 2#32)] 5 = some 0xFFFFFFFE#32 := by decide +kernel

/-- R127. -/
theorem test_and : gives (.and 3 1 2) [(1, 0xC#32), (2, 0xA#32)] 3 = some 0x8#32 := by decide +kernel

/-- R127. -/
theorem test_or : gives (.or 3 1 2) [(1, 0xC#32), (2, 0xA#32)] 3 = some 0xE#32 := by decide +kernel

/-- R127. -/
theorem test_xor : gives (.xor 3 1 2) [(1, 0xC#32), (2, 0xA#32)] 3 = some 0x6#32 := by decide +kernel

/-- R127. -/
theorem test_andn : gives (.andn 3 1 2) [(1, 0xC#32), (2, 0xA#32)] 3 = some 0x4#32 := by decide +kernel

/-- R127. -/
theorem test_orn : gives (.orn 3 1 2) [(1, 0xC#32), (2, 0xA#32)] 3 = some 0xFFFFFFFD#32 := by decide +kernel

/-- R127. -/
theorem test_xnor : gives (.xnor 3 1 2) [(1, 0xC#32), (2, 0xA#32)] 3 = some 0xFFFFFFF9#32 := by decide +kernel

/-- R127. -/
theorem test_not : gives (.not 3 1) [(1, 0xC#32)] 3 = some 0xFFFFFFF3#32 := by decide +kernel

/-- R128: an amount of 32 gives 0. -/
theorem test_shl : gives (.shl 3 1 2) [(1, 1#32), (2, 32#32)] 3 = some 0#32 := by decide +kernel

/-- R128. -/
theorem test_shr_n32 : gives (.shrN32 3 1 2) [(1, 0x80000000#32), (2, 31#32)] 3 = some 1#32 := by decide +kernel

/-- R128: the amount is a natural. -/
theorem test_shr_i32 : gives (.shrI32 3 1 2) [(1, 0x80000000#32), (2, 0xFFFFFFFF#32)] 3 = some 0xFFFFFFFF#32 := by decide +kernel

/-- R128. -/
theorem test_rotl : gives (.rotl 3 1 2) [(1, 0x80000001#32), (2, 33#32)] 3 = some 3#32 := by decide +kernel

/-- R128. -/
theorem test_rotr : gives (.rotr 3 1 2) [(1, 0x80000001#32), (2, 1#32)] 3 = some 0xC0000000#32 := by decide +kernel

/-- R129. -/
theorem test_min_i32 : gives (.minI32 3 1 2) [(1, 0xFFFFFFFF#32), (2, 1#32)] 3 = some 0xFFFFFFFF#32 := by decide +kernel

/-- R129. -/
theorem test_max_i32 : gives (.maxI32 3 1 2) [(1, 0xFFFFFFFF#32), (2, 1#32)] 3 = some 1#32 := by decide +kernel

/-- R129. -/
theorem test_min_n32 : gives (.minN32 3 1 2) [(1, 0xFFFFFFFF#32), (2, 1#32)] 3 = some 1#32 := by decide +kernel

/-- R129. -/
theorem test_max_n32 : gives (.maxN32 3 1 2) [(1, 0xFFFFFFFF#32), (2, 1#32)] 3 = some 0xFFFFFFFF#32 := by decide +kernel

/-- R129. -/
theorem test_abs : gives (.absI32 3 1) [(1, 0x80000000#32)] 3 = some 0x80000000#32 := by decide +kernel

/-- R130. -/
theorem test_setc_lt : gives (.setc .ltI 3 1 2) [(1, 0x80000000#32), (2, 1#32)] 3 = some 1#32 := by decide +kernel

/-- R131. -/
theorem test_sel : gives (.sel 3 1 2) [(1, 7#32), (2, 8#32), (3, 2#32)] 3 = some 7#32 := by decide +kernel

/-- R132. -/
theorem test_popc : gives (.popc 3 1) [(1, 0xF00F#32)] 3 = some 8#32 := by decide +kernel

/-- R132. -/
theorem test_clz : gives (.clz 3 1) [(1, 1#32)] 3 = some 31#32 := by decide +kernel

/-- R132. -/
theorem test_ctz : gives (.ctz 3 1) [(1, 0#32)] 3 = some 32#32 := by decide +kernel

/-- R132. -/
theorem test_brev : gives (.brev 3 1) [(1, 1#32)] 3 = some 0x80000000#32 := by decide +kernel

/-- R132. -/
theorem test_bfx_n32 : gives (.bfxN32 3 1 2) [(1, 0xF00#32), (2, 0x408#32)] 3 = some 0xF#32 := by decide +kernel

/-- R132. -/
theorem test_bfx_i32 : gives (.bfxI32 3 1 2) [(1, 0xF00#32), (2, 0x408#32)] 3 = some 0xFFFFFFFF#32 := by decide +kernel

/-- R132: bits of a that would land above bit 31 are dropped. -/
theorem test_bfi : gives (.bfi 3 1 2) [(1, 0xFF#32), (2, 0x81C#32), (3, 0#32)] 3 = some 0xF0000000#32 := by decide +kernel

/-- R133. -/
theorem test_prm : gives (.prm 3 1 2) [(1, 0xAABBCCDD#32), (3, 0x123#32)] 3 = some 0xDDCCBBAA#32 := by decide +kernel

/-- R134. -/
theorem test_lea : gives (.lea 3 3 1 2) [(1, 1#32), (2, 0x20000001#32)] 3 = some 9#32 := by decide +kernel

/-- R48, R56: field 127 reads the next literal. -/
theorem test_mov_literal : gives (.mov 3 127) [(3, 5#32)] 3 = some 0#32 := by decide +kernel

/-- R135. -/
theorem test_movi : gives (.movi 4 (-5)) [] 4 = some 0xFFFFFFFB#32 := by decide +kernel

/-- R135. -/
theorem test_movhi : gives (.movhi 4 1) [(4, 0xFFFFFFFF#32)] 4 = some 0x7FFFF#32 := by decide +kernel

/-- R136: a source beyond S reads 0. -/
theorem test_shfl_bcast : gives (.shfl .bcast 3 1 2) [(1, 9#32), (2, 1#32), (3, 4#32)] 3 = some 0#32 := by decide +kernel

/-- R137. -/
theorem test_vote_any : gives (.vote .any 3 1) [(1, 9#32)] 3 = some 1#32 := by decide +kernel

/-- R138. -/
theorem test_red : gives (.red .addI32 3 1) [(1, 9#32)] 3 = some 9#32 := by decide +kernel

/-- R138: 0 for the first. -/
theorem test_scan_excl : gives (.scan .addExcl 3 1) [(1, 9#32), (3, 4#32)] 3 = some 0#32 := by decide +kernel

/-- R67. -/
theorem test_fadd_infinities : gives (.fadd 3 1 2) [(1, 0x7F800000#32), (2, 0xFF800000#32)] 3 = some 0x7FC00003#32 := by decide +kernel

/-- 1 − 2 (R142). -/
theorem test_fsub : gives (.fsub 3 1 2) [(1, 0x3F800000#32), (2, 0x40000000#32)] 3 = some 0xBF800000#32 := by decide +kernel

/-- 1.5 × 2. -/
theorem test_fmul : gives (.fmul 3 1 2) [(1, 0x3FC00000#32), (2, 0x40000000#32)] 3 = some 0x40400000#32 := by decide +kernel

/-- R144: c is a NaN input. -/
theorem test_ffma_nan : gives (.ffma 3 1 2) [(1, 0#32), (2, 0x7F800000#32), (3, 0x7FA00000#32)] 3 = some 0x7FE00000#32 := by decide +kernel

/-- 1 × 2 − 3: d = a × b − c. -/
theorem test_ffms : gives (.ffms 3 1 2) [(1, 0x3F800000#32), (2, 0x40000000#32), (3, 0x40400000#32)] 3 = some 0xBF800000#32 := by decide +kernel

/-- R145. -/
theorem test_fmin_nan : gives (.fmin 3 1 2) [(1, 0x7FC00000#32), (2, 0x3F800000#32)] 3 = some 0x3F800000#32 := by decide +kernel

/-- R145. -/
theorem test_fminm_nan : gives (.fminm 3 1 2) [(1, 0x3F800000#32), (2, 0x7FA00000#32)] 3 = some 0x7FE00000#32 := by decide +kernel

/-- R145: +0 is greater than −0. -/
theorem test_fmax_zeros : gives (.fmax 3 1 2) [(1, 0x80000000#32), (2, 0#32)] 3 = some 0#32 := by decide +kernel

/-- R146. -/
theorem test_fabs : gives (.fabs 3 1) [(1, 0xFF800001#32)] 3 = some 0x7F800001#32 := by decide +kernel

/-- R146. -/
theorem test_fneg : gives (.fneg 3 1) [(1, 0x7F800001#32)] 3 = some 0xFF800001#32 := by decide +kernel

/-- R147. -/
theorem test_fcmp_un : gives (.fcmp .un 3 1 2) [(1, 0x7FC00000#32), (2, 0#32)] 3 = some 1#32 := by decide +kernel

/-- 1 ÷ 2 is exact. -/
theorem test_frcp : gives (.frcp 3 1) [(1, 0x40000000#32)] 3 = some 0x3F000000#32 := by decide +kernel

/-- The root of 4. -/
theorem test_fsqrt : gives (.fsqrt 3 1) [(1, 0x40800000#32)] 3 = some 0x40000000#32 := by decide +kernel

/-- R150. -/
theorem test_hadd2 : gives (.hadd2F16 3 1 2) [(1, 0x3C004000#32), (2, 0x3C003C00#32)] 3 = some 0x40004200#32 := by decide +kernel

/-- R152, the table of worked values. -/
theorem test_cvt_e4m3_rne : gives (.cvtFromF32 .e4m3b0 3 1) [(1, 0x3E99999A#32)] 3 = some 0x2A#32 := by decide +kernel

/-- R152, the table of worked values. -/
theorem test_cvt_e4m3_large : gives (.cvtFromF32 .e4m3b1 3 1) [(1, 0x43FA0000#32)] 3 = some 0x7E00#32 := by decide +kernel

/-- R152, the table of worked values. -/
theorem test_cvt_e4m3_infinity : gives (.cvtFromF32 .e4m3b0 3 1) [(1, 0xFF800000#32)] 3 = some 0xFE#32 := by decide +kernel

/-- R152, the table of worked values. -/
theorem test_cvt_e5m2_infinity : gives (.cvtFromF32 .e5m2b0 3 1) [(1, 0xFF800000#32)] 3 = some 0xFC#32 := by decide +kernel

/-- R152, the table of worked values. -/
theorem test_cvt_i32 : gives (.cvtFromF32 .i32 3 1) [(1, 0xC0200000#32)] 3 = some 0xFFFFFFFE#32 := by decide +kernel

/-- R152, the table of worked values. -/
theorem test_cvt_n32 : gives (.cvtFromF32 .n32 3 1) [(1, 0xC0200000#32)] 3 = some 0#32 := by decide +kernel

/-- R58: E4M3 0x3C is 1.5. -/
theorem test_cvt_to_f32 : gives (.cvtToF32 .e4m3b1 3 1) [(1, 0x3C00#32)] 3 = some 0x3FC00000#32 := by decide +kernel

/-- R153: 1.7 gives 2, the other elements stay. -/
theorem test_qpack : gives (.qpack .i8 3 1 2) [(1, 0x3FD9999A#32), (2, 0x3F800000#32), (3, 0#32)] 3 = some 0x02000000#32 := by decide +kernel

/-- R153: 300. -/
theorem test_qpack_saturates : gives (.qpack .i8 3 1 2) [(1, 0x43960000#32), (2, 0x3F800000#32), (3, 0#32)] 3 = some 0x7F000000#32 := by decide +kernel

/-- R155: no group gives 0. -/
theorem test_fmtset_none : gives (.fmtset 3 1) [(1, 0x166#32), (3, 7#32)] 3 = some 0#32 := by decide +kernel

/-! Witnesses: every statement's hypotheses hold together in some state. -/

/-- The words' well-formed instructions pass their checks in the placed world, and the team can go on behind them. -/
def runnable (l : List (Word × Instr)) : Bool := (l.filter (·.2.wf)).all fun p => decide (Runs p.2 (world id) 0 (ready id))

theorem witness_runs_flow_1 : runnable flow1Words = true := by decide +kernel
theorem witness_runs_flow_2 : runnable flow2Words = true := by decide +kernel
theorem witness_runs_flow_3 : runnable flow3Words = true := by decide +kernel
theorem witness_runs_integer_1 : runnable integer1Words = true := by decide +kernel
theorem witness_runs_integer_2 : runnable integer2Words = true := by decide +kernel
theorem witness_runs_integer_3 : runnable integer3Words = true := by decide +kernel
theorem witness_runs_integer_4 : runnable integer4Words = true := by decide +kernel
theorem witness_runs_float_1 : runnable float1Words = true := by decide +kernel
theorem witness_runs_float_2 : runnable float2Words = true := by decide +kernel
theorem witness_runs_float_3 : runnable float3Words = true := by decide +kernel
theorem witness_runs_float_4 : runnable float4Words = true := by decide +kernel
theorem witness_runs_local_memory_1 : runnable localMemory1Words = true := by decide +kernel
theorem witness_runs_local_memory_2 : runnable localMemory2Words = true := by decide +kernel
theorem witness_runs_local_memory_3 : runnable localMemory3Words = true := by decide +kernel
theorem witness_runs_copy : runnable copyWords = true := by decide +kernel
theorem witness_runs_matrix : runnable matrixWords = true := by decide +kernel
theorem witness_runs_stream : runnable streamWords = true := by decide +kernel
theorem witness_runs_wave : runnable waveWords = true := by decide +kernel
theorem witness_runs_walk : runnable walkWords = true := by decide +kernel
theorem witness_runs_fabric : runnable fabricWords = true := by decide +kernel
theorem witness_runs_system : runnable systemWords = true := by decide +kernel
theorem witness_runs_numbers : [Instr.stgpost 8 0, .stgtake 4 0, .sisect 4 1 2, .sunion 4 1 2, .scrd 4 1, .spos 4 1, .tret 2].all
    (fun i => decide (Runs i (world id) 0 (ready id))) = true := by decide +kernel

/-- The placed world and its team. -/
def wd : State := world id

/-- The placed team. -/
def tm : Team := ready id

/-- The world with a change made to the launch record. -/
def recorded (f : Record → Record) : State := { wd with launches := wd.launches.map fun p => (p.1, { p.2 with hdr := f p.2.hdr }) }

/-- The world whose ring slot is full. -/
def ringFull : State := wd.putPlace (clusterKey 0 0) { core := 0, pos := 0, rings := [{ slots := [{ full := true, payload := 7#32 }] }] }

/-- The team before its clause has started. -/
def unstarted (x : Team) : Team := { x with started := false, words := [] }

theorem witness_branch_taken : taken tm.ctx.cc .ne ∧ takenMask tm .ma ∧ Issues (.bMask .ma 0) wd 0 tm ∧ Fetches wd tm (headerAt tm 0) := by
  refine ⟨rfl, ?_, by decide +kernel, by unfold Fetches; decide +kernel⟩
  intro l hl _
  have : l = 0 := by have : tm.lanes = 1 := rfl; omega
  subst this; decide +kernel
theorem witness_branch_refused : Issues (.bMask .ma 6) wd 0 tm ∧ wd.clauseFault tm.launch (headerAt tm 6) = none ∧
    isHeader (wd.codeWord tm.launch (headerAt tm 6)) = false := by decide +kernel
theorem witness_branch_not_taken : Runs (.bCond .eq 5) wd 0 tm ∧ ¬ taken tm.ctx.cc .eq := ⟨by decide +kernel, by unfold taken; decide⟩
theorem witness_transfer_target : Reaches wd tm (tm.rd 0 8 0 0) ∧ Fetches wd tm ((tm.rd 0 8 0 0).setWidth 52) :=
  ⟨⟨by decide +kernel, _, rfl, by decide +kernel⟩, by unfold Fetches; decide +kernel⟩
theorem witness_bad_target : let x := ready (holds [(8, 24#32)])
    let s := world (holds [(8, 24#32)])
    s.focus = some 0 ∧ aget s.teams 0 = some x ∧ x.pending (.ret 8) = false ∧ x.decodeCheck (.ret 8) = none ∧ offTarget s x (.ret 8) :=
  ⟨by decide +kernel, by decide +kernel, by decide +kernel, by decide +kernel, 8, .inl rfl, .inr (by decide +kernel)⟩
theorem witness_call_target : Issues (.call 6) wd 0 tm ∧ wd.clauseFault tm.launch (headerAt tm 6) = none ∧
    isHeader (wd.codeWord tm.launch (headerAt tm 6)) = false := by decide +kernel
theorem witness_unaligned_target : ¬ Reaches wd tm 2#32 ∧ ¬ Reaches wd tm 4096#32 :=
  ⟨fun h => absurd h.1 (by decide), fun ⟨_, r, h, q⟩ => by
    have e : wd.record? tm.launch = some placeRecord := by decide +kernel
    rw [e] at h; cases h; exact absurd q (by decide)⟩
theorem witness_ring_empty : Runs (.stgpost 8 0) wd 0 tm ∧ ∃ p r sl, wd.place? tm.cluster tm.core = some p ∧ p.rings[0]? = some r ∧
    r.slots[r.post]? = some sl ∧ sl.full = false := ⟨by decide +kernel, _, _, _, rfl, rfl, rfl, rfl⟩
theorem witness_ring_full : Runs (.stgtake 4 0) ringFull 0 tm ∧ ∃ p r sl, ringFull.place? tm.cluster tm.core = some p ∧
    p.rings[0]? = some r ∧ r.slots[r.take]? = some sl ∧ sl.full = true := ⟨by decide +kernel, _, _, _, rfl, rfl, rfl, rfl⟩
theorem witness_deterministic : Runs (.cycles false 4) (recorded fun r => { r with flags := 1#32 }) 0 tm ∧
    (recorded fun r => { r with flags := 1#32 }).deterministic tm.launch = true ∧ wd.deterministic tm.launch = false := by decide +kernel
theorem witness_winbase_above : wd.focus = some 0 ∧ aget wd.teams 0 = some tm ∧ tm.lits ≤ tm.litN ∧ tm.regsN ≤ 16 * (7#4).toNat := by
  decide +kernel
theorem witness_halt : tm.ops = [] ∧ tm.sentTo = [] ∧ tm.redDrop = none ∧ tm.msgDrop = none ∧ wd.duskStalls tm.core 0 = false ∧
    Issues .halt wd 0 tm := by decide +kernel
theorem witness_team_end : aget (world fun x => { x with park := some .halt }).teams 0 = some (ready fun x => { x with park := some .halt }) ∧
    0 ∈ ((world fun x => { x with park := some .halt }).core 0).age := by decide +kernel
theorem witness_clause_start : let x := ready unstarted
    (world unstarted).focus = some 0 ∧ aget (world unstarted).teams 0 = some x ∧ x.started = false ∧
    (12#4).toNat < 13 ∧ (∀ o ∈ x.ops, ¬ (5#12).getLsbD (o.flag - 1)) ∧ x.planes = [] ∧
    (world unstarted).clauseFault x.launch x.clause = none := by decide +kernel

theorem witness_step : wd.script = .core 0 :: [] ∧ ∃ s', ({ wd with script := [] } : State).pick exec 0 = .team 0 s' ∧ aget s'.teams 0 = some tm ∧
    tm.started = true ∧ decodeInstr tm.word = .ok .nop := ⟨by decide +kernel, _, rfl, by decide +kernel⟩
theorem witness_step_header : ∃ s', ({ world unstarted with script := [] } : State).pick exec 0 = .team 0 s' ∧
    aget s'.teams 0 = some (ready unstarted) ∧ s'.clauseFault (ready unstarted).launch (ready unstarted).clause = none ∧
    decodeHeader (s'.codeWord (ready unstarted).launch (ready unstarted).clause) = .ok (.clauseStart 0 0 0 3 3 false) :=
  ⟨_, rfl, by decide +kernel⟩
theorem witness_script : ∀ i r, wd.script ≠ .event i :: r := fun i r h => by
  have e : wd.script = [.core 0] := by decide +kernel
  rw [e] at h; cases h
theorem witness_memory : Memory.wf wd.mem = true ∧ ∃ u, step wd = .next u := ⟨by decide +kernel, _, rfl⟩

/-! The checks in front. -/

theorem witness_illegal : encode (.add 120 1 2) = some 0x201E0082#32 ∧ forbidden 0x201E0082#32 ∧ isHeader 0x201E0082#32 = false :=
  ⟨by decide +kernel, .inl ⟨.inl (by decide), by unfold notDest; decide⟩, by decide +kernel⟩
theorem witness_empty_latch : encode (.mov 4 120) = some 0x38013C00#32 ∧ ¬ forbidden 0x38013C00#32 ∧ ¬ lacksRing wd tm (.mov 4 120) ∧
    ¬ spansTooFar tm (.mov 4 120) ∧ readsEmptyLatch tm (.mov 4 120) := by
  refine ⟨by decide +kernel, ?_, ?_, ?_, by unfold readsEmptyLatch; decide +kernel⟩
  · rintro (⟨_, h⟩ | h)
    · revert h; unfold notDest; decide
    · exact h
  · rintro ⟨_, _, h | h, _⟩ <;> cases h
  · rintro ⟨_, _, _, _, _, _, h, _⟩; cases h
/-- CALLR whose destination lies beyond the window and whose target is the offset of no header: the target decides (R51). -/
theorem witness_off_target : let x := ready fun x => { holds [(8, 24#32)] x with regsN := 48 }
    offTarget wd x (.callr 50 8) ∧ beyondWindow x (.callr 50 8) :=
  ⟨⟨8, .inr (.inr (.inl ⟨50, rfl⟩)), .inr (by decide +kernel)⟩, .inl ⟨⟨50, false, true, 1, true⟩, by decide +kernel, by decide +kernel⟩⟩
theorem witness_no_literal : ¬ readsEmptyLatch tm (.mov 4 127) ∧ lacksLiterals (ready fun x => { x with lits := 3 }) (.mov 4 127) := by
  unfold readsEmptyLatch lacksLiterals; decide +kernel
theorem witness_misplaced : misplaced (ready fun x => { x with words := [0#32, 0#32, 0#32, 0#32, 0#32] }) (.call 0) := by
  unfold misplaced; decide +kernel
theorem witness_beyond : beyondWindow tm (.winbase 7) ∧ beyondWindow (ready fun x => { x with regsN := 48 }) (.mulwI32 46 47 48) :=
  ⟨Or.inr ⟨7, rfl, by decide +kernel⟩, Or.inl ⟨⟨48, true, false, 1, true⟩, by decide +kernel, by decide +kernel⟩⟩

/-- The world whose launch has a role table. -/
def withRole (r : Nat) : Team → Team := fun x => { x with role := r }

theorem witness_role : (world (withRole 2)).focus = some 0 ∧ aget (world (withRole 2)).teams 0 = some (ready (withRole 2)) ∧
    (ready (withRole 2)).decodeCheck (.cstage 4 8) = none ∧ (ready (withRole 2)).role ≠ 0 ∧
    classOf ((encode (.cstage 4 8)).getD 0) = 1 := by decide +kernel
theorem witness_register_error : tm.decodeCheck (.mov 4 8) = none ∧ classOf ((encode (.mov 4 8)).getD 0) = 0 ∧
    (({ wd with errors := [.reg 0 8 0] } : State).regError 0 tm (.mov 4 8)).isSome = true := by decide +kernel
theorem witness_pending : (ready fun x => { x with pendRegs := [⟨8, .array 0⟩] }).pending (.mov 4 8) = true := by decide +kernel

/-! Taking a trap. -/

/-- A team whose handler stands at the next header. -/
def handled (x : Team) : Team := { x with trap := { x.trap with vec := 20#32 } }

theorem witness_handler : aget (world handled).teams 0 = some (ready handled) ∧ (ready handled).trap.vec ≠ 0#32 ∧
    (ready handled).trap.inTrap = false ∧ Fetches (world handled) (ready handled) ((ready handled).trap.vec.setWidth 52) := by
  unfold Fetches; decide +kernel
theorem witness_no_handler : aget wd.teams 0 = some tm ∧ (∃ l, aget wd.launches tm.launch = some l) ∧ tm.trap.vec = 0#32 :=
  ⟨by decide +kernel, ⟨_, rfl⟩, rfl⟩
theorem witness_handler_at_no_header : let x := ready fun x => { x with trap := { x.trap with vec := 24#32 } }
    wd.clauseFault x.launch (x.trap.vec.setWidth 52) = none ∧ isHeader (wd.codeWord x.launch (x.trap.vec.setWidth 52)) = false := by
  decide +kernel

/-! Local memory. -/

/-- The last word of shared memory. -/
def lastWord : Team → Team := holds [(8, 4092#32), (4, 0x12345678#32)]

theorem witness_shared_load : let x := ready lastWord
    let s := world lastWord
    let ea := address x 0 8 0 4
    Runs (.ldSh .n32 4 8 0) s 0 x ∧ Prompt s x ∧ Fits x 4 (spaceSize s x 0) ea ∧ LoadClear s x (.sh x.cluster x.core) 4 ea ∧
    ∀ l ∈ x.active, s.shBad x.cluster x.core (ea l) 4 = false := by
  unfold Prompt Fits LoadClear; decide +kernel
theorem witness_shared_store : let x := ready lastWord
    let s := world lastWord
    let ea := address x (litCount [4]) 8 0 4
    Runs (.stSh .w32 4 8 0) s 0 x ∧ (s.place? x.cluster x.core).isSome = true ∧ Fits x 4 (spaceSize s x 0) ea ∧
    StoreClear s x (.sh x.cluster x.core) 4 ea := by
  unfold Fits StoreClear; decide +kernel

/-- The last bytes of the scratchpad. -/
def lastQuad : Team → Team := holds [(8, 100663280#32), (12, 0x12345678#32)]

theorem witness_scratchpad_load : let x := ready lastQuad
    let s := world lastQuad
    let ea := address x 0 8 0 16
    Runs (.ldSp .w128 4 8 0) s 0 x ∧ Prompt s x ∧ Fits x 16 (spaceSize s x 1) ea ∧ LoadClear s x (.sp 0) 16 ea ∧
    (∀ b ∈ accessed x 16 ea, s.contended x.core b = false) ∧ ∀ l ∈ x.active, s.spBad 0 (ea l) 16 = false := by
  unfold Prompt Fits LoadClear; decide +kernel
theorem witness_scratchpad_store : let x := ready lastQuad
    let s := world lastQuad
    let ea := address x (litCount [12]) 8 0 16
    Runs (.stSp .w128 12 8 0) s 0 x ∧ Fits x 16 (spaceSize s x 1) ea ∧ StoreClear s x (.sp 0) 16 ea ∧
    (s.core x.core).linesWith (accessed x 16 ea) ≤ 4096 := by
  unfold Fits StoreClear; decide +kernel

/-- The world whose core holds the first line of the team's stack window. -/
def stacked : State :=
  let s := world lastWord
  let e : TlbEntry := { root := 0#48, page := 0, frame := 0, r := true, w := true, x := false, c := false, key := 1 }
  { s with tlb := e :: s.tlb }.putCore 0 { s.core 0 with stack := [⟨0, 31, 31, 0#512, [], false⟩] }

theorem witness_stack_load : let x := ready lastWord
    let ea := address x 0 8 0 4
    Issues (.ldSt .n32 4 8 0) stacked 0 x ∧ StackClear stacked 0 x .read 4 ea ∧
    (stackCached (stacked.putTeam 0 (x.issued (.ldSt .n32 4 8 0))) x .read 4 ea).goesOn x ∧
    ∀ l ∈ x.active, stacked.stBad 0 (stackAddress stacked x (ea l)) = false := by
  unfold StackClear Placed Fits; decide +kernel
theorem witness_stack_store : let x := ready lastWord
    let ea := address x (litCount [4]) 8 0 4
    Issues (.stSt .w32 4 8 0) stacked 0 x ∧ StackClear stacked 0 x .write 4 ea ∧
    (stackCached (stacked.putTeam 0 (x.issued (.stSt .w32 4 8 0))) x .write 4 ea).goesOn x := by
  unfold StackClear Placed Fits; decide +kernel
theorem witness_misaligned : let x := ready (holds [(8, 2#32)])
    access x (.ldSh .n32 4 8 0) = some (0, 4, address x 0 8 0 4) ∧ Issues (.ldSh .n32 4 8 0) (world (holds [(8, 2#32)])) 0 x ∧
    (∀ l ∈ x.active, address x 0 8 0 4 l % 4 ≠ 0) := ⟨rfl, by decide +kernel, by decide +kernel⟩
theorem witness_out_of_space : let x := ready (holds [(8, 4096#32)])
    (∀ l ∈ x.active, address x 0 8 0 4 l % 4 = 0 ∧ spaceSize wd x 0 < address x 0 8 0 4 l + 4) := by decide +kernel
theorem witness_no_stack : let x := ready fun x => { x with tm := 64 }
    Issues (.ldSt .n32 4 8 0) (world fun x => { x with tm := 64 }) 0 x ∧ 64 ≤ x.tm := by decide +kernel
theorem witness_shared_atomic : let x := ready lastWord
    let s := world lastWord
    let ea := address x 0 8 0 4
    Runs (.atomSh .cas 4 8 0) s 0 x ∧ (s.place? x.cluster x.core).isSome = true ∧ Fits x 4 (spaceSize s x 0) ea ∧
    StoreClear s x (.sh x.cluster x.core) 4 ea ∧ ∀ l ∈ x.active, s.shBad x.cluster x.core (ea l) 4 = false := by
  unfold Fits StoreClear; decide +kernel
theorem witness_locks_free : let x := ready lastWord
    let s := world lastWord
    let ea := address x 0 8 0 4
    Runs (.atomSp .addI32 4 8 0) s 0 x ∧ Runs (.ldlk 4 8 0) s 0 x ∧ x.active ≠ [] ∧ Fits x 4 (spaceSize s x 1) ea ∧
    StoreClear s x (.sp 0) 4 ea ∧ LoadClear s x (.sp 0) 4 ea ∧
    ∀ l ∈ x.active, s.lockFree 0 0 (lockOf (ea l)) = true ∧ s.spBad 0 (ea l) 4 = false := by
  unfold Fits StoreClear LoadClear; decide +kernel

/-- The world in which a team holds the lock of the last word. -/
def locked (t : Nat) : State := let s := world lastWord; s.putDie 0 { s.die 0 with locks := [(lockOf 4092, t)] }

theorem witness_lock_taken : ∀ l ∈ (ready lastWord).active, (locked 1).lockFree 0 0 (lockOf (address (ready lastWord) 0 8 0 4 l)) = false := by
  decide +kernel
theorem witness_lock_held : let x := ready lastWord
    let ea := address x (litCount [4]) 8 0 4
    Runs (.stul 4 8 0) (locked 0) 0 x ∧ Fits x 4 (spaceSize (locked 0) x 1) ea ∧ StoreClear (locked 0) x (.sp 0) 4 ea ∧
    ∀ l ∈ x.active, ((locked 0).die 0).holder (lockOf (ea l)) = some 0 ∧ ((locked 1).die 0).holder (lockOf (ea l)) ≠ some 0 := by
  unfold Fits StoreClear; decide +kernel

/-- A team with no lane active. -/
def masked (x : Team) : Team := { x with ctx := { x.ctx with mask := 0#1024 } }

theorem witness_no_lane : (ready masked).active = [] ∧ [Instr.ldlk 4 8 0, .cwait 8 16, .cread 4 8, .bref 8, .bfree 8, .barrive 4 8,
    .bexpect 8 16, .bwait 4 8 16, .balloc 4 8 16, .cstage 4 8, .mmq 0 16 8, .mxzero 0 3,
    .mxread 4 0 8, .sopen 0 8 16, .partn 4 8 16, .gbind 4 8, .gunbind 8, .prop 4 8, .waveq 4 8, .embed 4 8, .descend 4 8, .sideapp 4 8 16, .sidepub 8,
    .scatred .addI32 8 16, .amsend 8 16, .saread 4 8, .satest 8, .spawn 8 16, .event 8 16, .tlbinv 8 16, .syswr 8 19].all (fun i => decide (Runs i (world masked) 0 (ready masked))) = true := by decide +kernel
theorem witness_dusk : Runs (.dusk .sys) wd 0 tm ∧ wd.duskStalls tm.core 0 = false ∧ tm.sentTo = [] ∧ tm.redDrop = none ∧
    tm.msgDrop = none ∧ Runs (.dawn .pkg) wd 0 tm := by decide +kernel

/-! Copies, counters, barriers. -/

/-- A record of n bytes with some fields: offset, bytes, value. -/
def recordOf (n : Nat) (fs : List (Nat × Nat × Nat)) : List Byte :=
  (List.range n).map fun k => (fs.findSome? fun f =>
    if f.1 ≤ k ∧ k < f.1 + f.2.1 then some (BitVec.ofNat 8 (f.2.2 / 256 ^ (k - f.1))) else none).getD 0#8

/-- The nonzero bytes of fields at an address: offset, bytes, value; offsets rising. -/
def cellsOf (a : Nat) (fs : List (Nat × Nat × Nat)) : List Host.Cell :=
  (fs.flatMap fun f => cellsAt (a + f.1) (leBytes f.2.1 f.2.2)).filter (·.2 != 0#8)

/-- Fields placed in main memory, where it holds zeros. -/
def inMain (s : State) (a : Nat) (fs : List (Nat × Nat × Nat)) : State := { s with mem := tsets zeros s.mem (cellsOf a fs) }

/-- The key of the placed cluster. -/
abbrev key : Nat := clusterKey 0 0

/-- Fields placed in the shared memory of the cluster's only place. -/
def inShared (s : State) (fs : List (Nat × Nat × Nat)) : State :=
  s.putPlace key { core := 0, pos := 0, rings := [{ slots := [{}] }], sh := cellsOf 0 fs }

/-- A schedule entry: two elements of four bytes from main memory to the start of the shared bytes, counted in the scratchpad. -/
def entryFields : List (Nat × Nat × Nat) :=
  [(0, 4, 8), (8, 8, 0x10900), (16, 8, 0x1000000000000000), (48, 4, 2), (68, 4, 4), (88, 4, 4)]

/-- The entry, parsed. -/
def entry : CopyEntry := parseEntry (recordOf 160 entryFields)

/-- The world with a schedule of two such entries; a register asks for two. -/
def staged : State :=
  inMain { world (holds [(8, 2#32)]) with launches := (recorded fun r => { r with sched := 0x10800#64, schedN := 2 }).launches } 0x10800
    (entryFields ++ entryFields.map fun f => (160 + f.1, f.2))

/-- What an entry of the schedule gives. -/
def stagedEntries : Except StageStop (List Copy) := match staged.record? 0, staged.place? key 0 with
  | some r, some p => (List.range 2).mapM (staged.stageEntry ((ready (holds [(8, 2#32)])).issued (.cstage 4 8)) p r 0)
  | _, _ => .ok []

theorem witness_release : let x := ready (holds [(8, 2#32)])
    staging x (.cstage 4 8) = some (4, 2, 0) ∧ Runs (.cstage 4 8) staged 0 x ∧ x.todo.begun = false ∧ x.active ≠ [] ∧
    (staged.record? x.launch).map (·.schedN) = some 2 ∧ (staged.place? x.cluster x.core).isSome = true := by decide +kernel
theorem witness_release_entries : stagedEntries.toOption.map (·.length) = some 2 ∧ staged.duskStalls 0 0 = false := by decide +kernel
theorem witness_release_count : staging tm (.cstage 4 8) = some (4, 0, 0) ∧ tm.active ≠ [] := by decide +kernel
theorem witness_counter : counterAt wd tm 0x40000FF8#32 = some (.sh key 0 0xFF8) ∧ counterAt wd tm 0x40001000#32 = none ∧
    counterAt wd tm 0x80000000#32 = none ∧ Runs (.cwait 8 16) wd 0 tm ∧ Runs (.cread 4 8) wd 0 tm ∧ tm.active ≠ [] := by decide +kernel

/-- A copy of the entry in slot 0. -/
def copying : Copy :=
  { handle := 0#32, launch := 0, cluster := key, kind := .copy entry, dst := ⟨.sh key 0, 0⟩, len := 8, total := 2, phase := .landing,
    counter := .sp 0 8, incr := 0#32, range := 5 }

/-- Its range. -/
def copyRange : Range := { unit := .core 0, owner := .copy 0 0, dest := .sh key 0, start := 0, len := 8 }

/-- The world with that copy. -/
def copied (c : Copy) (r : Range) : State := { wd with copies := [(0, c)], ranges := [(5, r)] }

theorem witness_copy_status : (wd.copy? 0 0#32) = none ∧ (copied copying copyRange).copy? 0 0#32 = some (0, copying) ∧
    (copied { copying with phase := .failed, err := 1 } copyRange).copy? tm.core (tm.rdFirst 0 8)
      = some (0, { copying with phase := .failed, err := 1 }) := by decide +kernel
theorem witness_landing : let s := copied copying copyRange
    aget s.ranges 5 = some copyRange ∧ aget s.copies 0 = some copying ∧ entry.combine = 0 ∧ copying.open = true ∧
    copying.next ≠ copying.total ∧ s.canLand 5 copyRange 0 = true ∧ ∃ bs v clip w, s.elementRead 0 copying entry = (.ok bs v, clip) ∧
      bs.length = entry.size ∧ v.engineCheck 0 none ⟨.sh key 0, 0 + entry.dstOff 0⟩ entry.size = .ok [] w :=
  ⟨by decide +kernel, by decide +kernel, by decide +kernel, by decide +kernel, by decide +kernel, by decide +kernel, _, _, _, _, rfl, rfl, rfl⟩
theorem witness_completion : let c := { copying with next := 2 }
    let s := copied c copyRange
    aget s.copies 0 = some c ∧ c.open = true ∧ (aget s.launches c.launch).map (·.phase) = some .running ∧ c.next = c.total ∧
    copyRange.acked = false := by decide +kernel
theorem witness_completion_failed : let c := { copying with err := 2 }
    aget (copied c copyRange).copies 0 = some c ∧ c.open = true ∧ c.err ≠ 0 := by decide +kernel
theorem witness_range_behind : let r := { copyRange with behind := [(6, 4)] }
    let s := copied { copying with phase := .held } r
    aget s.ranges 5 = some r ∧ r.behind ≠ [] ∧ ∀ b ∈ r.behind, aget s.ranges b.1 = none := by decide +kernel
theorem witness_range_leaves : let r := { copyRange with done := true }
    aget (copied copying r).ranges 5 = some r ∧ r.done = true ∧ r.failed = false ∧ ∀ d, r.dest ≠ .sp d := by
  refine ⟨by decide +kernel, rfl, rfl, fun d h => by cases h⟩
theorem witness_deadline : let e := { entry with useFb := true, deadline := 9#32 }
    let c := { copying with kind := .copy e }
    aget (copied c copyRange).copies 0 = some c ∧ e.useFb = true ∧ e.deadline ≠ 0#32 ∧ c.open = true ∧ c.useFb = false := by decide +kernel

/-- The world with barrier 0 allocated. -/
def barred (b : Barrier) : State := wd.putDie 0 { wd.die 0 with barriers := [(0, b)] }

/-- A barrier for two. -/
def bar2 : Barrier := { live := true, need := 2, refs := 1, timeout := 100#32 }

theorem witness_barrier : let x := ready fun x => { x with barRefs := [0#32] }
    tm.active ≠ [] ∧ barPeer 0#32 = 0 ∧ (barred bar2).barrier? 0#32 = some bar2 ∧ tm.rdFirst 0 8 = 0#32 ∧ tm.barRefs.length < 16 ∧
    0#32 ∈ x.barRefs ∧ Runs (.bfree 8) (world fun x => { x with barRefs := [0#32] }) 0 x ∧ (wd.place? tm.cluster tm.core).isSome = true := by
  decide +kernel
theorem witness_barrier_runs : (barred bar2).duskStalls 0 0 = false ∧ Runs (.bref 8) (barred bar2) 0 tm ∧ Runs (.barrive 4 8) (barred bar2) 0 tm ∧
    Runs (.bexpect 8 16) (barred bar2) 0 tm ∧ (barred bar2).handleOk tm.launch 0#32 = true ∧ Runs (.bwait 4 8 16) (barred bar2) 0 tm := by
  decide +kernel
theorem witness_no_barrier : wd.handleOk tm.launch (tm.rdFirst 0 8) = false ∧ onBarrier (.bref 8) 8 ∧ tm.rdFirst 0 8 ∉ tm.barRefs :=
  ⟨by decide +kernel, Or.inl rfl, by decide +kernel⟩
theorem witness_barrier_free : (∀ e, aget (wd.die 0).barriers 0 = some e → e.live = false) ∧ (barred bar2).barrier? 0#32 = some bar2 ∧
    aget ((barred bar2).die 0).barriers 0 = some bar2 ∧ bar2.timeout ≠ 0#32 ∧ bar2.absences = 0 ∧ bar2.err = none := by
  refine ⟨fun e h => ?_, by decide +kernel⟩
  have : aget (wd.die 0).barriers 0 = none := by decide +kernel
  rw [this] at h; cases h
theorem witness_barrier_references : let x := ready fun x => { x with barRefs := List.replicate 16 0#32 }
    16 ≤ x.barRefs.length ∧ Runs (.bref 8) (world fun x => { x with barRefs := List.replicate 16 0#32 }) 0 x := by decide +kernel

/-- The world whose queue has one peer, whose class is entry 0; registers name a barrier of it. -/
def peered : State :=
  let s := inMain (world (holds [(8, 0x00010000#32)])) 0x10D00 [(0, 4, 7)]
  { s with queues := s.queues.map fun q => (q.1, { q.2 with cfg := q.2.cfg.map fun c => { c with peers := 1, peerTable := 0x10D00#52 } }) }

/-- The team whose register names a barrier of a peer. -/
def peerTeam : Team := ready (holds [(8, 0x00010000#32)])

theorem witness_peer_barrier : peerTeam.active ≠ [] ∧ barPeer (peerTeam.rdFirst 0 8) ≠ 0 ∧ peered.handleOk peerTeam.launch (peerTeam.rdFirst 0 8) = true ∧
    Runs (.bref 8) peered 0 peerTeam ∧ Runs (.barrive 4 8) peered 0 peerTeam ∧ Runs (.bexpect 8 16) peered 0 peerTeam ∧
    Runs (.bfree 8) (peered.putTeam 0 { peerTeam with barRefs := [0x00010000#32] }) 0 { peerTeam with barRefs := [0x00010000#32] } ∧
    (peered.place? peerTeam.cluster peerTeam.core).isSome = true ∧ peered.duskStalls 0 0 = false := by decide +kernel

/-! Matrix. -/

/-- The words of an 8-bit integer step: descriptor 0, format word of two I8 operands. -/
def stepTeam : Team → Team := holds [(9, 0x55#32)]

/-- A step with bits 31:25 of its descriptor set. -/
def badStep : Team → Team := holds [(8, 0x02000000#32), (9, 0x55#32)]

theorem witness_not_owned : let s := wd.putCore 0 { wd.core 0 with owner := none }
    s.focus = some 0 ∧ aget s.teams 0 = some tm ∧ classRole (.mxzero 0 3) = 2 ∧ ¬ Owned s tm [tm.core] := by
  unfold Owned; decide +kernel

/-- The world whose cluster has a second core, of which its launch does not own the matrix state. -/
def wide : State := { wd with clusters := wd.clusters.map fun c => (c.1, { c.2 with width := 2 }) }

theorem witness_not_owned_elsewhere : Runs (.mmc 0 16 8) wide 0 tm ∧ tm.active ≠ [] ∧ ∃ c, aget wide.clusters tm.cluster = some c ∧
    ¬ Owned wide tm ((rectangle c).map (·.2)) := by
  unfold Owned; exact ⟨by decide +kernel, by decide +kernel, _, rfl, by decide +kernel⟩
theorem witness_matrix_step : let x := ready stepTeam
    step? (.mmq 0 16 8) = some (0, 16, 8, none) ∧ Runs (.mmq 0 16 8) (world stepTeam) 0 x ∧ Owned (world stepTeam) x [x.core] ∧ x.active ≠ [] ∧
    Agreed x 8 ∧ (∀ l ∈ x.active, spanOf (x.rd 0 8 1 l) = 16 ∧ (x.rd 0 8 0 l).toNat < 2 ^ 25 ∧ (0#7).toNat + l / 8 ≤ 15 ∧
      (x.rd 0 8 0 l).toNat / 2 ^ 16 % 2 ^ 8 ≤ stepLength false (x.rd 0 8 1 l)) ∧ (world stepTeam).ranges = [] := by
  unfold Owned Agreed; decide +kernel
theorem witness_no_landing : ∀ d a, wd.landingLoad d a = .clear := fun _ _ => by
  have e : wd.ranges = [] := by decide +kernel
  simp [State.landingLoad, State.rangesAt, e]
theorem witness_matrix_checks : let x := ready badStep
    Runs (.mmq 0 16 8) (world badStep) 0 x ∧ Owned (world badStep) x [x.core] ∧ x.active = [0] ∧ 0 = leadOf x 0 ∧
    Agreed x 8 ∧ 2 ^ 25 ≤ (x.rd 0 8 0 0).toNat ∧ spanOf (x.rd 0 8 1 0) = 16 ∧ fmtCheck ((ready (holds [(9, 0x66660#32)])).rd 0 8 1 0) ≠ 0 := by
  unfold Owned Agreed; decide +kernel
theorem witness_array : [Instr.mxzero 0 3, .mxrescale 15 8, .mxsum 4 15, .mxfence].all (fun i => decide (Runs i wd 0 tm)) = true ∧
    [Instr.mxwrite 15 16 8, .mxread 4 15 8].all (fun i => decide (Runs i (world stepTeam) 0 (ready stepTeam))) = true ∧
    Runs (.mxsmax 4 15 8) (world (holds [(9, 160#32)])) 0 (ready (holds [(9, 160#32)])) := by decide +kernel
theorem witness_array_operands : (wd.core 0).queue = [] ∧ (wd.core 0).owner = some tm.launch ∧
    (∀ l ∈ tm.active, (15#7).toNat + l / 8 ≤ 15) ∧ ((ready (holds [(9, 160#32)])).rd 0 8 1 0).toNat = 160 ∧ Agreed (ready stepTeam) 8 := by
  unfold Agreed; decide +kernel
theorem witness_sparse : let x := ready (holds [(8, 5#32), (20, 0x0FAC0688#32)])
    let s := world (holds [(8, 5#32), (20, 0x0FAC0688#32)])
    Runs (.spcmp 32 16 8) s 0 x ∧ (∀ l ∈ x.active, (x.rd 0 8 0 l).toNat % 16 = 5) ∧ (16#7).toNat + 2 ≤ 112 ∧ (32#7).toNat + 1 ≤ 111 ∧
    x.ctx.win + 16 + 2 ≤ x.regsN ∧ x.ctx.win + 32 + 1 < x.regsN ∧ Runs (.mdload 3 20) s 0 x ∧
    (∀ l ∈ x.active, wellFormedHalf ((x.rd 0 20 0 l).toNat % 2 ^ 16) ∧ wellFormedHalf ((x.rd 0 20 0 l).toNat / 2 ^ 16)) ∧
    Runs (.mdread 4 3) s 0 x := by
  unfold wellFormedHalf; decide +kernel

/-- A cluster tile of I8 rows of 64 bytes in shared memory: row block 15, stride 64, at the last bytes that hold it. -/
def tileTeam : Team → Team := holds [(16, 0x80000E00#32), (17, 64#32), (9, 0x55#32)]

theorem witness_tile : let x := ready tileTeam
    Runs (.mmc 15 16 8) (world tileTeam) 0 x ∧ (aget wd.clusters x.cluster).map rectangle = some [(0, 0)] ∧ (wd.core 0).owner = some x.launch ∧
    (∀ l ∈ x.active, x.rd 0 8 1 l = x.rdFirst 0 8 1) ∧ fmtCheck (x.rdFirst 0 8 1) = 0 ∧ spanOf (x.rdFirst 0 8 1) = 16 ∧
    (x.rdFirst 0 16).toNat / 2 ^ 27 % 16 = 0 ∧ (x.rdFirst 0 16).toNat % 2 ^ 27 + (1 * (8 * (16 - 15)) - 1) * 64 + 64 ≤ spaceSize wd x 0 ∧
    wd.errors = [] := by decide +kernel

/-- The world with one operation at the head of core 0's array queue. -/
def queued (k : ArrayKind) : State := wd.putCore 0 { wd.core 0 with queue := [⟨9, 0, 0#32, k, 0, [], []⟩] }

/-- A row of an integer step whose words are the team's. -/
def mmRow : MmRow := { row := 127, lane := 0, words := List.replicate 16 0#32, early := List.replicate 16 none, mdata := [] }

theorem witness_array_operation : ((queued (.zero 0 15)).core 0).queue = ⟨9, 0, 0#32, .zero 0 15, 0, [], []⟩ :: [] ∧ (.array 0) ∉ (queued (.zero 0 15)).errors ∧
    ([(127, 0)].map fun p : Nat × Nat => p.1).Nodup := by decide +kernel
theorem witness_pass : let k := ArrayKind.mm 0#32 0x55#32 16 false [mmRow] 0
    ((queued k).core 0).queue = ⟨9, 0, 0#32, k, 0, [], []⟩ :: [] ∧ ((queued k).core 0).arriving = [] ∧ (.array 0) ∉ (queued k).errors ∧
    fmtCheck 0x55#32 = 0 ∧ ([mmRow].map (·.row)).Nodup ∧ fmtCheck 0x1156#32 = 0 ∧ groupSize 0x1156#32 = 32 ∧ groupSize 0x55#32 = 0 ∧
    ¬ (5 ≤ 0x1156 % 16 ∧ 5 ≤ 0x1156 / 16 % 16 ∧ groupSize 0x1156#32 = 0) := by decide +kernel
theorem witness_softmax : ((queued (.smax [(127, 0)] 0x3F800000#32 160 4)).core 0).queue = ⟨9, 0, 0#32, .smax [(127, 0)] 0x3F800000#32 160 4, 0, [], []⟩ :: [] ∧
    aget (queued (.smax [(127, 0)] 0x3F800000#32 160 4)).teams 0 = some tm := by decide +kernel
/-- MXZERO of row block 15 at the head of the queue (R234), and MXRESCALE of row 127 by 2.0 (R238). -/
theorem test_zero : after (.arrayPass 0) ((queued (.zero 15 15)).putCore 0 { (queued (.zero 15 15)).core 0 with acc := [(160 * 127, 5#56)] })
    (fun u => some ((u.core 0).accAt 127 0, (u.core 0).queue.length)) = some (0#56, 0) := by decide +kernel

/-! Streams: the worked case of spec/10_streams.md, in one lane. -/

/-- The descriptors of the matrix and the vector, and their arrays, in shared memory. -/
def sparseFields : List (Nat × Nat × Nat) :=
    [(0, 4, 2), (32, 4, 0), (36, 4, 4), (40, 4, 1), (64, 4, 1), (68, 4, 6), (72, 4, 4), (80, 8, 0x1000000000000200), (88, 8, 0x1000000000000220),
     (256, 4, 1), (288, 4, 1), (292, 4, 6), (296, 4, 1), (304, 8, 0x1000000000000240), (312, 8, 0x1000000000000248),
     (516, 4, 2), (520, 4, 2), (524, 4, 6), (528, 4, 7), (544, 4, 1), (548, 4, 4), (552, 4, 0), (556, 4, 2), (560, 4, 3), (564, 4, 5), (568, 4, 4),
     (580, 4, 3), (584, 4, 2), (588, 4, 4), (592, 4, 5)]

/-- A team with two streams and the registers given. -/
def streaming (a b : Cursor) (rs : List (Nat × Word)) (x : Team) : Team :=
  { holds rs x with streams := tsets streamDefault [] [(0, a.word), (1024, b.word)] }

/-- The world in which it stands. -/
def sparse (f : Team → Team) : State := inShared (world f) sparseFields

/-- A row of the matrix at a position. -/
def row (q v : Nat) : Cursor := { done := false, level := 1, desc := 0, fin := 6, coord := v, pos := q }

/-- The vector at a position. -/
def vec (q v : Nat) : Cursor := { done := false, level := 0, desc := 1, fin := 3, coord := v, pos := q }

/-- The two streams of lane 0, and a register, after an instruction: position and coordinate of each, and whether it is done. -/
def streamsAfter (i : Instr) (s : State) (r : Nat) : Option ((Nat × Nat × Bool) × (Nat × Nat × Bool) × Word) :=
  after i s fun u => (aget u.teams 0).map fun x =>
    let v := fun n => let c := x.cursor n 0; (c.pos, c.coord, c.done)
    (v 0, v 1, x.reg r 0)

/-- SOPEN of row 2 (R256, worked case). -/
theorem test_sopen : (streamsAfter (.sopen 0 8 9) (sparse (streaming (row 0 0) (vec 0 2) [(8, 1#32), (9, 2#32)])) 8).map (·.1) = some (2, 0, false) := by
  decide +kernel
/-- SOPEN of the empty row 1 (worked case). -/
theorem test_sopen_empty : (streamsAfter (.sopen 0 8 9) (sparse (streaming (row 0 0) (vec 0 2) [(8, 1#32), (9, 1#32)])) 8).map (·.1) = some (2, 0xFFFFFFFF, true) := by
  decide +kernel
/-- The first SISECT of lane 2 (worked case). -/
theorem test_sisect_first : streamsAfter (.sisect 8 0 1) (sparse (streaming (row 2 0) (vec 0 2) [])) 8 = some ((3, 2, false), (0, 2, false), 1#32) := by
  decide +kernel
/-- The second SISECT of lane 2 (worked case). -/
theorem test_sisect_second : streamsAfter (.sisect 8 0 1) (sparse (streaming (row 3 2) (vec 0 2) [(8, 1#32)])) 8 = some ((5, 5, false), (2, 5, false), 1#32) := by
  decide +kernel
/-- The third SISECT ends both streams (worked case). -/
theorem test_sisect_third : streamsAfter (.sisect 8 0 1) (sparse (streaming (row 5 5) (vec 2 5) [(8, 1#32)])) 8
    = some ((6, 0xFFFFFFFF, true), (3, 0xFFFFFFFF, true), 0#32) := by
  decide +kernel
/-- PARTN with P = 3, k = 1 and 2 (worked case). -/
theorem test_partn : (streamsAfter (.partn 4 8 10) (sparse (holds [(8, 1#32), (10, 1#32), (11, 3#32)])) 4).map (·.2.2) = some 1#32 ∧
    (streamsAfter (.partn 4 8 10) (sparse (holds [(8, 1#32), (10, 2#32), (11, 3#32)])) 4).map (·.2.2) = some 3#32 := by decide +kernel
/-- SUNION (R261): s0 stands at the lesser coordinate. -/
theorem test_sunion : (streamsAfter (.sunion 8 0 1) (sparse (streaming (row 2 0) (vec 0 2) [])) 8).map (·.2.2) = some 1#32 := by decide +kernel
/-- SSKIP to 3 in row 2 (R258). -/
theorem test_sskip : (streamsAfter (.sskip 0 9) (sparse (streaming (row 2 0) (vec 0 2) [(9, 3#32)])) 8).map (·.1) = some (4, 3, false) := by decide +kernel

/-- What a step gives, from its value. -/
theorem ok_of {α : Type} {e : Steps α} {v : α} (h : e.toOption = some v) : e = .ok v := by
  cases e <;> simp_all [Except.toOption]

/-- The C levels of the matrix and of the vector. -/
def matrixLevel : Level := { kind := 1, morton := false, n := 6, parents := 4, pos := ⟨.sh key 0, 512⟩, crd := ⟨.sh key 0, 544⟩ }
def vectorLevel : Level := { kind := 1, morton := false, n := 6, parents := 1, pos := ⟨.sh key 0, 576⟩, crd := ⟨.sh key 0, 584⟩ }

theorem witness_opened : let f := streaming (row 0 0) (vec 0 2) [(8, 1#32), (9, 2#32)]
    Runs (.sopen 0 8 9) (sparse f) 0 (ready f) ∧ (ready f).active = [0] ∧
    Opened (place (.sopen 0 8 9) (sparse f) 0 (ready f) 0 0 ((ready f).rd 0 8 0 0).toNat) ((ready f).rd 0 9 0 0).toNat (row 2 0) :=
  ⟨by decide +kernel, by decide +kernel, matrixLevel, ok_of (by decide +kernel), by decide +kernel, 2, 6, ok_of (by decide +kernel), ok_of (by decide +kernel), by decide,
    fun h => absurd h (by decide), fun _ => ⟨0, ⟨ok_of (by decide +kernel), by decide⟩, rfl⟩⟩
theorem witness_parents : let f := streaming (row 0 0) (vec 0 2) [(8, 1#32), (9, 4#32)]
    (place (.sopen 0 8 9) (sparse f) 0 (ready f) 0 0 ((ready f).rd 0 8 0 0).toNat).level = .ok matrixLevel ∧
    matrixLevel.parents ≤ ((ready f).rd (litCount [8]) 9 0 0).toNat := ⟨ok_of (by decide +kernel), by decide +kernel⟩
theorem witness_stepped : let f := streaming (row 2 0) (vec 0 2) []
    Runs (.snext 0) (sparse f) 0 (ready f) ∧
    Stepped (place (.snext 0) (sparse f) 0 (ready f) 0 0 (row 2 0).ref) (row 2 0) (row 3 2) ∧ (ready f).cursor 0 0 = row 2 0 :=
  ⟨by decide +kernel, .inr ⟨rfl, matrixLevel, ok_of (by decide +kernel), fun h => absurd h (by decide), fun _ =>
    ⟨2, ⟨ok_of (by decide +kernel), by decide⟩, fun _ => by decide, fun h => (by cases h), rfl⟩⟩, by decide +kernel⟩

/-- Coordinates of row 2. -/
def rowCrd : Nat → Nat := fun q => [1, 4, 0, 2, 3, 5, 4].getD q 0

/-- A skip of row 2 from position 2 to the first coordinate at least 2, wherever the row's words read as the worked case has them. -/
theorem skipped_row {y : At} (hl : y.level = .ok matrixLevel) (h : ∀ q, 2 < q → q < 6 → Coordinate y matrixLevel.crd q 6 (rowCrd q)) :
    Skipped y 2 (row 2 0) (row 3 2) := by
  have low : ∀ q < 6, 2 ≤ q → ∀ p < q, 2 ≤ p → rowCrd p < rowCrd q := by decide
  refine .inr ⟨rfl, matrixLevel, hl, rfl, .inr ⟨by decide, rowCrd, rfl, h, fun p q hp hq h6 => low q h6 (by have : (row 2 0).pos = 2 := rfl; omega) p hq hp,
    .inr ⟨3, by decide, by decide, by decide, ?_, rfl⟩⟩⟩
  intro p h1 h2
  have : p = 2 := by have : (row 2 0).pos = 2 := rfl; omega
  subst this; decide

theorem row_words : let f := streaming (row 2 0) (vec 0 2) []
    ∀ i ∈ [Instr.sskip 0 9, .sisect 8 0 1], ∀ q < 6, 2 < q →
      Coordinate ((place i (sparse f) 0 (ready f) 0 0 0).on 0 (row 2 0)) matrixLevel.crd q 6 (rowCrd q) := by
  intro f i hi q h6 h2
  simp only [List.mem_cons, List.not_mem_nil, or_false] at hi
  have hq : q = 3 ∨ q = 4 ∨ q = 5 := by omega
  rcases hi with rfl | rfl <;> rcases hq with rfl | rfl | rfl <;> exact ⟨ok_of (by decide +kernel), by decide⟩
theorem witness_skipped : let f := streaming (row 2 0) (vec 0 2) [(9, 2#32)]
    Runs (.sskip 0 9) (sparse f) 0 (ready f) ∧ ((ready f).rd 0 9 0 0).toNat = 2 ∧
    Skipped ((place (.sskip 0 9) (sparse (streaming (row 2 0) (vec 0 2) [])) 0 (ready (streaming (row 2 0) (vec 0 2) [])) 0 0 0).on 0 (row 2 0)) 2 (row 2 0) (row 3 2) :=
  ⟨by decide +kernel, by decide +kernel, skipped_row (ok_of (by decide +kernel)) fun q h2 h6 => row_words _ (by simp) q h6 h2⟩
theorem witness_met : let f := streaming (row 2 0) (vec 0 2) []
    let y := place (.sisect 8 0 1) (sparse f) 0 (ready f) 0 0 0
    Runs (.sisect 8 0 1) (sparse f) 0 (ready f) ∧ (ready f).rd 0 8 0 0 = 0#32 ∧ Plain (y.on 0 (row 2 0)) (row 2 0) ∧ Plain (y.on 1 (vec 0 2)) (vec 0 2) ∧
    1 ≤ (row 2 0).left + (vec 0 2).left ∧ Met y 0 1 1 (row 2 0) (vec 0 2) (row 3 2) (vec 0 2) :=
  ⟨by decide +kernel, by decide +kernel, fun _ => ⟨matrixLevel, ok_of (by decide +kernel), rfl⟩, fun _ => ⟨vectorLevel, ok_of (by decide +kernel), rfl⟩, by decide,
    rfl, rfl, .inl ⟨by decide, row 3 2, skipped_row (ok_of (by decide +kernel)) fun q h2 h6 => row_words _ (by simp) q h6 h2, .inr (.inr rfl), rfl, rfl⟩⟩
theorem witness_partn : let f := holds [(8, 1#32), (10, 3#32), (11, 3#32)]
    Runs (.partn 4 8 10) (sparse f) 0 (ready f) ∧ (place (.partn 4 8 10) (sparse f) 0 (ready f) 0 8 1).level = .ok matrixLevel ∧
    ((ready f).rd 0 10 1 0).toNat ≤ ((ready f).rd 0 10 0 0).toNat := ⟨by decide +kernel, ok_of (by decide +kernel), by decide +kernel⟩

/-- A level whose coordinates lie in main memory at 0x10A00, of a team that stands at their first. -/
def mainFields : List (Nat × Nat × Nat) :=
  [(0, 4, 1), (32, 4, 1), (36, 4, 6), (40, 4, 1), (48, 8, 0x1000000000000100), (56, 8, 0x10AFC), (260, 4, 3)]
def inMainLevel : Level := { kind := 1, morton := false, n := 6, parents := 1, pos := ⟨.sh key 0, 256⟩, crd := ⟨.main, 0x10AFC⟩ }
def mainFibre : Cursor := { done := false, level := 0, desc := 0, fin := 3, coord := 0, pos := 0 }

theorem witness_segment : let f := streaming mainFibre mainFibre []
    let s := inShared (world f) mainFields
    Runs (.snext 0) s 0 (ready f) ∧ (ready f).active = [0] ∧ (place (.snext 0) s 0 (ready f) 0 0 0).level = .ok inMainLevel ∧
    (ready f).cursor 0 0 = mainFibre ∧ (s.core 0).seg? (s.rootOf 0) (0x10B00 / 256) = none ∧ (ready f).deniedAt 0x10B00 = false :=
  ⟨by decide +kernel, by decide +kernel, ok_of (by decide +kernel), by decide +kernel, by decide +kernel, by decide +kernel⟩
theorem witness_segment_translated : ∀ f, wd.xlate (wd.rootOf 0) 0x10B00 .read ≠ .fault f := fun f h => by
  have e : (match wd.xlate (wd.rootOf 0) 0x10B00 .read with | .fault _ => true | _ => false) = false := by decide +kernel
  rw [h] at e; cases e
theorem witness_segment_fill : let x := ready fun x => { x with park := some (.segment [0x10B]) }
    let s := world fun x => { x with park := some (.segment [0x10B]) }
    aget s.teams 0 = some x ∧ s.resident 0 x = true ∧ x.park = some (.segment [0x10B]) := by decide +kernel

/-- The world whose core's stream buffer holds the segment of the code. -/
def buffered : State := wd.putCore 0 { wd.core 0 with segs := [⟨0#48, 256, List.replicate 256 3#8, []⟩] }

theorem witness_segment_word : let y := place .nop buffered 0 tm 0 0 0
    (y.st.core y.team.core).seg? (y.st.rootOf y.team.launch) (0x100FC / 256) = some ⟨0#48, 256, List.replicate 256 3#8, []⟩ ∧ 0x100FC % 4 = 0 := by
  decide +kernel

/-! Graphs and waves: two nodes, an edge from the first to the second, two slots of one N32, in the node half of channel 0. -/

/-- The image's header, partition table, node table, edges, arrival counters and vectors: node 0 holds slot 0 with the value 5. -/
def imageFields : List (Nat × Nat × Nat) :=
  [(0, 4, 1), (4, 4, 2), (8, 2, 0), (10, 2, 1), (16, 4, 4), (20, 4, 4), (48, 8, 0x40000080),
   (128, 8, 0x40000100), (136, 8, 0x40000140), (144, 8, 0x40000160), (152, 4, 1), (160, 8, 0x40000180), (168, 8, 0x400001C0),
   (256, 4, 0x100), (268, 4, 1), (280, 4, 1), (320, 8, 1), (384, 4, 5)]

/-- The team's world with that image in its address space. -/
def imaged (f : Team → Team) : State :=
  let s := world f
  let e : TlbEntry := { root := 0#48, page := 16384, frame := 16384, r := true, w := true, x := false, c := false, key := 1 }
  inMain { s with tlb := e :: s.tlb } 0x40000000 imageFields

/-- The graph that it describes. -/
def graph0 : Graph :=
  { live := true, count := 2, first := 0, engines := 1, slots := [(4, 1), (4, 1), (0, 1), (0, 1), (0, 1), (0, 1), (0, 1), (0, 1)],
    table := 0x40000080 }

/-- The world with the graph bound, waves, and a wave record in shared memory. -/
def graphed (f : Team → Team) (ws : List (Nat × Wave)) (fs : List (Nat × Nat × Nat)) : State :=
  inShared { imaged f with graphs := [(0, graph0)], waves := ws, waveNo := 8 } fs

/-- The record of a PROP over edge type 0 for one hop, without a counter; of an NCOUNT into shared memory. -/
def propFields : List (Nat × Nat × Nat) := [(4, 4, 0xC0000000), (12, 4, 8), (16, 2, 1), (18, 1, 1)]
def ncountFields : List (Nat × Nat × Nat) := [(4, 4, 0xC0000000), (40, 8, 0x1000000000000200), (52, 4, 0)]

/-- A wave on the graph. -/
def waveOn (op : WaveOp) (r : WaveRec) : Wave :=
  { seqNo := 3, handle := 192#32, op := op, graph := 0, launch := 0, cluster := key, core := 0, wrec := r, counter := .none, incr := 0#32 }

/-- Words 4 and on of a registers pair that name the image. -/
def imagePair : Team → Team := holds [(8, 0x40000000#32)]

theorem witness_record : let s := graphed id [] propFields
    let bs := sharedBytes s tm 0 64
    Runs (.prop 4 8) s 0 tm ∧ tm.active ≠ [] ∧ tm.rdFirst 0 8 = 0#32 ∧ 0 + 64 ≤ spaceSize s tm 0 ∧ reservedBad .prop bs = none ∧
    s.graphOf tm.launch (word32 bs 0) = some 0 ∧ s.waveChecks tm (s.graph 0) .prop bs (parseWave .prop bs) = [] ∧ s.duskStalls 0 0 = false := by
  decide +kernel
theorem witness_record_clear : RecordClear (graphed id [] propFields) tm 0 64 := ⟨fun k _ => by
  have e : (graphed id [] propFields).ranges = [] := by decide +kernel
  simp [State.landingLoad, State.rangesAt, e], by decide +kernel⟩
theorem witness_free_place : FreePlace wd 0 := ⟨by decide, by decide +kernel, fun n h => by omega⟩
theorem witness_landing_record : let s := graphed id [] ncountFields
    let bs := sharedBytes s tm 0 64
    Runs (.ncount 4 8) s 0 tm ∧ reservedBad .ncount bs = none ∧ s.graphOf tm.launch (word32 bs 0) = some 0 ∧
    s.waveChecks tm (s.graph 0) .ncount bs (parseWave .ncount bs) = [] ∧ (waveDests (s.graph 0) .ncount (parseWave .ncount bs)).length = 1 ∧
    s.rangesFree ((waveDests (s.graph 0) .ncount (parseWave .ncount bs)).filterMap fun q =>
      (s.resolveAddr tm.cluster tm.core q.addr).map fun l => unitOf l.dest) = true := by decide +kernel
theorem witness_no_place : ∀ p < 64, aget (graphed id ((List.range 64).map fun p => (p, waveOn .clear {})) propFields).waves p ≠ none := by decide +kernel
theorem witness_wave_checks : let s := graphed id [] [(4, 4, 0xC0000000), (12, 4, 8), (18, 1, 1)]
    let bs := sharedBytes s tm 0 64
    (5, 16) ∈ s.waveChecks tm (s.graph 0) .prop bs (parseWave .prop bs) ∧ reservedBad .prop (recordOf 64 [(63, 1, 1)]) = some 63 ∧
    wd.graphOf tm.launch 0#32 = none := by decide +kernel
theorem witness_waveq : let w := { waveOn .clear {} with phase := .failed, err := 4 }
    let s := graphed (holds [(8, 192#32)]) [(0, w)] []
    let x := ready (holds [(8, 192#32)])
    Runs (.waveq 4 8) s 0 x ∧ aget s.waves ((x.rdFirst 0 8).toNat % 64) = some w ∧ w.handle = x.rdFirst 0 8 ∧ w.phase = .failed ∧ w.launch = x.launch ∧
    (∀ v, aget wd.waves 0 = some v → v.handle ≠ 0#32) := by
  refine ⟨by decide +kernel, by decide +kernel, by decide +kernel, rfl, rfl, fun v h => ?_⟩
  have e : aget wd.waves 0 = none := by decide +kernel
  rw [e] at h; cases h

/-- What a computation gives, from its value. -/
theorem gives_of {ε α : Type} {e : Except ε α} {v : α} (h : e.toOption = some v) : e = .ok v := by
  cases e <;> simp_all [Except.toOption]

theorem witness_gbind : let s := imaged imagePair
    let x := ready imagePair
    ∃ hd pb, Runs (.gbind 4 8) s 0 x ∧ (x.rdFirst 0 8 1 ++ x.rdFirst 0 8 0).toNat % 128 = 0 ∧
    s.graphBytes (s.rootOf 0) (x.rdFirst 0 8 1 ++ x.rdFirst 0 8 0).toNat 128 = .ok hd ∧
    headerChecks hd = [] ∧ s.graphBytes (s.rootOf 0) (word64 hd 48).toNat 128 = .ok pb ∧ (parseGraph 0 0 hd).engines = 1 ∧
    (parseGraph 0 0 hd).partChecks 0 pb = [] ∧
    (∀ q ∈ (parseGraph 0 0 hd).spans 0 (parsePart pb), s.spanCheck (s.rootOf 0) 0 q = none) ∧ (s.graph 0).live = false :=
  ⟨(imaged imagePair).vaBytes 0#48 .read 0x40000000 128, (imaged imagePair).vaBytes 0#48 .read 0x40000080 128, by decide +kernel, by decide +kernel,
    gives_of (by decide +kernel), by decide +kernel, gives_of (by decide +kernel), by decide +kernel, by decide +kernel, by decide +kernel, by decide +kernel⟩
theorem witness_no_graph_place : ∀ p < 64, (({ wd with graphs := (List.range 64).map fun p => (p, graph0) } : State).graph p).live = true := by decide +kernel
theorem witness_gunbind : let s := graphed id [(0, waveOn .clear {})] []
    Runs (.gunbind 8) s 0 tm ∧ s.graphOf tm.launch (tm.rdFirst 0 8) = some 0 ∧ (∃ w ∈ s.waves, w.2.graph = 0) ∧
    (∀ w ∈ (graphed id [] []).waves, w.2.graph ≠ 0) ∧ wd.graphOf tm.launch (tm.rdFirst 0 8) = none := by decide +kernel

/-- The two nodes of the image. -/
def node : Nat → GNode := fun n => if n = 0 then ⟨0, 1, 0#32, 0, 1⟩ else ⟨0, 0, 0#32, 1, 0⟩

theorem witness_mark_starts : let w := waveOn .mark { types := 1, control := 1#32 }
    let s := graphed id [(0, w)] []
    aget s.waves 0 = some w ∧ w.phase = .held ∧ w.frozen = false ∧ w.err = 0 ∧ s.waveHeld w = false ∧ s.waveIdle 0 = true ∧ w.wrec.mode = 0 ∧
    (∀ n ∈ w.wrec.range (s.graph 0), ((s.eye w).node n).toOption = some (node n)) ∧
    ((s.eye w).canWrite (((w.wrec.range (s.graph 0)).filter fun n => w.wrec.admits (node n)).map fun n =>
      (s.eye w).presWrite n (node n).pres 1 true)).toOption = some () := by decide +kernel
theorem witness_wave_held : let w := waveOn .mark {}
    let v := { waveOn .prop {} with seqNo := 2 }
    (graphed id [(0, w), (1, v)] []).waveHeld w = true := by decide +kernel
theorem witness_ncount_starts : let w := { waveOn .ncount {} with ranges := [5] }
    let s := { graphed id [(0, w)] [] with ranges := [(5, { copyRange with owner := .wave 0 })] }
    aget s.waves 0 = some w ∧ (aget s.ranges 5).isSome = true ∧ (∀ n ∈ w.wrec.range (s.graph 0), ((s.eye w).arrivals n).toOption = some 0) ∧
    ((s.eye w).canWrite ((w.wrec.range (s.graph 0)).map fun n => (s.eye w).arrivalWrite n 0)).toOption = some () := by decide +kernel

/-- A PROP from slot 0 to slot 1 that has started on node 0. -/
def hopping : Wave :=
  { waveOn .prop { control := 8#32, edgeMask := 1, hops := 1 } with phase := .running, frontier := [0] }

theorem witness_hop : let s := graphed id [(0, hopping)] []
    let g := s.graph 0
    let y := s.eye hopping
    s.waveOver hopping = false ∧ s.waveIdle 0 = true ∧ hopping.wrec.combine = 0 ∧ hopping.wrec.transfer = 0 ∧ hopping.wrec.acc = false ∧
    hopping.wrec.slotB = 1 ∧ g.slot 1 = (4, 1) ∧ g.slot 0 = (4, 1) ∧ (y.slot 0 0).toOption = some [5#32] ∧ (y.edges 0).toOption = some [⟨1, 0, 0⟩] ∧
    (y.node 1).toOption = some (node 1) ∧ (y.arrivals 1).toOption = some 0 ∧ (node 1).holds 1 = false ∧ hopping.wrec.edgeMask.testBit 0 = true ∧
    (y.canWrite [y.presWrite 1 0 1 true, y.arrivalWrite 1 1, y.slotWrite 1 1 [5#32]]).toOption = some () := by decide +kernel
/-- The hop writes the sum to node 1 (R286, R287). -/
theorem test_hop : after (.waveHopCommit 0) (graphed id [(0, hopping)] [])
    (fun u => some (u.memByte 0x400001E0, u.memByte 0x40000164, u.memByte 0x40000111)) = some (5#8, 1#8, 2#8) := by decide +kernel

/-- A PROPF under min with one contribution on its way to node 1. -/
def delivering : Wave :=
  { waveOn .propf { control := 0x408#32, edgeMask := 1 } with phase := .running, sends := [⟨1, [3#32]⟩] }

theorem witness_delivery : let s := graphed id [(0, delivering)] []
    let g := s.graph 0
    let y := s.eye delivering
    aget s.waves 0 = some delivering ∧ delivering.err = 0 ∧ s.waveIdle 0 = true ∧ delivering.wrec.combine = 2 ∧ g.slot 1 = (4, 1) ∧
    (y.node 1).toOption = some (node 1) ∧ (y.arrivals 1).toOption = some 0 ∧ (y.slot 1 1).toOption = some [0#32] ∧
    (y.canWrite [y.arrivalWrite 1 1, y.presWrite 1 0 1 true, y.slotWrite 1 1 [3#32]]).toOption = some () := by decide +kernel
theorem witness_wave_end : let w := { waveOn .clear {} with phase := .running, counter := .sh key 0 8 }
    let s := graphed id [(0, w)] []
    aget s.waves 0 = some w ∧ s.waveOver w = true ∧ w.ranges = [] ∧ w.wrec.countRef = .none ∧ (s.place? key 0).isSome = true ∧
    (aget s.launches 0).map (·.phase) = some .running := by decide +kernel
theorem witness_engines : wd.seqUnit = .active ∧ (∀ n ∈ wd.engines, n / 32 ≠ 383 / 32) ∧
    (∃ n ∈ ({ wd with engines := [352] } : State).engines, n / 32 = 383 / 32) ∧ ({ wd with seqUnit := .standby } : State).seqUnit = .standby := by
  decide +kernel
theorem witness_engine_wave : let s := graphed id [(0, hopping)] []
    aget s.waves 0 = some hopping ∧ hopping.phase = .running ∧ hopping.op ≠ .descend ∧ (s.graph hopping.graph).first ≤ 0 ∧
    0 < (s.graph hopping.graph).first + (s.graph hopping.graph).engines := by decide +kernel

/-! Walks, side lists, reductions. -/

/-- An EMBED record of one bag of two FP32 rows of one element; its index list, offsets and output in shared memory, its table in main memory. -/
def embedFields : List (Nat × Nat × Nat) :=
  [(4, 4, 0xC0000000), (12, 4, 1), (16, 8, 0x10C00), (24, 8, 0x1000000000000200), (32, 8, 0x1000000000000240), (40, 8, 0x1000000000000280),
   (48, 8, 0x10000000000002C0), (56, 4, 1), (60, 4, 2), (512, 4, 1), (516, 4, 0), (580, 4, 2)]

/-- The world with that record and its table: 1.0 and 2.0. -/
def embedded (cs : List (Nat × Copy)) (rs : List (Nat × Range)) : State :=
  inShared { inMain wd 0x10C00 [(0, 4, 0x3F800000), (4, 4, 0x40000000)] with copies := cs, ranges := rs } embedFields

/-- The record, parsed. -/
def embedRec : EmbedRec := parseEmbed (recordOf 64 (embedFields.filter fun f => decide (f.1 < 64)))

/-- The walk in slot 0, and its range. -/
def bagging : Copy :=
  { handle := 0#32, launch := 0, cluster := key, kind := .embed embedRec, dst := ⟨.sh key 0, 640⟩, len := 4, total := 1, phase := .landing,
    counter := .none, incr := 0#32, range := 5 }
def bagRange : Range := { copyRange with start := 640, len := 4 }

theorem witness_embed : let s := embedded [] []
    let bs := sharedBytes s tm 0 64
    walkOf (.embed 4 8) = some (false, 4, 8) ∧ Runs (.embed 4 8) s 0 tm ∧ tm.active ≠ [] ∧ tm.todo.copies = [] ∧ 0 + 64 ≤ spaceSize s tm 0 ∧
    (∀ k < 64, s.landingLoad (.sh tm.cluster tm.core) (0 + k) = .clear) ∧ s.shBad tm.cluster tm.core 0 64 = false ∧
    s.embedChecks tm bs (parseEmbed bs) = [] ∧ (s.resolveAddr tm.cluster tm.core (parseEmbed bs).out).isSome = true ∧ s.duskStalls 0 0 = false ∧
    aget s.copies 0 = none ∧ s.rangeFree (.core 0) = true := by decide +kernel
theorem witness_embed_bad : let s := inShared wd [(4, 4, 0xC0000000), (12, 4, 1), (60, 4, 1)]
    let bs := sharedBytes s tm 0 64
    s.embedChecks tm bs (parseEmbed bs) ≠ [] := by decide +kernel
theorem witness_slot_taken : aget (copied copying copyRange).copies (0 * 1024 + ((copied copying copyRange).core 0).handleNo.toNat % 1024) ≠ none := by
  decide +kernel
/-- The world with a graph whose slot 0 is one FP32, and a DESCEND record for it. -/
def descending : State :=
  inShared { wd with graphs := [(0, { graph0 with slots := [(3, 1)] })] }
    [(4, 4, 0xC0000000), (12, 4, 0x100), (16, 8, 0x1000000000000200), (24, 8, 0x1000000000000280), (36, 4, 1), (40, 8, 0x10000000000002C0)]

theorem witness_descend : let s := descending
    let bs := sharedBytes s tm 0 64
    Runs (.descend 4 8) s 0 tm ∧ (word32 bs 12).toNat < 2 ^ 22 ∧ zeroBytes bs 56 64 = true ∧ s.graphOf tm.launch (parseDescend bs).graph = some 0 ∧
    s.descendChecks tm (s.graph 0) bs (parseDescend bs) = [] ∧ wd.graphOf tm.launch (word32 bs 0) = none := by decide +kernel
theorem witness_bag : let s := embedded [(0, bagging)] [(5, bagRange)]
    let read := fun (v : BitVec 64) (o z : Nat) =>
      let l := s.walkLoc 0 bagging v
      (s.walkRead bagging 0 { l with addr := l.addr + o } z).toOption
    aget s.ranges 5 = some bagRange ∧ aget s.copies 0 = some bagging ∧ bagging.open = true ∧ bagging.next < bagging.total ∧ s.canLand 5 bagRange 0 = true ∧ bagRange.place = none ∧
    (s.place? key 0).isSome = true ∧ embedRec.pool = 0 ∧ embedRec.tfmt = 0 ∧ embedRec.ofmt = 0 ∧ s.inSpace 0 ⟨.sh key 0, 640⟩ embedRec.ob = true ∧
    read embedRec.offsets 0 8 = some (leBytes 8 (2 * 2 ^ 32)) ∧ read embedRec.indices 0 4 = some (leBytes 4 1) ∧ read embedRec.indices 4 4 = some (leBytes 4 0) ∧
    read embedRec.table 4 4 = some (leBytes 4 0x40000000) ∧ read embedRec.table 0 4 = some (leBytes 4 0x3F800000) := by decide +kernel
/-- The bag's sum 2.0 + 1.0 (R304). -/
theorem test_bag : after (.copyLanding 5) (embedded [(0, bagging)] [(5, bagRange)])
    (fun u => some ((List.range 4).map fun b => u.shByte key 0 (640 + b))) = some (leBytes 4 0x40400000) := by decide +kernel
theorem witness_walk_end : let c := { bagging with next := 1 }
    let s := embedded [(0, c)] [(5, bagRange)]
    aget s.copies 0 = some c ∧ c.open = true ∧ c.next = c.total ∧ s.itsCompletion c.range = true ∧ s.resolveAddr c.cluster 0 embedRec.status = some ⟨.sh key 0, 704⟩ := by decide +kernel

/-- The completion record of a walk that has landed its one bag (R300). -/
theorem test_walk_end : after (.walkEnd 0 0) (embedded [(0, { bagging with next := 1 })] [(5, bagRange)])
    (fun u => some ((List.range 8).map fun b => u.shByte key 0 (704 + b))) = some (leBytes 8 0x180000000) := by decide +kernel

/-- A side list of two entries of 32 bytes, with some already in it. -/
def listed (n : Nat) : State := inMain (imaged (holds [(8, 0x40000400#32)])) 0x40000400 [(0, 4, 2), (4, 4, n), (12, 4, 32)]

theorem witness_side_list : let x := ready (holds [(8, 0x40000400#32)])
    let s := listed 1
    let s1 := reachedState (s.putTeam 0 (x.issued (.sideapp 4 8 16))) x 0x40000400 64
    Runs (.sideapp 4 8 16) s 0 x ∧ (pairAddress x 8).toNat = 0x40000400 ∧ Reached s x 0x40000400 64 ∧ field s1 x 0x4000040C = 32 ∧
    0 + 32 ≤ spaceSize s x 0 ∧ field s1 x 0x40000404 = 1 ∧ 1 < field s1 x 0x40000400 ∧ Reached s1 x (0x40000400 + 64 + 1 * 32) 32 ∧ s1.goesOn x := by
  unfold Reached; decide +kernel
theorem witness_side_list_on : let x := ready (holds [(8, 0x40000400#32)])
    let s1 := reachedState ((listed 1).putTeam 0 (x.issued (.sideapp 4 8 16))) x 0x40000400 64
    let s2 := reachedState s1 x (0x40000400 + 64 + 1 * 32) 32
    ((s2.writeVa 0#48 (0x40000400 + 64 + 1 * 32) (sharedBytes (listed 1) x 0 32)).writeVa 0#48 0x40000404 (leBytes 4 2)).goesOn x := by decide +kernel
theorem witness_side_list_full : let x := ready (holds [(8, 0x40000400#32)])
    let s1 := reachedState ((listed 2).putTeam 0 (x.issued (.sideapp 4 8 16))) x 0x40000400 64
    field s1 x 0x40000400 ≤ field s1 x 0x40000404 ∧ s1.goesOn x := by decide +kernel
theorem witness_side_publish : let x := ready (holds [(8, 0x40000400#32)])
    let s1 := reachedState ((listed 1).putTeam 0 (x.issued (.sidepub 8))) x 0x40000400 64
    Runs (.sidepub 8) (listed 1) 0 x ∧ (s1.writeVa 0#48 0x40000408 (leBytes 4 (field s1 x 0x40000404))).goesOn x := by decide +kernel
theorem witness_side_misplaced : (pairAddress (ready (holds [(8, 0x40000420#32)])) 8).toNat % 64 ≠ 0 := by decide +kernel

/-- A register pair that names scratchpad word 4 of die 0. -/
def scattering : Team → Team := holds [(8, 4#32), (9, 0x30000000#32), (16, 7#32)]

theorem witness_reduction : let x := ready scattering
    Runs (.scatred .addI32 8 16) (world scattering) 0 x ∧ x.todo.begun = false ∧ x.active = 0 :: [] ∧
    scatTarget (x.rd 0 8 1 0 ++ x.rd 0 8 0 0) = true ∧ (x.rd 0 8 1 0 ++ x.rd 0 8 0 0 : BitVec 64).toNat / 2 ^ 60 = 3 ∧
    tget allowanceReset ((world scattering).core 0).allow (lockOf 4 / 256) ≠ 0#8 := by decide +kernel
theorem witness_reduction_held : tget allowanceReset ({ wd.core 0 with allow := tset allowanceReset [] (lockOf 4 / 256) 0#8 } : Core).allow (lockOf 4 / 256) = 0#8 := by
  decide +kernel
theorem witness_reduction_target : scatTarget ((ready (holds [(8, 2#32)])).rd 0 8 1 0 ++ (ready (holds [(8, 2#32)])).rd 0 8 0 0) = false := by decide +kernel

/-- The world with one packet. -/
def packeted (k : PacketKind) : State := { wd with packets := [(3, ⟨0, 0, 0, k, .core 0, .slice 0, 0, 0, 0, 0#48⟩)] }

theorem witness_owner : let s := packeted (.red .addI32 3 0 8 0#512 0x3000000000000008 [5#32])
    (aget s.packets 3).map (·.kind) = some (.red .addI32 3 0 8 0#512 0x3000000000000008 [5#32]) ∧ 8 % 4 = 0 ∧
    (∀ k < 4, s.landingStore (.sp 0) (8 + k) = true) ∧ s.lockFree 0 0 (lockOf 8) = true ∧ aget s.forms (8 / 4096) = none ∧ aget s.teams 0 = some tm ∧ tm.redDrop = none ∧
    aget ({ s with forms := [(0, .compressed)] } : State).forms (8 / 4096) ≠ none := by decide +kernel
/-- Of two packets on one path the later one may not arrive first (R321). -/
theorem witness_owner_later : let p : Packet := ⟨0, 0, 0, .token 0#32 true, .core 0, .slice 0, 0, 1, 1, 0#48⟩
    let q : Packet := ⟨0, 0, 0, .token 1#32 true, .core 0, .slice 0, 0, 0, 0, 0#48⟩
    let s : State := { wd with packets := [(3, q), (4, p)] }
    s.mayArrive 4 p = false ∧ s.mayArrive 3 q = true := by
  have h : ∀ n, (({ wd with packets := [(3, ⟨0, 0, 0, .token 1#32 true, .core 0, .slice 0, 0, 0, 0, 0#48⟩),
    (4, ⟨0, 0, 0, .token 0#32 true, .core 0, .slice 0, 0, 1, 1, 0#48⟩)] } : State).link n) = {} := fun n => rfl
  simp [State.mayArrive, h, Packet.sameWay]

/-! Messages, spawned work, the fabric. -/

theorem witness_selectors : entryOf wd tm (tm.rd 0 8 0 0) = some 0 ∧ entryOf wd tm 0xC0004000#32 = some (wd.engineRouter 0) ∧
    entryOf wd tm 0xC000005F#32 = some 95 ∧ entryOf wd tm 0xC0000060#32 = none ∧ entryOf peered peerTeam 0x80000000#32 = some 98 ∧
    Runs (.saread 4 8) wd 0 tm ∧ Runs (.satest 8) wd 0 tm := by decide +kernel

/-- The registers of a message of one word to handler 0 of cluster 0 on core 0. -/
def sendingTeam : Team → Team := holds [(17, 4#32)]

/-- The world whose launch has one handler. -/
def sending (f : Team → Team) : State := { world f with launches := (recorded fun r => { r with handlers := 1, htab := 0x10800#64 }).launches }

theorem witness_send : let s := sending sendingTeam
    let x := ready sendingTeam
    Runs (.amsend 8 16) s 0 x ∧ x.active ≠ [] ∧ x.todo.begun = false ∧ (x.rdFirst 0 16 1).toNat = 4 ∧
    s.sendTrap x (targetOf x 8).1 (targetOf x 8).2 (x.rdFirst 0 16) (x.rdFirst 0 16 1) = none ∧ RecordClear s x 0 4 ∧ s.duskStalls 0 0 = false ∧
    s.allowance 0 (s.physical 0 / 3) ≠ 0 ∧
    (s.putCore 0 { s.core 0 with allow := tset allowanceReset [] (s.physical 0 / 3) 0#8 }).allowance 0 (s.physical 0 / 3) = 0 := by
  unfold RecordClear; decide +kernel
theorem witness_send_traps : let x := ready sendingTeam
    (targetOf x 8).1.toNat < 2 ^ 30 ∧ (targetOf x 8).2 = 0#32 ∧ (wd.record? x.launch).map (·.handlers) = some 0 ∧
    2 ^ 30 ≤ (targetOf (ready (holds [(8, 0x40000000#32)])) 8).1.toNat ∧ 2 ^ 9 ≤ (targetOf (ready (holds [(9, 0x200#32)])) 8).2.toNat ∧
    (targetOf (ready (holds [(9, 0x1FF#32)])) 8).2.toNat < 2 ^ 9 ∧ (peered.cfgOf 0).map (·.peers) = some 1 := by decide +kernel
theorem witness_send_length : let x := ready (holds [(9, 1#32), (16, 2#32), (17, 257#32)])
    (targetOf x 8).2.toNat ≤ 1 ∧ 256 < (x.rdFirst 0 16 1).toNat ∧ (x.rdFirst 0 16).toNat % 4 ≠ 0 := by decide +kernel
theorem witness_spawn : Runs (.spawn 8 16) wd 0 tm ∧ tm.active = [0] ∧ Reaches wd tm (tm.rd 0 8 0 0) ∧
    isHeader (wd.codeWord tm.launch ((tm.rd 0 8 0 0).setWidth 52)) = true ∧
    wd.faultIn (wd.rootOf tm.launch) (wd.codeVa tm.launch ((tm.rd 0 8 0 0).setWidth 52)) 4 .fetch = none ∧ wd.duskStalls 0 0 = false ∧
    (wd.core 0).spawnQ.length + 1 ≤ Config.spawnItems := ⟨by decide +kernel, by decide +kernel, ⟨by decide +kernel, _, rfl, by decide +kernel⟩, by decide +kernel⟩
theorem witness_spawn_target : ¬ Reaches wd tm ((ready (holds [(8, 2#32)])).rd 0 8 0 0) := fun h => absurd h.1 (by decide +kernel)

/-- A spawned item at the placed clause. -/
def item : SpawnItem := ⟨0, key, 0#32, 0, [1#32, 2#32, 3#32, 4#32]⟩

theorem witness_spawn_timeout : ((wd.putCore 0 { wd.core 0 with spawnQ := [item] }).core 0).spawnQ = item :: [] ∧
    ([item].filter fun q => sameKey q item).length ≤ 1024 := by decide +kernel
theorem witness_child : let s := wd.putCore 0 { wd.core 0 with children := [[item]] }
    (s.core 0).children = (item :: []) :: [] ∧ s.residentCluster item.cluster = true ∧ (s.record? item.launch).map (·.regs) = some 112 ∧
    s.roomFor 0 1 (([item].length + 31) / 32 * 112) = true := by decide +kernel

/-- A message to core 0. -/
def message : Msg := { launch := 0, cluster := key, core := 0, handler := 0, payload := [9#32] }

theorem witness_message : let s := packeted (.msg 0 message 0)
    aget s.packets 3 = some ⟨0, 0, 0, .msg 0 message 0, .core 0, .slice 0, 0, 0, 0, 0#48⟩ ∧ (aget s.launches 0).map (·.phase) = some .running ∧ s.residentCluster key = true ∧
    (s.core 0).incoming.length < Config.incomingMessages ∧ aget s.teams 0 = some tm ∧ tm.msgDrop = none ∧ tm.peerTold = false ∧
    s.peerUp (s.queueOf 0) (1 - 1) = false := by decide +kernel
theorem witness_message_late : ∀ l, aget ({ packeted (.msg 0 message 0) with launches := [] } : State).launches 0 = some l → l.phase = .ended := fun l h => by
  cases h
/-- A message for a core that its cluster does not hold (R330). -/
theorem witness_message_elsewhere : let m := { message with core := 1 }
    let s := packeted (.msg 0 m 0)
    (aget s.packets 3).map (·.kind) = some (.msg 0 m 0) ∧ (aget s.launches m.launch).map (·.phase) = some .running ∧
    (aget s.clusters m.cluster).isSome = true ∧ (s.place? m.cluster m.core).isNone = true := by decide +kernel
theorem witness_no_launch : ∀ l ∈ wd.launches, l.2.queue = 63 → l.2.phase = .ended := by decide +kernel
theorem witness_handler_start : let s := (sending id).putCore 0 { (sending id).core 0 with incoming := [message] }
    (s.core 0).incoming = message :: [] ∧ message.core = 0 ∧ (s.record? 0).map (·.htab) = some 0x10800#64 ∧ s.residentCluster key = true ∧
    s.roomFor 0 1 112 = true ∧ (∀ d ∈ s.dies, ∀ f ∈ d.2.faults ++ d.2.waiting, f.who ≠ .message 0 0) ∧
    s.faultIn (s.rootOf 0) 0x10800 4 .read = none := by decide +kernel
theorem witness_credit : let s := wd.putCore 0 { wd.core 0 with allow := tset allowanceReset [] 97 63#8 }
    s.allowance 0 97 + (s.packets.filter fun p => p.2.core == 0 && p.2.entry == 97).length < 64 := by decide +kernel
theorem witness_flush : let x := ready fun x => { x with park := some .flush, sentTo := [(3, .core 9)] }
    aget (world fun x => { x with park := some .flush, sentTo := [(3, .core 9)] }).teams 0 = some x ∧ x.park = some .flush ∧ x.sentTo ≠ [] ∧ wd.packets = [] := by
  decide +kernel
theorem witness_links : (wd.link 0).up = true ∧ (wd.link 0).audit = none ∧
    (({ wd with links := [(0, { audit := some (4#16, 0) })] } : State).link 0).audit = some (4#16, 0) := by decide +kernel
theorem witness_peer : (peered.queue 0).cfg.map (·.peers) = some 1 ∧ 0 ∉ (peered.queue 0).lostPeers ∧ (wd.queue 1).cfg = none := by decide +kernel
theorem witness_remote : let s := imaged id
    (s.queue 0).cfg.map (·.root) = some 0#48 ∧ (touched 0x4000FFF0 16).all (fun v => !s.codePage 0#48 v && (s.faultIn 0#48 v 1 .write).isNone) = true ∧
    (touched 0x4000FFF8 16)[1]? = some 0x40010000 ∧ s.codePage 0#48 0x40010000 = false ∧ (s.faultIn 0#48 0x40010000 1 .write).map (·.1) = some 1 ∧
    (s.faultIn 0#48 0x4000FFF8 16 .read).isSome = true ∧ s.faultIn 0#48 0x4000FFF0 16 .read = none ∧
    s.badVa 0#48 .read 0x4000FFF0 16 = false ∧ ({ s with errors := [.main (0x4000FFF0 / 128)] } : State).badVa 0#48 .read 0x4000FFF0 16 = true ∧
    (s.queue 63).cfg.isNone = true := by
  decide +kernel

/-! Traps, system registers, waits. -/

/-- A team in its handler, whose trap came at the first of two instruction words, or at a header. -/
def trapping (started : Bool) (n : Nat) : Team → Team := fun x =>
  { x with trap := { x.trap with inTrap := true, started := started, words := List.replicate n 0#32, vec := 20#32 } }

theorem witness_trap_return : let x := ready (trapping true 2)
    Issues (.tret 0) (world (trapping true 2)) 0 x ∧ Issues (.tret 2) (world (trapping true 2)) 0 x ∧ x.trap.inTrap = true ∧
    (world (trapping true 2)).clauseFault x.launch (x.trap.regPc.setWidth 52) = none ∧ x.trap.started = true ∧
    x.trap.idx + 1 < x.trap.words.length - x.trap.litN := by decide +kernel
theorem witness_trap_return_last : let x := ready (trapping true 1)
    x.trap.words.length - x.trap.litN ≤ x.trap.idx + 1 ∧
    (world (trapping true 1)).clauseFault x.launch (BitVec.ofNat 52 (x.trap.clause.toNat + 4 * (x.trap.words.length + 1))) = none := by decide +kernel
theorem witness_trap_return_header : let x := ready (trapping false 0)
    x.trap.started = false ∧ (world (trapping false 0)).clauseFault x.launch x.trap.clause = none ∧
    (world (trapping false 0)).clauseFault x.launch (x.trap.clause + 4#52) = none ∧ tm.trap.inTrap = false ∧ Issues (.trap 8) wd 0 tm := by decide +kernel
theorem witness_system_registers : systemRegister wd tm 27 = some 0#32 ∧ systemRegister wd tm 15 = none ∧ systemRegister wd tm 28 = none ∧
    (systemRegister wd tm 14).isSome = true ∧ Runs (.sysrd 4 14) wd 0 tm ∧ Runs (.syswr 8 0) wd 0 tm ∧ tm.active ≠ [] := by decide +kernel
theorem witness_vector : Reaches wd tm 4092#32 ∧ ¬ Reaches wd tm 4096#32 :=
  ⟨⟨by decide +kernel, _, rfl, by decide +kernel⟩, witness_unaligned_target.2⟩
theorem witness_capture_queued : let x := ready fun x => { x with planes := [0] }
    Runs .ckpt (world fun x => { x with planes := [0] }) 0 x ∧ x.planes ≠ [] ∧ (ready fun x => { x with planes := [] }).planes = [] := by decide +kernel
theorem witness_event : Runs (.event 8 16) wd 0 tm ∧ tm.sentTo = [] ∧ tm.redDrop = none ∧ tm.msgDrop = none ∧ wd.duskStalls 0 0 = false := by decide +kernel
theorem witness_tlbinv : let x := ready (holds [(8, 0x20000#32)])
    let s := world (holds [(8, 0x20000#32)])
    Runs (.tlbinv 8 16) s 0 x ∧ (x.rdFirst 0 8 1 ++ x.rdFirst 0 8 0 : BitVec 64).toNat % 2 ^ 16 = 0 ∧ (tm.rdFirst 0 8 1 ++ 1#32 : BitVec 64).toNat % 2 ^ 16 ≠ 0 := by
  decide +kernel
/-- Two pages from 0x20000 on are dropped, and nothing else, so that the code stays mapped. -/
theorem witness_tlbinv_on : let x := ready (holds [(8, 0x20000#32), (16, 2#32)])
    let s := world (holds [(8, 0x20000#32), (16, 2#32)])
    ((s.putTeam 0 (x.issued (.tlbinv 8 16))).invalidate (s.rootOf 0) 0x20000 (x.rdFirst 0 16).toNat).goesOn x := by decide +kernel

/-- The world in which a team waits. -/
def waiting (p : Park) : State := world fun x => { x with park := some p }

theorem witness_waits : let x := fun p => ready fun x => { x with park := some p }
    aget (waiting .fetch).teams 0 = some (x .fetch) ∧ 0 ∈ ((waiting .fetch).core 0).age ∧
    (∀ d ∈ (waiting .fetch).dies, ∀ f ∈ d.2.faults ++ d.2.waiting, f.who ≠ .team 0) ∧
    (∀ o ∈ (x (.flags 5 0)).ops, ¬ (5#12).getLsbD (o.flag - 1)) ∧ (0#64).toNat ≤ (waiting (.counter 8 0 0)).counter (.sp 0 8) ∧
    (waiting (.lock [3])).lockFree 0 0 3 = true ∧ (waiting (.dusk [])).duskStalls 0 0 = false ∧
    (∀ a ∈ [0, 4092], (waiting (.landing (.sh key 0) [0, 4092])).landingLoad (.sh key 0) a ≠ .wait) ∧
    (∀ a ∈ [0, 4092], (waiting (.landingStore (.sh key 0) [0, 4092])).landingStore (.sh key 0) a = true) ∧
    (waiting (.wave [.core 0])).rangesFree [.core 0] = true ∧ (waiting .slot).copies = [] := by decide +kernel
theorem witness_wait_come : come (waiting (.ring 0 true)) 0 tm (.stageRingResume 0) (.ring 0 true) ∧
    come (waiting (.wave [.core 0])) 0 tm (.waveAcceptance 0) (.wave [.core 0]) ∧
    come (waiting .slot) 0 { tm with todo := { copies := [copying], begun := true } } (.copyRelease 0) .slot :=
  ⟨⟨_, _, _, rfl, rfl, rfl, rfl⟩, ⟨⟨0, by decide, by decide +kernel, fun n h => by omega⟩, by decide +kernel⟩,
    fun c r h => by
      cases h
      exact ⟨by decide +kernel, by decide +kernel, fun _ _ _ h => by cases h⟩⟩
theorem witness_load_returns : (ready fun x => { x with inFlight := [[(0, 1#32)]] }).inFlight = [(0, 1#32)] :: [] := by decide +kernel
theorem witness_stack_fill : let s := { waiting (.stack [31]) with tlb := { root := 0#48, page := 0, frame := 0, r := true, w := true, x := false, c := false, key := 1 } :: wd.tlb }
    (s.core 0).stack.length < Config.stackLines ∧ (∀ m ∈ (s.core 0).stack, m.team = 0 → m.line ≠ 31) ∧ s.pa? (s.rootOf 0) (128 * 31) .read = some (128 * 31) := by
  decide +kernel
theorem witness_idle : let s := (waiting .halt).putDie 0 { wd.die 0 with pubs := [⟨.batch, some 1, [(0, 1#8)], [], some 1⟩] }
    (s.core 0).age = [0] ∧ (s.core 0).snap < (s.die (0 / 64)).pubs.length ∧ (aget s.teams 0).map (·.park) = some (some .halt) := by decide +kernel
theorem witness_over : isOver wd (.cwait (.sp 0 8) 0#64) ∧ isOver wd (.bwait 0#32 0#32 4 1#1024) ∧ ¬ isOver wd (.array 3) ∧
    isOver (barred { bar2 with phase := 1#32 }) (.bwait 0#32 0#32 4 1#1024) :=
  ⟨by unfold isOver; decide +kernel, .inr (.inl (by decide +kernel)), fun h => h,
    .inr (.inr ⟨{ bar2 with phase := 1#32 }, by decide +kernel, .inr ⟨by decide, by decide⟩⟩)⟩
theorem witness_vector_fetched : let r : Report := illegal 9#4
    let x := ready fun x => { x with park := some (.vector r) }
    aget (waiting (.vector r)).teams 0 = some x ∧ x.park = some (.vector r) ∧ (∀ d ∈ wd.dies, ∀ f ∈ d.2.faults ++ d.2.waiting, f.who ≠ .team 0) := by decide +kernel
theorem witness_plane : let x := (fun y : Team => { y.captureNow with planes := [3] }) tm
    x.planes = 3 :: [] ∧ x.capture.isSome = true ∧ 3 / 32 < x.regsN := by decide +kernel
theorem witness_answer : ((0#48, 1) ∈ ({ wd with asked := [(0#48, 1)] } : State).asked) ∧ (0#48, 1) ∉ wd.asked ∧ ((wd.queue 0).cfg.map (·.root)) = some 0#48 ∧
    (0x10000#64).toNat / 2 ^ 16 = 1 := by decide +kernel

/-! Launches, admission, pre-emption. -/

/-- A launch header: one cluster of one team of 32 lanes and 64 rows on core 0, with one ring and an argument block. -/
def launchHeader : List Byte :=
  recordOf 128 [(0, 4, 1), (8, 8, 0x10000), (16, 4, 4096), (24, 8, 0x10900), (32, 4, 16), (36, 2, 1), (38, 2, 1), (40, 2, 32), (42, 2, 64), (44, 4, 4096),
    (48, 1, 1), (56, 8, 0x10800), (64, 1, 1)]

/-- The module with that launch waiting at queue 0, its chart and its arguments. -/
def launching : State :=
  { inMain wd 0x10800 [(0, 4, 0x1100), (256, 4, 77)] with
    queues := wd.queues.map fun q => (q.1, { q.2 with waiting := [⟨[], launchHeader⟩] }) }

/-- The chart. -/
def chart : List Byte := [0#8, 0x11#8, 0#8, 0#8, 0#8]

theorem witness_launch_message : (0 : Nat) < 64 ∧ (recordOf 144 []).length = 144 ∧ wd.phase = .ready ∧ (wd.queue 1).cfg = none ∧ (wd.queue 0).cfg ≠ none := by
  decide +kernel
theorem witness_launch_check : (launching.queue 0).cfg.isSome = true ∧ (launching.queue 0).waiting = ⟨[], launchHeader⟩ :: [] ∧ (launching.queue 0).parked = false ∧
    ((launching.queue 0).cfg.map (·.root)) = some 0#48 ∧ launching.vaBytes 0#48 .read 0x10800 5 = chart ∧
    launching.faultIn 0#48 0x10800 5 .read = none ∧ launching.badVa 0#48 .read 0x10800 5 = false ∧
    launching.faultIn 0#48 0x10900 16 .read = none ∧ launching.badVa 0#48 .read 0x10900 16 = false := by decide +kernel
theorem witness_launch_passes : ∀ j, 1 ≤ j → j < 12 → passes launching launchHeader chart [] j := by
  have hc : num launchHeader 2 36 = 1 := by decide +kernel
  have hm : num launchHeader 2 38 = 1 := by decide +kernel
  have ha : chartArea (chartAt chart 0) = 1 := by decide +kernel
  intro j h1 h2
  have hj : j = 1 ∨ j = 2 ∨ j = 3 ∨ j = 4 ∨ j = 5 ∨ j = 6 ∨ j = 7 ∨ j = 8 ∨ j = 9 ∨ j = 10 ∨ j = 11 := by omega
  rcases hj with rfl | rfl | rfl | rfl | rfl | rfl | rfl | rfl | rfl | rfl | rfl
  · simp only [passes]; decide +kernel
  · simp only [passes]; decide +kernel
  · simp only [passes]; decide +kernel
  · intro c h; rw [hc] at h; obtain rfl : c = 0 := by omega
    decide +kernel
  · intro c t h k; rw [hc] at h; rw [hm] at k; obtain rfl : c = 0 := by omega
    obtain rfl : t = 0 := by omega
    decide +kernel
  · intro c p h k; rw [hc] at h; obtain rfl : c = 0 := by omega
    rw [ha] at k; obtain rfl : p = 0 := by omega
    decide +kernel
  · intro c p h k; rw [hc] at h; obtain rfl : c = 0 := by omega
    rw [ha] at k; obtain rfl : p = 0 := by omega
    decide +kernel
  · simp only [passes]; decide +kernel
  · simp only [passes]; decide +kernel
  · intro h; exact absurd h (by decide +kernel)
  · simp only [passes]; decide +kernel
theorem witness_launch_rejected : ¬ passes launching (recordOf 128 []) [] [] 1 := by simp only [passes]; decide +kernel
theorem witness_launch_parked : ∃ k va, wd.faultIn 0#48 0x20000 5 .read = some (k, va) := ⟨_, _, rfl⟩

/-- The module with the launch accepted and not yet admitted. -/
def accepted : State :=
  let l : Launch := { queue := 0, seq := 1, hdr := placeRecord, chart := [0x1100#32], places := [0], roles := [], args := [] }
  { wd with launches := wd.launches ++ [(1, l)], nextId := 2 }

theorem witness_admission : ∃ l, aget accepted.launches 1 = some l ∧ accepted.itsTurn 1 l = true ∧ accepted.batchFits 1 l l.batch = true ∧
    accepted.overtaken l (batchCores l.batch) = false ∧ l.hdr.flags.getLsbD 0 = false ∧ l.chart[l.next]? = some 0x1100#32 :=
  ⟨_, rfl, by decide +kernel⟩

/-- What a computation that gives something gives. -/
theorem some_of {α : Type} {o : Option α} {p : α → Bool} (h : o.any p = true) : ∃ r, o = some r ∧ p r = true := by
  cases o with
  | none => cases h
  | some r => exact ⟨r, rfl, h⟩

/-- The launch of a handler team alone, with some shared bytes, on a core whose matrix state is another launch's. -/
def lean (shared : Nat) : State :=
  let s := world fun x => { x with tm := 64 }
  { (s.putCore 0 { s.core 0 with owner := some 99 }).putPlace key { core := 0, pos := 0 } with
    launches := (recorded fun r => { r with shared := shared }).launches }

/-- The requester of queue 0. -/
def asks : Asked := ⟨0, ⟨0#128, 0#24⟩⟩

/-- The module with its launch pre-empted. -/
def suspended : State :=
  match exec (.preempt asks 0 0x40000000) (lean 0) with
  | .next u => u
  | .fault _ => wd
  | .refused _ => wd

theorem witness_preempt : (wd.queue 0).cfg.map (·.requester) = some asks.who ∧ (wd.queue 0).cfg.map (·.requester) ≠ some ⟨1#128, 0#24⟩ ∧
    wd.launchAt 0 1 .running = none ∧ [lean 0, lean 4096].all (fun s => decide ((s.launchAt 0 0 .running).map (·.1) = some 0 ∧ s.drained 0 = true ∧
      s.saveParked 0 = false)) = true := by decide +kernel
theorem witness_preempt_saved : [(0, false), (4096, true)].all (fun q =>
    let s := lean q.1
    let p := (s.teamsOf 0).foldl (fun s t => s.performLoads t.1) s
    match p.duskAll 0 (p.teamsOf 0) with
    | some d => (d.piecesFault (d.rootOf 0) [] (d.savePieces 0 0x40000000)).isSome == q.2
    | none => false) = true := by decide +kernel
theorem witness_restore : (suspended.launchAt 0 0 .suspended).map (·.1) = some 0 ∧ moveOk (suspended.clustersOf 0) (0, 0, 7, 7) = true ∧
    suspended.saveParked 0 = false ∧ ∃ l, (suspended.launchAt 0 0 .suspended).map (·.2) = some l ∧
    (suspended.spansFault (suspended.rootOf 0) l.lost (suspended.restoreSpans 0 l) = none ∧
      ∃ r, (suspended.readBack 0 l).relocate 0 (((suspended.readBack 0 l).clustersOf 0).map fun c => (c.1, c.2.moved [(0, 0, 7, 7)])) = some r ∧
      ((aget r.launches 0).any fun x =>
        r.restoreFits 0 x (((suspended.readBack 0 l).clustersOf 0).map fun c => (c.1, c.2.moved [(0, 0, 7, 7)]))) = true) :=
  ⟨by decide +kernel, by decide +kernel, by decide +kernel, _, rfl, by decide +kernel, some_of (by decide +kernel)⟩
/-- The save area of a launch with shared bytes has no page yet. -/
theorem witness_restore_faults : ∃ l, ((({ suspended with launches := suspended.launches.map fun l => (l.1, { l.2 with hdr := { l.2.hdr with shared := 4096 } }) } :
    State).launchAt 0 0 .suspended).map fun l => (suspended.spansFault 0#48 l.2.lost
      (({ suspended with launches := [l] } : State).restoreSpans 0 l.2)).isSome) = some l ∧ l = true := ⟨_, rfl, by decide +kernel⟩
theorem witness_bad_move : ∀ c ∈ suspended.clustersOf 0, c.2.index = 0 → c.2.die = 0 → 8 < 8 + c.2.width ∨ 8 < 0 + c.2.height := by decide +kernel

/-! Management, failures, power. -/

/-- The module with an owner, and the owner's signature. -/
def owned : State := { State.reset with mgmt := { State.reset.mgmt with owner := some 5#256 } }
def signed : Signed := ⟨1, 5#256, true⟩

theorem witness_owner_signed : Owner owned signed ∧ ¬ Owner owned ⟨1, 6#256, true⟩ ∧ owned.phase = .ready ∧ owned.mgmt.owner ≠ none ∧
    State.reset.mgmt.owner = none ∧ State.reset.mgmt.seqNo < signed.seqNo ∧ owned.mgmt.sigIndex < 2 ^ 20 ∧ owned.mgmt.rollback ≤ 0 := by
  unfold Owner; decide +kernel
theorem witness_boots : boots owned.mgmt false ∧ ¬ boots owned.mgmt true ∧
    ¬ boots { owned.mgmt with rollback := 1 } false ∧ ({ owned with phase := .recovery } : State).phase ≠ .ready := by
  unfold boots; decide +kernel
theorem witness_core_failure : let s := wd.putTeam 0 tm.captureNow
    s.physical 0 ∉ s.failedCores ∧ 6 / 6 = s.physical 5 / 6 ∧ (s.core 0).queue = [] ∧ 0 ∈ (s.core 0).age ∧ tm.captureNow.capture.isSome = true ∧
    aget s.teams 0 = some tm.captureNow ∧ (aget s.launches 0).map (·.phase) = some .running := by decide +kernel
theorem witness_spare : ∃ q, q / 6 = wd.physical 0 / 6 ∧ q ∉ wd.failedCores ∧ ∀ k < 256, wd.physical k ≠ q := ⟨5, by decide +kernel⟩
theorem witness_power : State.reset.islandBusy 0 = false ∧ (State.reset.island 0).power = .noon ∧ Tolerates State.reset 0 .midnight ∧ ¬ Tolerates State.reset 60 .midnight ∧
    Tolerates State.reset 60 .night ∧ (({ State.reset with islands := [(0, { State.reset.island 0 with power := .night })] } : State).island 0).power ≠ .noon := by
  refine ⟨by decide +kernel, by decide +kernel, ⟨300000, rfl, by decide +kernel⟩, ?_, ⟨20000, rfl, by decide +kernel⟩, by decide +kernel⟩
  rintro ⟨w, h, -⟩
  cases h

/-! Witnesses of the clauses on steps, late loads, tokens, passes of MMC. -/

/-- Two teams of a launch in banking mode B on one core, before instructions that go down different pipes. -/
def paired : State :=
  let s := recorded fun r => { r with flags := 2#32 }
  let word := fun w => ready fun x => { x with words := [w, 0#32, 0#32, 0#32] }
  { ((s.putTeam 0 (word 0x20010410#32)).putTeam 1 (word 0x52010491#32)).putCore 0 { s.core 0 with age := [0, 1] } with script := [] }

theorem witness_step_alone : ∃ s', ({ wd with script := [] } : State).pick exec 0 = .team 0 s' ∧ s'.partner exec 0 0 = none := ⟨_, rfl, by decide +kernel⟩
theorem witness_step_paired : ∃ s', paired.pick exec 0 = .team 0 s' ∧ s'.partner exec 0 0 = some 1 := ⟨_, rfl, by decide +kernel⟩
theorem witness_unassigned : [(0x1A000000#32, 0#4), (0x04800000#32, 1#4), (0xF0000000#32, 8#4), (0x10000010#32, 10#4)].all (fun q =>
    let f := fun x : Team => { x with words := [q.1, 0#32, 0#32, 0#32] }
    let s : State := { world f with script := [] }
    (match s.pick exec 0 with
      | .team 0 u => decide (aget u.teams 0 = some (ready f) ∧ u.partner exec 0 0 = none)
      | _ => false) && decide (unassigned (ready f).word = some q.2)) = true ∧ unassigned 0x10000005#32 = none := by decide +kernel
theorem witness_ring_missing : (Instr.stgpost 8 3).legal = true ∧ (encode (.stgpost 8 3)).isSome = true ∧ lacksRing wd tm (.stgpost 8 3) ∧
    ¬ heldBack wd tm (.stgpost 8 3) :=
  ⟨by decide, by decide +kernel, ⟨8, 3, .inl rfl, fun p h => by
    have e : wd.place? tm.cluster tm.core = some { core := 0, pos := 0, rings := [{ slots := [{}] }] } := by decide +kernel
    rw [e] at h; cases h; decide⟩, by unfold heldBack; decide +kernel⟩
theorem witness_spans : let x := ready (holds [(9, 5#32)])
    spansTooFar x (.spcmp 111 18 9) ∧ spansBeyond (ready fun y => { holds [(9, 5#32)] y with regsN := 16 }) (.spcmp 15 2 9) ∧
    (Instr.spcmp 111 18 9).legal = true ∧ (encode (.spcmp 111 18 9)).isSome = true :=
  ⟨⟨111, 18, 9, 0, 2, 1, rfl, by decide +kernel, by decide +kernel, by decide⟩,
    ⟨15, 2, 9, 0, 2, 1, rfl, by decide +kernel, by decide +kernel, by decide +kernel⟩, by decide, by decide +kernel⟩
theorem witness_held_back : heldBack (wd.putCore 0 { wd.core 0 with owner := some 5 }) tm (.mxfence) ∧ classOf ((encode .mxfence).getD 0) = 2 :=
  ⟨.inl ⟨rfl, by decide +kernel⟩, by decide +kernel⟩

/-- A load of the last word that has not performed. -/
def pendingLoad : Team → Team := fun x => { lastWord x with late := [⟨0, .sh key 0, .n32, some 4, [(0, 4092)], 0⟩] }

theorem witness_late_load : let x := ready pendingLoad
    (x.late = ⟨0, .sh key 0, .n32, some 4, [(0, 4092)], 0⟩ :: []) ∧ ([(0, 4092)].map fun q : Nat × Nat => q.1).Nodup ∧
    (Dest.sh key 0 = .sh x.cluster x.core) ∧ Runs (.ldSh .n32 4 8 0) { world lastWord with lazy := true } 0 (ready lastWord) ∧
    wd.lazy = false := by decide +kernel
/-- A store to the bytes of a load that has not performed waits, and one to other bytes goes ahead of it (R168). -/
theorem test_late_load : after (.stSh .w32 4 8 0) (world pendingLoad) (fun u => (aget u.teams 0).map (·.park)) = some (some .result) ∧
    after (.stSh .w32 4 8 0x7F) (world pendingLoad) (fun u => after (.loadCompletion 0) u fun v =>
      (aget v.teams 0).map fun x => (x.reg 4 0, x.late.length, v.shByte key 0 4088)) = some (0#32, 0, 0x78#8) := by decide +kernel

/-- The only packet, with every link in order, may arrive. -/
theorem lone_arrives {s : State} {id : Nat} {p : Packet} (h : s.packets = [(id, p)]) (l : s.links = []) : s.mayArrive id p = true := by
  simp [State.mayArrive, h, State.link, l, aget]

/-- A token for barrier 0 in flight. -/
def tokenPacket : Packet := ⟨0, 0, 3, .token 0#32 false, .core 0, .command 0, 0, 0, 0, 0#48⟩

theorem witness_token : let s : State := { barred bar2 with packets := [(3, tokenPacket)] }
    s.barrier? 0#32 = some bar2 ∧ (s.packets.find? fun q => q.2.isToken 0#32 false && s.mayArrive q.1 q.2) = some (3, tokenPacket) ∧
    ∀ q ∈ (barred bar2).packets, q.2.kind ≠ .token 0#32 true := by
  refine ⟨by decide +kernel, ?_, fun q hq => by cases hq⟩
  rw [List.find?_eq_some_iff_append]
  exact ⟨by rw [lone_arrives rfl rfl]; rfl, [], [], rfl, fun _ h => by cases h⟩
theorem witness_range_group : let e := { entry with combine := 1 }
    let c := { copying with kind := .copy e, phase := .held }
    e.combine ≠ 0 ∧ c.err = 0 ∧ c.next < c.total ∧ c.kind = .copy e := by decide +kernel

/-- The team of an FP16 step in groups of 32: its A span has parameters. -/
theorem witness_grouped_step : let f := holds [(9, 0x1156#32)]
    let x := ready f
    Runs (.mmq 0 16 8) (world f) 0 x ∧ Agreed x 8 ∧ spanOf (x.rd 0 8 1 0) = 22 ∧ (16#7).toNat + 21 ≤ 111 ∧ x.ctx.win + 16 + 21 < x.regsN ∧
    (x.rd 0 8 0 0).toNat / 2 ^ 16 % 2 ^ 8 ≤ stepLength false (x.rd 0 8 1 0) := by
  unfold Agreed; decide +kernel

/-- A pass of MMC on its way to core 0, with one row of 64 bytes none of which has been read, or all of it. -/
def arriving (b : Option Byte) : ArrayOp :=
  { op := 9, team := 0, pc := 0#32, kind := .mmc 0#32 0x55#32 (.sh key 0) [0] [(127, 3584, List.replicate 64 b)], since := 0 }

/-- The world with it. -/
def tiled (b : Option Byte) : State := wd.putCore 0 { wd.core 0 with arriving := [arriving b] }

theorem witness_rows_arrive : ((tiled none).core 0).movable 0 = [0] ∧ ((tiled none).core 0).arriving[0]? = some (arriving none) ∧
    [0].head? = some 0 ∧ [0].Nodup ∧ (∀ r ∈ [(127, 3584, List.replicate 64 (some 1#8))], ∀ b ∈ r.2.2, b ≠ none) ∧
    ¬ ∀ r ∈ [(127, 3584, List.replicate 64 (none : Option Byte))], ∀ b ∈ r.2.2, b ≠ none := by decide +kernel
theorem witness_tile_pass : let o := arriving (some 1#8)
    ((wd.putCore 0 { wd.core 0 with queue := [o] }).core 0).queue = o :: [] ∧ fmtCheck 0x55#32 = 0 ∧
    ([(127, 3584, List.replicate 64 (some 1#8))].map fun r : Nat × Nat × List (Option Byte) => r.1).Nodup := by decide +kernel

/-! Witnesses of the clauses on stream fills, landings of waves, held slots, descents. -/

theorem witness_segment_faults : let f := fun x : Team => { x with park := some (.segment [0x10B, 0x200]) }
    let s := world f
    aget s.teams 0 = some (ready f) ∧ s.resident 0 (ready f) = true ∧
    ([0x10B, 0x200].findSome? fun n => s.faultIn (s.rootOf 0) (256 * n) 256 .read).isSome = true ∧ (ready f).deniedAt 0x20000 = false ∧
    (∀ n ∈ [0x10B], s.faultIn (s.rootOf 0) (256 * n) 256 .read = none) ∧ (s.core 0).seg? (s.rootOf 0) 0x10B = none := by decide +kernel

/-- A wave with one landing, or with two. -/
def collecting (op : WaveOp) (r : WaveRec) (n : Nat) : State :=
  let w := { waveOn op r with ranges := (List.range n).map (5 + ·) }
  { graphed id [(0, w)] [] with ranges := (List.range n).map fun k => (5 + k, { copyRange with owner := .wave 0, start := 16 * k, len := 16 }) }

theorem witness_collect_starts : let r : WaveRec := { types := 1, cap := 4, control := 8#32 }
    let w := { waveOn .collect r with ranges := [5] }
    let s := collecting .collect r 1
    aget s.waves 0 = some w ∧ w.phase = .held ∧ s.waveHeld w = false ∧ s.waveIdle 0 = true ∧ (aget s.ranges 5).isSome = true ∧ r.flag3 = true ∧
    (∀ n ∈ r.range (s.graph 0), ((s.eye w).node n).toOption = some (node n)) ∧
    ((r.range (s.graph 0)).filter fun n => r.admits (node n) && (node n).holds r.slotA) = [0] ∧ ((s.eye w).slot 0 0).toOption = some [5#32] := by
  decide +kernel
theorem witness_collectg_starts : let r : WaveRec := { types := 1, cap := 4, control := 8#32, edgeMask := 1 }
    let w := { waveOn .collectg r with ranges := [5, 6] }
    let s := collecting .collectg r 2
    aget s.waves 0 = some w ∧ (aget s.ranges 6).isSome = true ∧ (∀ n < (s.graph 0).count, ((s.eye w).node n).toOption = some (node n)) ∧
    ((List.range (s.graph 0).count).filter fun n => (node n).holds 0) = [0] ∧ ((s.eye w).edges 0).toOption = some [⟨1, 0, 0⟩] := by decide +kernel
/-- COLLECT finds node 0 with its vector; COLLECTG the edge into node 1, with its weight, and the nodes' offsets (R291, R293). -/
theorem test_collect : after (.waveStart 0) (collecting .collect { types := 1, cap := 4, control := 8#32 } 1)
      (fun u => (aget u.ranges 5).map (·.bytes)) = some (leBytes 4 0 ++ leBytes 4 5) ∧
    after (.waveStart 0) (collecting .collectg { types := 1, cap := 4, control := 8#32, edgeMask := 1 } 2)
      (fun u => (aget u.ranges 5).map fun r => (r.bytes, (aget u.ranges 6).map (·.bytes)))
      = some (leBytes 4 0 ++ leBytes 4 0, some (leBytes 4 0 ++ leBytes 4 0 ++ leBytes 4 1)) := by decide +kernel

/-- A collecting wave whose five bytes are on their way. -/
def collectingWave : Wave := { waveOn .collect {} with ranges := [5], phase := .running }
def collectRange : Range := { copyRange with owner := .wave 0, len := 5, bytes := [1#8, 2#8, 3#8, 4#8, 5#8] }
def landingWave : State := { graphed id [(0, collectingWave)] [] with ranges := [(5, collectRange)] }

theorem witness_wave_landing : aget landingWave.ranges 5 = some collectRange ∧ collectRange.owner = .wave 0 ∧ aget landingWave.waves 0 = some collectingWave ∧
    collectingWave.phase = .running ∧ landingWave.canLand 5 collectRange 0 = true ∧ collectRange.bytes ≠ [] ∧ collectRange.dest = .sh key 0 ∧
    (landingWave.place? key 0).isSome = true := by decide +kernel

/-- The hop onto a node that holds the slot already, with Acc. -/
def heldHop : State :=
  inMain (inMain (graphed id [(0, { hopping with wrec := { hopping.wrec with control := 0x1008#32 } })] []) 0x40000111 [(0, 1, 2)]) 0x400001E0 [(0, 4, 7)]

theorem witness_hop_held : let w : Wave := { hopping with wrec := { hopping.wrec with control := 0x1008#32 } }
    aget heldHop.waves 0 = some w ∧ w.wrec.acc = true ∧ heldHop.waveOver w = false ∧ w.wrec.combine = 0 ∧
    ((heldHop.eye w).node 1).toOption = some { node 1 with pres := 2 } ∧ ({ node 1 with pres := 2 } : GNode).holds 1 = true ∧
    ((heldHop.eye w).slot 1 1).toOption = some [7#32] := by decide +kernel
/-- Acc adds 5 to what the node holds (R289). -/
theorem test_hop_held : after (.waveHopCommit 0) heldHop (fun u => some ((List.range 4).map fun b => u.memByte (0x400001E0 + b))) = some (leBytes 4 12) := by
  decide +kernel
theorem witness_sends_again : let w := { waveOn .propf { control := 0x408#32, edgeMask := 1 } with phase := .running, frontier := [0] }
    let s := graphed id [(0, w)] []
    aget s.waves 0 = some w ∧ w.err = 0 ∧ s.waveIdle 0 = true ∧ w.sends = [] ∧ w.wrec.transfer = 0 ∧ (s.graph w.graph).slot w.wrec.slotB = (4, 1) ∧
    ((s.eye w).slot 0 w.wrec.slotB).toOption = some [0#32] ∧ ((s.eye w).edges 0).toOption = some [⟨1, 0, 0⟩] := by decide +kernel
theorem witness_wave_counts : let w := { waveOn .collect { countRef := .sh key 0 16 } with phase := .running, found := 3 }
    let s := graphed id [(0, w)] []
    aget s.waves 0 = some w ∧ s.waveOver w = true ∧ w.ranges = [] ∧ w.counter = .none ∧ (s.place? key 0).isSome = true := by decide +kernel
theorem witness_spare_used : 384 + 383 / 32 ∈ ({ wd with engines := [395] } : State).engines := by decide

/-- A search for 1.0 from node 0, a leaf for edge type 1, whose item behind edge type 0 is node 1 with the vector 0.0. -/
def search : DescendRec :=
  { graph := 0#32, slot := 0, metric := 0, child := 1, item := 0, beam := 1, topk := 2, queries := 0x1000000000000200, results := 0x1000000000000280,
    root := 0, count := 1, status := 0x10000000000002C0, side := 0#64 }

/-- Its walk. -/
def searchWalk : Copy :=
  { handle := 0#32, launch := 0, cluster := key, kind := .descend search 0 [], dst := ⟨.sh key 0, 640⟩, len := 16, total := 1,
    phase := .landing, counter := .none, incr := 0#32, range := 5 }

/-- The world in which it runs. -/
def searching : State :=
  let s := inMain (graphed id [(0, { waveOn .descend {} with phase := .running })] [(512, 4, 0x3F800000)]) 0x40000111 [(0, 1, 1)]
  { s with
    graphs := [(0, { graph0 with slots := (3, 1) :: graph0.slots.drop 1 })]
    copies := [(0, searchWalk)]
    ranges := [(5, { copyRange with start := 640, len := 16 })] }

/-- What it reads of the graph. -/
def tree : Tree := { node := fun n => if n = 0 then node 0 else { node 1 with pres := 1 }, edges := fun n => if n = 0 then [⟨1, 0, 0⟩] else [],
                     vec := fun n => if n = 0 then some [5] else some [0] }

theorem witness_descend_query : let c := searchWalk
    let q := { copyRange with start := 640, len := 16 }
    aget searching.copies 0 = some c ∧ aget searching.ranges 5 = some q ∧ (aget searching.waves 0).map (·.phase) = some .running ∧ c.open = true ∧ c.next < c.total ∧ searching.canLand 5 q c.launch = true ∧
    q.place = none ∧ c.next + 1 = c.total ∧
    searching.inSpace c.launch ⟨.sh key 0, 640⟩ 16 = true ∧
    let y := searching.walkEye c 0
    fmtFloat (y.g.slot 0).1 = true ∧ search.root < y.g.count ∧
    (∀ m < y.g.count, (y.node m).toOption = some (tree.node m) ∧ (y.edges m).toOption = some (tree.edges m) ∧ (y.vector m 0).toOption = some (tree.vec m)) ∧
    (searching.walkRead c 0 (searching.walkLoc 0 c search.queries) 4).toOption = some (leBytes 4 0x3F800000) := by decide +kernel
theorem witness_descends : Descends tree search [0x3F800000] 64 [⟨0, 0, 0⟩] [⟨0, 0, 0⟩] := .stop _ _ (by decide)
theorem witness_chosen : Chosen 2 (fun c => tree.item search [0x3F800000] [⟨0, 0, 0⟩] c ∧ ∀ i < 0, i ≠ c.key) [⟨0, 1, distance 0 [0x3F800000] [0]⟩] := by
  have one : ∀ c, tree.item search [0x3F800000] [⟨0, 0, 0⟩] c → c = ⟨0, 1, distance 0 [0x3F800000] [0]⟩ := by
    rintro c ⟨u, hu, hk, v, hv, hc⟩
    obtain rfl := List.mem_singleton.mp hu
    have h1 : c.node = 1 := by simpa [Tree.kids, tree, search] using hk
    rw [h1] at hv hc
    obtain rfl : v = [0] := by simpa [tree] using hv.symm
    exact hc
  refine ⟨List.pairwise_singleton _ _, by decide, fun c h => ?_, fun d h hn => ?_⟩
  · obtain rfl := List.mem_singleton.mp h
    exact ⟨⟨⟨⟨0, 0, 0⟩, by decide, by decide, [0], rfl, rfl⟩, by omega⟩, fun d hd _ => .inl (one d hd.1)⟩
  · exact absurd (by rw [one d h.1]) (hn _ (List.mem_singleton.mpr rfl))

/-- A search that follows the edges of a node to itself. -/
def endless : DescendRec := { search with child := 0, item := 1 }
def loopTree : Tree := { tree with edges := fun n => if n = 0 then [⟨0, 0, 0⟩] else [] }
def looping : State :=
  { searching with mem := tset zeros searching.mem 0x40000140 0#8, copies := [(0, { searchWalk with kind := .descend endless 0 [] })] }

theorem witness_loop : let y := looping.walkEye searchWalk 0
    ∀ m < y.g.count, (y.node m).toOption = some (loopTree.node m) ∧ (y.edges m).toOption = some (loopTree.edges m) ∧
      (y.vector m 0).toOption = some (loopTree.vec m) := by decide +kernel
theorem witness_no_leaf : ∀ last, ¬ Descends loopTree endless [0x3F800000] 64 [⟨0, 0, 0⟩] last := by
  have key : ∀ n beam last, Descends loopTree endless [0x3F800000] n beam last → beam ≠ [] → (∀ c ∈ beam, c.node = 0) → False := by
    intro n beam last h
    induction h with
    | stop n beam h =>
      intro hn h0
      obtain ⟨c, hc⟩ := List.exists_mem_of_ne_nil _ hn
      have := h c hc
      rw [h0 c hc] at this
      exact absurd this (by decide)
    | go n beam next last _ hl _ ih =>
      intro hn h0
      obtain ⟨c, hc⟩ := List.exists_mem_of_ne_nil _ hn
      refine ih ?_ fun d hd => ?_
      · rintro rfl
        have hk : loopTree.kids endless.child 0 = [0] := by decide
        have := (hl.2.2.2 ⟨0, 0, distance 0 [0x3F800000] [5]⟩ (.inr ⟨fun d hd h => by rw [h, hk]; decide,
          c, hc, by rw [h0 c hc, hk]; decide, [5], rfl, rfl⟩) (by decide)).1
        exact absurd this (by decide)
      · rcases hl.2.1 d hd with h | ⟨_, u, hu, hk, _⟩
        · exact h0 d h.1
        · rw [h0 u hu, show loopTree.kids endless.child 0 = [0] by decide] at hk
          exact List.mem_singleton.mp hk
  exact fun last h => key _ _ _ h (by decide) (by decide)
/-- The query's result: node 1's id at distance 1.0, and one padded entry (R307 to R309). -/
theorem test_descend : after (.copyLanding 5) searching (fun u => some ((List.range 16).map fun b => u.shByte key 0 (640 + b)))
    = some (leBytes 4 0 ++ leBytes 4 0x3F800000 ++ leBytes 4 0xFFFFFFFF ++ leBytes 4 0x7FC00000) := by decide +kernel
theorem witness_distance : (FFmt.f32.decode (distance 1 [0x3F800000] [0x40000000])).isNan = false ∧ ¬ isNaN 0x3F800000#32 ∧ isNaN 0x7FC00000#32 := by
  decide +kernel
theorem witness_bag_again : ∃ c, c = { bagging with kind := .embed embedRec (some 0) } ∧ aget (embedded [(0, c)] [(5, bagRange)]).copies 0 = some c ∧
    c.open = true ∧ c.next < c.total := ⟨_, rfl, by decide +kernel⟩

/-- A pair that names a word of main memory in the image's page. -/
def reducing : Team → Team := holds [(8, 0x40000400#32), (16, 7#32)]

theorem witness_reduction_main : let x := ready reducing
    let s := imaged reducing
    Runs (.scatred .addI32 8 16) s 0 x ∧ contributionsOf x (fun l => x.rd 0 8 1 l ++ x.rd 0 8 0 l) (x.rd 1 16 0) = (0x40000400, [7#32]) :: [] ∧
    x.deniedAt 0x40000400 = false ∧ s.codePage (s.rootOf 0) 0x40000400 = false ∧ s.pa? (s.rootOf 0) 0x40000400 .write = some 0x40000400 ∧
    ({ x with denied := [16384] } : Team).deniedAt 0x40000400 = true ∧ x.redDrop = none ∧
    ∃ k, (world reducing).xlate (s.rootOf 0) 0x40000400 .write = .fault k := by
  refine ⟨by decide +kernel, by decide +kernel, by decide +kernel, by decide +kernel, by decide +kernel, by decide +kernel, by decide +kernel, _, rfl⟩
theorem witness_reduction_target_main : let s := packeted (.red .addF32 0 0 8 0#512 0x8 [0x3F800000#32, 0x40000000#32])
    aget s.forms (8 / 4096) = none ∧ s.mayArrive 3 ⟨0, 0, 0, .red .addF32 0 0 8 0#512 0x8 [0x3F800000#32, 0x40000000#32], .core 0, .slice 0, 0, 0, 0, 0#48⟩ = true :=
  ⟨by decide +kernel, lone_arrives rfl rfl⟩
theorem witness_send_late : let f := fun x : Team => { sendingTeam x with todo := { packets := [(0, [9#32])], begun := true } }
    Runs (.amsend 8 16) (sending f) 0 (ready f) ∧ (ready f).todo.begun = true ∧ (sending f).allowance 0 ((sending f).physical 0 / 3) ≠ 0 := by decide +kernel
/-- A core outside the cluster, and a target that is there (R327). -/
theorem witness_send_core : let s := sending sendingTeam
    let w := (s.chartWord 0 0).toNat
    ((s.record? 0).map fun r => (r.clusters, r.handlers)) = some (1, 1) ∧ (∃ p < chartArea w, chartPlace w p = 0) ∧ ¬ ∃ p < chartArea w, chartPlace w p = 1 := by
  decide +kernel
theorem witness_class_credit : let s := (world fun x => { x with park := some (.allowance 98) })
    s.allowance 0 98 ≠ 0 ∧ ∃ p ∈ s.teams, p.2.core = 0 ∧ p.2.park = some (.allowance 98) :=
  ⟨by decide +kernel, _, .head _, rfl, rfl⟩
theorem witness_link_events : let s : State := { wd with links := [(0, { replay := [3#16, 4#16] }), (1, { missing := some 3#16, replay := [4#16], held := [4#16] }), (2, { audit := some (4#16, 0), recv := 4#16 })] }
    ((s.link 0).missing = none ∧ (s.link 0).replay = 3#16 :: [4#16]) ∧ (s.link 1).missing = some 3#16 ∧ 3#16 ∉ (s.link 1).replay ∧
    ({ s.link 1 with replay := [3#16, 4#16] } : Link).replay.contains 3#16 = true ∧ (s.link 2).audit = some (4#16, 0) ∧ (s.link 2).missing = none ∧
    (s.link 2).recv - (s.link 2).beyond = 4#16 ∧ (s.packets.map (·.1)).Nodup ∧ ∀ p ∈ s.packets, 0 ∉ p.2.links := by decide +kernel
/-- The lost flit is requested, and the later ones are held (R335). -/
theorem test_replay : after (.linkReplayRequest 0) { wd with links := [(0, { replay := [3#16, 4#16] })] } (fun u =>
    some ((u.link 0).missing, (u.link 0).held, u.replies)) = some (some 3#16, [4#16], [.replay 0 3]) := by decide +kernel
theorem witness_vector_turn : let r : Report := illegal 9#4
    let s := (waiting (.vector r)).putCore 0 { wd.core 0 with rotation := [0] }
    (s.core 0).rotation = 0 :: [] ∧ 0 ∈ (s.core 0).age ∧ (wd.core 0).rotation = [] ∧
    (aget ((((world handled).putCore 0 { wd.core 0 with rotation := [0] }).putTeam 0 (ready handled)).takeTrap 0 r).teams 0).map (·.park) = some none ∧
    ((((world handled).putCore 0 { wd.core 0 with rotation := [0] }).takeTrap 0 r).core 0).rotation = [0] ∧
    ∃ k va, wd.clauseFault 0 0x30000#52 = some (k, va) ∧ ({ tm with denied := [va / 65536] } : Team).deniedAt va = true :=
  ⟨by decide +kernel, by decide +kernel, by decide +kernel, by decide +kernel, by decide +kernel, _, _, rfl, by decide +kernel⟩
/-- A team whose image A is to be written. -/
def capturing (ps : List Nat) (h : Bool) : Team := { tm.captureNow with planes := ps, headQueued := h }

theorem witness_image_writes : let s := (imaged id).putTeam 0 (capturing [3] true)
    s.windowVa tm = 0x100000 ∧ (∀ d ∈ s.dies, ∀ f ∈ d.2.faults ++ d.2.waiting, f.who ≠ .image 0) ∧ (capturing [3] true).lost = [] ∧
    (capturing [3] true).capture.isSome = true ∧ (capturing [3] true).headQueued = true ∧ (capturing [3] false).planes = 3 :: [] ∧
    s.codePage 0#48 0x101180 = false ∧ (∃ k, s.xlate 0#48 0x101180 .write = .fault k) := by
  refine ⟨by decide +kernel, by decide +kernel, rfl, by decide +kernel, rfl, rfl, by decide +kernel, _, rfl⟩
/-- The module with its windows mapped. -/
def windowed (x : Team) : State :=
  let e : TlbEntry := { root := 0#48, page := 16, frame := 16384, r := true, w := true, x := false, c := false, key := 1 }
  { wd.putTeam 0 x with tlb := e :: wd.tlb }

theorem witness_image_clear : let s := windowed (capturing [3] false)
    (∀ k < 128, s.codePage 0#48 (0x101180 + k) = false) ∧ ∀ v ∈ touched 0x101180 128, (s.pa? 0#48 v .write).isSome = true := by decide +kernel
theorem witness_header_clear : ∃ c, (capturing [3] true).capture = some c ∧ ∀ w ∈ c.head,
    (∀ k < 4 * w.2.length, (windowed (capturing [3] true)).codePage 0#48 (0x100000 + w.1 + k) = false) ∧
    ∀ v ∈ touched (0x100000 + w.1) (4 * w.2.length), ((windowed (capturing [3] true)).pa? 0#48 v .write).isSome = true := ⟨_, rfl, by decide +kernel⟩
/-- Plane 3 of image A lies behind the header: lane row 3 of register 0 (R354). -/
theorem test_plane : after (.checkpointPlaneWrite 0) (windowed { capturing [3] false with capture := tm.captureNow.capture.map fun c => { c with regs := [(96, 0xAB#32)] } })
    (fun u => some (u.vaBytes 0#48 .read 0x101180 2, (aget u.teams 0).map (·.planes))) = some ([0xAB#8, 0#8], some []) := by decide +kernel
theorem witness_answer_asked : let s := { (waiting .fetch).raiseFault 0 0 (.team 0) 1 0x10000 with asked := [(0#48, 1)] }
    (wd.queue 0).cfg.map (fun c => (c.root, c.requester)) = some (0#48, asks.who) ∧ (0#48, 1) ∈ s.asked ∧
    (∃ d ∈ s.dies, ∃ f ∈ d.2.faults ++ d.2.waiting, f.root = 0#48 ∧ f.page = 1 ∧ f.who = .team 0) ∧ (0x10000#64).toNat % 2 ^ 16 = 0 := by decide +kernel
theorem witness_tlbinv_outstanding : let s := packeted (.red .addI32 0 0 8 0#512 0x20000 [5#32])
    ∃ p ∈ s.packets, ∃ o d pa key v vs y, p.2.kind = .red o 0 d pa key v vs ∧ aget s.teams p.2.team = some y ∧ s.rootOf y.launch = s.rootOf tm.launch ∧
      0x20000 ≤ v.toNat ∧ v.toNat < 0x20000 + 2 ^ 16 * 1 :=
  ⟨_, .head _, _, _, _, _, _, _, _, rfl, rfl, rfl, by decide, by decide⟩
theorem witness_store_room : let s := waiting (.dusk [0])
    (s.core 0).linesWith [0] ≤ 4096 ∧ come s 0 tm (.duskStallRelease 0) (.dusk [0]) := ⟨by decide +kernel, .inl (by decide +kernel)⟩
theorem witness_erred_wait : let b := { bar2 with err := some 0#32 }
    (barred b).barrier? 0#32 = some b ∧ isOver (barred b) (.bwait 0#32 0#32 4 1#1024) :=
  ⟨by decide +kernel, .inr (.inr ⟨_, rfl, .inl (by decide)⟩)⟩

/-- A deterministic launch of two clusters, of which the first two share core 0. -/
def batched : State :=
  let l : Launch := { queue := 0, seq := 1, hdr := { placeRecord with flags := 1#32, clusters := 2, regs := 16 }, chart := [0x1100#32, 0x1100#32], places := [0, 0], roles := [], args := [] }
  { State.reset with launches := [(1, l)], nextId := 2 }

theorem witness_admission_one : Together { queue := 0, seq := 1, hdr := placeRecord, chart := [0x1100#32], places := [0], roles := [], args := [] } 1 := by
  refine ⟨by decide, by decide, ?_⟩
  rw [if_pos (by decide)]
theorem witness_admission_batch : ∃ l, aget batched.launches 1 = some l ∧ batched.itsTurn 1 l = true ∧ batched.batchFits 1 l l.batch = true ∧
    batched.overtaken l (batchCores l.batch) = false ∧ Together l 2 := by
  refine ⟨_, rfl, by decide +kernel, by decide +kernel, by decide +kernel, by decide, by decide, ?_⟩
  rw [if_neg (by decide)]
  refine ⟨?_, ?_⟩
  · intro i j a b h1 h2 h3 ha hb
    obtain ⟨hj, -⟩ := List.getElem?_eq_some_iff.mp hb
    simp at hj h3; omega
  · intro m h1 h2 h
    obtain rfl : m = 1 := by omega
    exact h 0 1 0x1100#32 0x1100#32 (by decide) (by decide) (by decide) rfl rfl ⟨0, 0, by decide +kernel, by decide +kernel, rfl⟩

theorem witness_found : let s := { owned with defects := { cores := [5], engines := [3], links := [2], ports := [1] } }
    Owner s signed ∧ s.phase = .ready ∧ 5 ∈ s.defects.cores ∧ 2 ∈ s.defects.links := by unfold Owner; decide +kernel
theorem test_bring_up : after .powerOn { State.reset with defects := { cores := [5], links := [2], ports := [1] } }
    (fun u => some (u.failedCores, (u.link 2).up, u.downPorts, u.events.map (·.kind))) = some ([5], false, [1], [7]) := by decide +kernel
theorem witness_core_image : let s := windowed (capturing [] false)
    let k := { s.core 0 with queue := [], arriving := [] }
    (s.core 0).age.Nodup ∧ k.queue = [] ∧ k.arriving = [] ∧ (capturing [] false).lanes ≤ 1024 ∧ (capturing [] false).regsN ≤ 256 ∧ (capturing [] false).headQueued = false := by
  decide +kernel
theorem witness_core_busy : let s := wd.putCore 0 { wd.core 0 with arriving := [arriving none], owner := some 0 }
    (s.core 0).arriving ≠ [] ∧ (s.core 0).owner = some 0 ∧ (aget s.launches 0).isSome = true := by decide +kernel
theorem witness_no_spare : let s := { wd with failedCores := [3, 4, 5] }
    ∀ q, ¬ (q / 6 = s.physical 0 / 6 ∧ q ∉ s.failedCores ∧ ∀ k < 256, s.physical k ≠ q) := by
  intro s q ⟨h, hf, hk⟩
  have h0 : s.physical 0 / 6 = 0 := by decide +kernel
  rw [h0] at h
  have : q < 6 := by omega
  interval_cases q <;> first | exact hf (by decide) | exact hk 0 (by decide) (by decide +kernel) | exact hk 1 (by decide) (by decide +kernel) | exact hk 2 (by decide) (by decide +kernel)
theorem witness_power_step : ∃ u, advance State.reset = .next u := ⟨_, rfl⟩
/-- CRC-32C of 32 zero bytes (RFC 3720). -/
theorem test_crc : crc32c (List.replicate 32 0#8) = 0x8A9136AA#32 := by decide +kernel

open Sys2Proof.Claims
/-- An entry is read whatever its place behind the cursor (R188). -/
theorem witness_entry : ∃ r p c, staged.record? 0 = some r ∧ staged.place? key 0 = some p ∧
    staged.stageEntry ((ready (holds [(8, 2#32)])).issued (.cstage 4 8)) p r 0 1 = .ok c := by
  have h : (match staged.record? 0, staged.place? key 0 with
    | some r, some p => (staged.stageEntry ((ready (holds [(8, 2#32)])).issued (.cstage 4 8)) p r 0 1).toOption.isSome
    | _, _ => false) = true := by decide +kernel
  revert h
  cases staged.record? 0 <;> cases staged.place? key 0 <;> simp only [Bool.false_eq_true, false_implies]
  rename_i r p
  intro h
  rcases e : staged.stageEntry ((ready (holds [(8, 2#32)])).issued (.cstage 4 8)) p r 0 1 with _ | c
  · rw [e] at h; cases h
  · exact ⟨r, p, c, rfl, rfl, e⟩
/-- The schedule whose first entry has a reserved bit set. -/
def malformed : State :=
  inMain { world id with launches := (recorded fun r => { r with sched := 0x10800#64, schedN := 1 }).launches } 0x10800 [(0, 4, 9)]

theorem witness_malformed_entry : (malformed.place? key 0).isSome = true ∧ ((malformed.record? 0).bind fun r => (malformed.place? key 0).map fun p =>
    let raw := entryBytes malformed tm p r 0
    (malformed.faultIn (malformed.rootOf 0) (r.sched.toNat + 160 * ((p.cursor + 0) % r.schedN)) 160 .read,
      ([16, 18, 17].filter fun k => (littleAt raw 0 4).testBit k).length, littleAt raw 0 4 % 4)) = some (none, 0, 1) := by
  decide +kernel

/-- The copy to another place. -/
def copyingTo (l : Loc) : Copy := { copying with dst := l }

/-- Its range. -/
def rangeTo (l : Loc) : Range := { copyRange with dest := l.dest, start := l.addr }

/-- An element of the copy can be read and written. -/
def lands (s : State) (l : Loc) : Prop :=
  s.canLand 5 (rangeTo l) 0 = true ∧ (rangeTo l).place = none ∧ ∃ bs v clip w, s.elementRead 0 (copyingTo l) entry = (.ok bs v, clip) ∧
    bs.length = entry.size ∧ v.engineCheck 0 none { l with addr := l.addr + entry.dstOff 0 } entry.size = .ok [] w

theorem witness_landing_scratchpad : lands (copied (copyingTo ⟨.sp 0, 0⟩) (rangeTo ⟨.sp 0, 0⟩)) ⟨.sp 0, 0⟩ :=
  ⟨by decide +kernel, rfl, _, _, _, _, rfl, rfl, rfl⟩
theorem witness_landing_b : lands (copied (copyingTo ⟨.bst 0, 0⟩) (rangeTo ⟨.bst 0, 0⟩)) ⟨.bst 0, 0⟩ ∧ (wd.core 0).owner = some 0 :=
  ⟨⟨by decide +kernel, rfl, _, _, _, _, rfl, rfl, rfl⟩, by decide +kernel⟩
theorem witness_landing_main : let l : Loc := ⟨.main, 0x40000400⟩
    lands { imaged id with copies := [(0, copyingTo l)], ranges := [(5, rangeTo l)] } l :=
  ⟨by decide +kernel, rfl, _, _, _, _, rfl, rfl, rfl⟩
/-- A peer that is there takes the element, where the free choice has it there (R338). -/
theorem witness_landing_peer (w : State) (h : peered.choose 2 = (0, w)) : peered.engineCheck 0 none ⟨.peer 0, 0⟩ 4 = .ok [] w := by
  have u : peered.peerUp (peered.queueOf 0) 0 = true := by decide +kernel
  simp [State.engineCheck, u, h]
theorem witness_main_memory : ∀ i, i < [1#8, 2#8].length → ∃ e, (imaged id).xlate 0#48 (0x4000FFFE + i) .write = .ok e ∧ e.key = 1 ∧ e.pa (0x4000FFFE + i) = 0x4000FFFE + i := by
  intro i h
  have : i = 0 ∨ i = 1 := by simp at h; omega
  rcases this with rfl | rfl <;> exact ⟨_, rfl, by decide +kernel, by decide +kernel⟩

/-- A combine group of one contribution. -/
def lone : Copy := { copying with kind := .copy { entry with combine := 1, contrib := 1, acc := true } }

theorem witness_combined : let e := { entry with combine := 1, contrib := 1, acc := true }
    let s := copied lone copyRange
    lone.kind = .copy e ∧ aget s.copies 0 = some lone ∧ lone.open = true ∧ s.canLand 5 copyRange 0 = true ∧ s.groupReady 0 = true ∧
    s.groupOf 0 = [(0, lone, e)] ∧ copyRange.place = none ∧ copyRange.dest = lone.dst.dest ∧ ∃ vs v w old z, gather s [(0, lone, e)] = .ok (vs, v) ∧
      v.engineCheck 0 none ⟨.sh key 0, 0⟩ 4 = .ok [] w ∧ w.earlier 0 none ⟨.sh key 0, 0⟩ = .ok old z :=
  ⟨rfl, by decide +kernel, by decide +kernel, by decide +kernel, by decide +kernel, by decide +kernel, rfl, rfl, _, _, _, _, _, rfl, rfl, rfl⟩
theorem witness_its_completion : let c := { copying with next := 2 }
    (copied c copyRange).itsCompletion c.range = true := by decide +kernel

/-- MARK of slot 1 of node 0 from its slot 0 (R284). -/
theorem witness_mark_copies : let w := waveOn .mark { types := 1, present := 1, control := 17#32 }
    let s := graphed id [(0, w)] []
    let y := s.eye w
    aget s.waves 0 = some w ∧ w.phase = .held ∧ w.err = 0 ∧ s.waveHeld w = false ∧ s.waveIdle 0 = true ∧ w.wrec.mode = 2 ∧
    (∀ n ∈ w.wrec.range (s.graph 0), (y.node n).toOption = some (node n)) ∧
    ((w.wrec.range (s.graph 0)).filter fun n => w.wrec.admits (node n)) = [0] ∧ (y.slot 0 w.wrec.copySlot).toOption = some [5#32] ∧
    (y.canWrite [y.presWrite 0 (node 0).pres 1 true, y.slotWrite 0 1 ([5#32].map (convertedTo 4 4))]).toOption = some () := by decide +kernel
/-- A hop that counts (R286): slot 1 of node 1 takes the number of its contributions. -/
theorem witness_hop_counts : let w := { hopping with wrec := { hopping.wrec with control := 0xC08#32 } }
    let s := graphed id [(0, w)] []
    let y := s.eye w
    w.wrec.combine = 6 ∧ s.waveOver w = false ∧ s.waveIdle 0 = true ∧ arrived 6 4 1 [[5#32]] none = [1#32] ∧
    (y.canWrite [y.presWrite 1 0 1 true, y.arrivalWrite 1 1, y.slotWrite 1 1 [1#32]]).toOption = some () := by decide +kernel
/-- FP32 elements along an edge of weight 2 (R286), and joined. -/
theorem test_transfers : sentAs 3 1 0x4000 0x3FC00000#32 = 0x40400000#32 ∧ sentAs 3 2 0x4000 0x3FC00000#32 = 0x40600000#32 := by decide +kernel

/-! Worked values over several parts of the state. -/

/-- The three words of R161: the first two share a lock, the third does not share theirs. -/
theorem test_lock_bits : lockOf 0 = lockOf 0x4800 ∧ lockOf 0x1800 ≠ lockOf 0 ∧ lockOf 0x1800 / 8 = lockOf 0 / 8 := by decide +kernel

/-- R239's worked SPCMP: the kept values and the indices. -/
theorem test_spcmp : gives (.spcmp 20 18 9) [(9, 5#32), (18, 0x0005FB03#32), (19, 0x010705FB#32)] 20 = some 0x07FB05FB#32 ∧
    gives (.spcmp 20 18 9) [(9, 5#32), (18, 0x0005FB03#32), (19, 0x010705FB#32)] 21 = some 0x00000D11#32 := by decide +kernel

/-- The worked step of spec/09_matrix.md, in lane 0: its B bytes, and the words of its A span. -/
def stepCore : Core :=
  { bst := (List.range 64).map (fun k => (20480 + k, 3#8)) ++ [(30721, 0x34#8), (30723, 0x34#8)] }
def stepWords : List Word := List.replicate 16 0x82828282#32 ++ [0x3C003800#32, 0#32, 0#32, 0#32, 0x8080#32, 0#32]

/-- Accumulator (0, 0) after the step and after its first block: 36 and 12. -/
theorem test_matrix_step : stepCore.passElem (stepOf false 0x01280302#32 0x1156#32) ⟨0, wordByte stepWords, none⟩ 4 0 5#56
    = 0x40420000000000#56 := by decide +kernel
theorem test_matrix_block : stepCore.passElem (stepOf false 0x01280302#32 0x1156#32) ⟨0, wordByte stepWords, none⟩ 1 0 5#56
    = 0x40280000000000#56 := by decide +kernel
/-- MXREAD of the worked step's result (spec/09_matrix.md). -/
theorem test_mxread : after (.mxread 40 0 10) ((world (holds [(11, 0x1156#32)])).putCore 0 { wd.core 0 with acc := [(0, 0x40420000000000#56)] })
    (fun u => (aget u.teams 0).map (·.reg 40 0)) = some 0x5080#32 := by decide +kernel

/-- A store byte by byte, lowest first, and the load of it (R5). -/
theorem test_store_order : after (.stSh .w32 4 8 0) (world lastWord) (fun u => some (u.shByte key 0 4092, u.shByte key 0 4095)) = some (0x78#8, 0x12#8) := by
  decide +kernel
theorem test_load_sign : after (.ldSh .i8 4 8 1) (inShared (world (holds [(8, 2#32)])) [(3, 1, 0x80)]) (fun u => (aget u.teams 0).map (·.reg 4 0))
    = some 0xFFFFFF80#32 := by decide +kernel
/-- An offset is scaled by the access size, and is signed (R166). -/
theorem test_load_offset : after (.ldSh .n16 4 8 0x7F) (inShared (world (holds [(8, 4#32)])) [(2, 2, 0xBEEF)]) (fun u => (aget u.teams 0).map (·.reg 4 0))
    = some 0xBEEF#32 := by decide +kernel
/-- A store to the scratchpad is the core's own until it is published (R170). -/
theorem test_scratchpad_unpublished : after (.stSp .w32 4 8 0) (world lastWord) (fun u => some ((u.core 0).unpub.length, (u.die 0).pubs.length)) = some (4, 0) := by
  decide +kernel
/-- DUSK publishes (R173). -/
theorem test_dusk : after (.stSp .w32 4 8 0) (world lastWord) (fun u => after (.dusk .die) u fun v =>
    some ((v.core 0).unpub.length, (v.die 0).pubs.length, v.spLatest 0 4092)) = some (0, 1, 0x78#8) := by decide +kernel
/-- CAS writes its second word where the first matches (R182). -/
theorem test_cas : after (.atomSh .cas 4 8 0) (inShared (world (holds [(4, 7#32), (5, 9#32)])) [(0, 4, 7)])
    (fun u => (aget u.teams 0).map fun x => (x.reg 4 0, u.shByte key 0 0)) = some (7#32, 9#8) := by decide +kernel
/-- A misaligned load with no handler ends the launch with cause 3 and subcode 1 in its event (R164, R345). -/
theorem test_misaligned : trapped (.ldSh .n32 4 8 0) (world (holds [(8, 2#32)])) = some (1, 0x301#32) := by decide +kernel
/-- A role without the class traps with cause 2 (R91). -/
theorem test_role : trapped (.cstage 4 8) (world (withRole 2)) = some (1, 0x200#32) := by decide +kernel
/-- TRAP, and a trap's handler: the team stands at TVEC (R343, R417). -/
theorem test_trap : trapped (.trap 8) wd = some (1, 0x1200#32) := by decide +kernel
theorem test_handler : after (.trap 8) (world handled) (fun u => (aget u.teams 0).map fun x => (x.clause, x.trap.cause, x.started)) = some (20#52, 0x1200#32, false) := by
  decide +kernel
/-- BALLOC's handle of the first barrier of die 0, and CREAD of a counter in shared memory (R211, R210). -/
theorem test_balloc : gives (.balloc 4 8 16) [(8, 2#32)] 4 = some 0#32 := by decide +kernel
theorem test_cread : after (.cread 4 8) (inShared (world (holds [(8, 0x40000008#32)])) [(8, 8, 0x0000000500000007)]) (fun u => (aget u.teams 0).map fun x =>
    (x.reg 4 0, x.reg 5 0)) = some (7#32, 5#32) := by decide +kernel
/-- IDR.ARCH (R112), SYSRD of a compute island's clock (R349), MDREAD of a metadata register (R217). -/
theorem test_idr : gives (.idr .arch 4) [] 4 = some 0x00B00401#32 := by decide +kernel
theorem test_sysrd : gives (.sysrd 4 14) [] 4 = some 2000#32 := by decide +kernel
/-- MPUSH writes the old activity, and keeps the lanes whose predicate is not 0 (R105). -/
theorem test_mpush : after (.mpush 4 8) wd (fun u => (aget u.teams 0).map fun x => (x.reg 4 0, x.ctx.mask)) = some (1#32, 0#1024) := by decide +kernel
/-- CMPU.I32 of −1 and 1: N, and C as naturals (R104). -/
theorem test_cmpu : after (.cmpu .i32 8 9) (world (holds [(8, 0xFFFFFFFF#32), (9, 1#32)])) (fun u => (aget u.teams 0).map (·.ctx.cc))
    = some { z := false, n := true, c := true, v := false } := by decide +kernel
/-- CALL leaves the offset of the header behind the clause in o7 (R103). -/
theorem test_call : after (.call 0) wd (fun u => (aget u.teams 0).map fun x => (tget zeros x.ofile (7 * 1024), x.clause)) = some (20#32, 0#52) := by decide +kernel
/-- An EVENT reaches the host (R366). -/
theorem test_event : after (.event 8 16) (world (holds [(8, 5#32), (16, 6#32)])) (fun u => (u.events.map fun e => (e.kind, e.code, e.addr)).head?) = some (9, 5#32, 6#64) := by
  decide +kernel
/-- HALT of a launch's last team ends it, with an event of kind 1 (R101, R341). -/
theorem test_launch_ends : after .halt wd (fun u => some (u.teams.length, (u.events.map (·.kind)))) = some (0, [1]) := by decide +kernel
/-- Right after reset a step with nothing to do changes only whose turn it is. -/
theorem test_reset_idles : (match step State.reset with | .next u => decide (u.mem = [] ∧ u.teams = [] ∧ u.phase = .ready) | _ => false) = true := by decide +kernel
/-- The first step after reset runs the placed word (log 1): MOVI. -/
theorem test_first_step : (match step (State.reset.withFetchWord 32 0x3A013FFB) with
    | .next u => (aget u.teams 0).map (·.reg 4 0)
    | _ => none) = some 0xFFFFFFFB#32 := by decide +kernel

end Sys2Proof.Tests
end

section
/-!
SUPPORT. The family of control instructions: the flags of CMPU (R104), branches (R54, R102), stage rings (R92, R109), and the
obligations about them.
-/

namespace Sys2Proof.Control

open Sys2Proof.Machine Sys2Proof.Claims

/-! The order of FP32 numbers (R104): the magnitude of a pattern grows strictly with its bits 30:0, so that comparing decoded values is
comparing keys. -/

/-- The magnitude, in units of 2^-149, of the finite FP32 number with bits 30:0 as given: a subnormal's fraction as it is, else the
fraction with its hidden bit, scaled by the exponent (R58). -/
def magnitude (k : Nat) : Nat := if k / 2 ^ 23 = 0 then k else (2 ^ 23 + k % 2 ^ 23) * 2 ^ (k / 2 ^ 23 - 1)

theorem magnitude_of_lt {k : Nat} (h : k < 2 ^ 23) : magnitude k = k := by
  rw [magnitude, if_pos (Nat.div_eq_of_lt h)]

theorem magnitude_of_exponent {k e : Nat} (h : k / 2 ^ 23 = e + 1) : magnitude k = (2 ^ 23 + k % 2 ^ 23) * 2 ^ e := by
  rw [magnitude, h, if_neg (by omega), Nat.add_sub_cancel]

theorem magnitude_lt_succ (k : Nat) : magnitude k < magnitude (k + 1) := by
  rcases he : k / 2 ^ 23 with _ | e
  · have hk : magnitude k = k := magnitude_of_lt (by omega)
    by_cases hc : k + 1 < 2 ^ 23
    · rw [hk, magnitude_of_lt hc]; omega
    · rw [hk, magnitude_of_exponent (e := 0) (by omega)]; omega
  · rw [magnitude_of_exponent he]
    have hp : 0 < 2 ^ e := by positivity
    by_cases hc : (k + 1) / 2 ^ 23 = e + 1
    · rw [magnitude_of_exponent hc]
      exact Nat.mul_lt_mul_of_pos_right (by omega) hp
    · rw [magnitude_of_exponent (e := e + 1) (by omega), show k % 2 ^ 23 = 2 ^ 23 - 1 by omega,
        show (k + 1) % 2 ^ 23 = 0 by omega, pow_succ 2 e]
      omega

theorem magnitude_strictMono : StrictMono magnitude := strictMono_nat_of_lt_succ magnitude_lt_succ

/-- A natural number with a sign. -/
def signed (neg : Bool) (n : Nat) : Int := if neg then -(n : Int) else n

theorem orderKey_eq_signed (a : Word) : orderKey a = signed a.msb (a.toNat % 2 ^ 31) := rfl

/-- A strictly growing function of the magnitude, 0 at 0, keeps the order of signed numbers. -/
theorem signed_lt_map {f : Nat → Nat} (hf : StrictMono f) (h0 : f 0 = 0) (s t : Bool) (k l : Nat) :
    signed s (f k) < signed t (f l) ↔ signed s k < signed t l := by
  have hlt : f k < f l ↔ k < l := hf.lt_iff_lt
  have hgt : f l < f k ↔ l < k := hf.lt_iff_lt
  have hk : f 0 < f k ↔ 0 < k := hf.lt_iff_lt
  have hl : f 0 < f l ↔ 0 < l := hf.lt_iff_lt
  cases s <;> cases t <;> simp only [signed, Bool.false_eq_true, if_true, if_false] <;> omega

theorem compare_signed_map {f : Nat → Nat} (hf : StrictMono f) (h0 : f 0 = 0) (s t : Bool) (k l : Nat) :
    compare (signed s (f k)) (signed t (f l)) = compare (signed s k) (signed t l) := by
  have hlt := signed_lt_map hf h0 s t k l
  have hgt := signed_lt_map hf h0 t s l k
  rcases lt_trichotomy (signed s k) (signed t l) with h | h | h
  · rw [compare_lt_iff_lt.mpr h, compare_lt_iff_lt.mpr (hlt.mpr h)]
  · rw [compare_eq_iff_eq.mpr h, compare_eq_iff_eq.mpr]; omega
  · rw [compare_gt_iff_gt.mpr h, compare_gt_iff_gt.mpr (hgt.mpr h)]

/-- Finite values with exponents from a common base compare as the integers they are multiples of. -/
theorem compare_fin (s t : Bool) (m n d g : Nat) (z : Int) :
    (FVal.fin s m (d + z)).compare (.fin t n (g + z)) = some (compare (signed s (m * 2 ^ d)) (signed t (n * 2 ^ g))) := by
  have hd : (d + z - min (d + z) (g + z)).toNat + min d g = d := by omega
  have hg : (g + z - min (d + z) (g + z)).toNat + min d g = g := by omega
  have hf : StrictMono fun k : Nat => k * 2 ^ min d g := fun a b h => Nat.mul_lt_mul_of_pos_right h (by positivity)
  have h := compare_signed_map hf (Nat.zero_mul _) s t
    (m * 2 ^ (d + z - min (d + z) (g + z)).toNat) (n * 2 ^ (g + z - min (d + z) (g + z)).toNat)
  simp only [Nat.mul_assoc, ← pow_add, hd, hg] at h
  rw [h]
  rfl

/-- What an FP32 pattern stands for, by its exponent and fraction (R58, R61). -/
theorem decode_f32 (a : Word) {k : Nat} (hk : k = a.toNat % 2 ^ 31) : FFmt.f32.decode a.toNat =
    if k / 2 ^ 23 = 255 then (if k % 2 ^ 23 = 0 then .inf a.msb else .nan a.msb (k % 2 ^ 23))
    else if k / 2 ^ 23 = 0 then .fin a.msb (k % 2 ^ 23) (-149)
    else .fin a.msb (2 ^ 23 + k % 2 ^ 23) ((k / 2 ^ 23 : Nat) - 127 - 23) := by
  have hsign : (a.toNat / FFmt.f32.signBit % 2 == 1) = a.msb := by
    rw [BitVec.msb_eq_decide, beq_eq_decide, decide_eq_decide]
    have := a.isLt
    simp only [FFmt.signBit, FFmt.f32]
    omega
  have hexp : a.toNat / 2 ^ FFmt.f32.fb % 2 ^ FFmt.f32.eb = k / 2 ^ 23 := by simp only [FFmt.f32]; omega
  have hfrac : a.toNat % 2 ^ FFmt.f32.fb = k % 2 ^ 23 := by simp only [FFmt.f32]; omega
  unfold FFmt.decode
  simp only [hsign, hexp, hfrac]
  by_cases h : k / 2 ^ 23 = 255
  · rw [if_pos ⟨h, rfl⟩, if_pos h]
  · rw [if_neg fun c => h c.1, if_neg fun c => h c.1, if_neg h]
    rfl

theorem decode_isNaN {a : Word} (h : isNaN a) : ∃ s fr, FFmt.f32.decode a.toNat = .nan s fr := by
  rw [decode_f32 a rfl, if_pos (by omega), if_neg (by omega)]
  exact ⟨_, _, rfl⟩

theorem decode_isInf {a : Word} (h : isInf a) : FFmt.f32.decode a.toNat = .inf a.msb := by
  rw [decode_f32 a rfl, if_pos (by omega), if_pos (by omega)]

/-- A finite FP32 number is its magnitude in units of 2^-149. -/
theorem decode_finite {a : Word} (hn : ¬ isNaN a) (hi : ¬ isInf a) : ∃ m d : Nat,
    FFmt.f32.decode a.toNat = .fin a.msb m (d + -149) ∧ m * 2 ^ d = magnitude (a.toNat % 2 ^ 31) := by
  have hexp : a.toNat % 2 ^ 31 / 2 ^ 23 ≠ 255 := by omega
  rw [decode_f32 a rfl, if_neg hexp]
  rcases he : a.toNat % 2 ^ 31 / 2 ^ 23 with _ | e
  · have hk : a.toNat % 2 ^ 31 < 2 ^ 23 := by omega
    exact ⟨_, 0, by rfl, by rw [magnitude_of_lt hk, Nat.mod_eq_of_lt hk, pow_zero, Nat.mul_one]⟩
  · refine ⟨_, e, ?_, (magnitude_of_exponent he).symm⟩
    rw [if_neg (by omega)]
    congr 1
    omega

/-- Two infinities compare as their signs. -/
theorem compare_signed_same (s t : Bool) {K : Nat} (h : 0 < K) :
    compare (signed s K) (signed t K) = if s == t then .eq else if s then .lt else .gt := by
  cases s <;> cases t
  · exact compare_eq_iff_eq.mpr rfl
  · exact compare_gt_iff_gt.mpr (by show -(K : Int) < K; omega)
  · exact compare_lt_iff_lt.mpr (by show -(K : Int) < K; omega)
  · exact compare_eq_iff_eq.mpr rfl

theorem signed_strict_bounds {k K : Nat} (h : k < K) (s : Bool) : -(K : Int) < signed s k ∧ signed s k < K := by
  cases s <;> simp only [signed, Bool.false_eq_true, if_true, if_false] <;> omega

theorem compare_signed_greater (s t : Bool) {k K : Nat} (h : k < K) :
    compare (signed s K) (signed t k) = if s then .lt else .gt := by
  obtain ⟨hl, hr⟩ := signed_strict_bounds h t
  cases s
  · exact compare_gt_iff_gt.mpr hr
  · exact compare_lt_iff_lt.mpr hl

theorem compare_signed_less (s t : Bool) {k K : Nat} (h : k < K) :
    compare (signed s k) (signed t K) = if t then .gt else .lt := by
  obtain ⟨hl, hr⟩ := signed_strict_bounds h s
  cases t
  · exact compare_lt_iff_lt.mpr hr
  · exact compare_gt_iff_gt.mpr hl

/-- Numbers that are not NaNs, infinities among them, are ordered as their keys. -/
theorem compare_decode {a b : Word} (ha : ¬ isNaN a) (hb : ¬ isNaN b) :
    (FFmt.f32.decode a.toNat).compare (FFmt.f32.decode b.toNat) = some (compare (orderKey a) (orderKey b)) := by
  rw [orderKey_eq_signed, orderKey_eq_signed]
  by_cases hia : isInf a <;> by_cases hib : isInf b
  · rw [decode_isInf hia, decode_isInf hib, hia, hib, compare_signed_same _ _ (by omega)]
    rfl
  · obtain ⟨n, g, hn, -⟩ := decode_finite hb hib
    rw [decode_isInf hia, hn, hia, compare_signed_greater _ _ (by omega)]
    rfl
  · obtain ⟨m, d, hm, -⟩ := decode_finite ha hia
    rw [decode_isInf hib, hm, hib, compare_signed_less _ _ (by omega)]
    rfl
  · obtain ⟨m, d, hm, hmd⟩ := decode_finite ha hia
    obtain ⟨n, g, hn, hng⟩ := decode_finite hb hib
    rw [hm, hn, compare_fin, hmd, hng, compare_signed_map magnitude_strictMono (magnitude_of_lt (by omega))]

theorem compare_decode_isNaN {a b : Word} (h : isNaN a ∨ isNaN b) :
    (FFmt.f32.decode a.toNat).compare (FFmt.f32.decode b.toNat) = none := by
  rcases h with h | h
  · obtain ⟨s, fr, e⟩ := decode_isNaN h
    rw [e]; rfl
  · obtain ⟨s, fr, e⟩ := decode_isNaN h
    rw [e]
    cases FFmt.f32.decode a.toNat <;> rfl

/-! The flags of CMPU (R104). -/

@[simp] theorem active_issued (x : Team) (i : Instr) : (x.issued i).active = x.active := rfl

theorem sub_beq_zero (a b : Word) : (a - b == 0#32) = decide (a = b) := by
  rw [beq_eq_decide, decide_eq_decide]
  bv_omega

theorem mod32_toInt_sub (a b : Word) : mod32 (a.toInt - b.toInt) = a - b :=
  BitVec.eq_of_toInt_eq (by rw [mod32, BitVec.toInt_ofInt, BitVec.toInt_sub])

/-- The wrapped difference is the exact one unless that lies outside the signed range. -/
theorem subOverflows_eq (a b : Word) :
    subOverflows a b = decide (a.toInt - b.toInt < -2 ^ 31 ∨ 2 ^ 31 ≤ a.toInt - b.toInt) := by
  rw [Bool.eq_iff_iff, subOverflows, bne_iff_ne, decide_eq_true_eq, BitVec.toInt_sub, Int.bmod_def]
  have ha := a.toInt_lt
  have ha' := a.le_toInt
  have hb := b.toInt_lt
  have hb' := b.le_toInt
  omega

/-- CMPU's flags are those of R104's table. -/
theorem cmpFlags_eq_compared (c : CmpT) (a b : Word) : cmpFlags c a b = compared c a b := by
  cases c with
  | i32 => simp only [cmpFlags, compared, sub_beq_zero, subOverflows_eq, mod32_toInt_sub, ge_iff_le]
  | n32 => simp only [cmpFlags, compared, sub_beq_zero, ge_iff_le]
  | f32 =>
    by_cases hn : isNaN a ∨ isNaN b
    · simp only [cmpFlags, compared, compare_decode_isNaN hn, if_pos hn]
    · obtain ⟨ha, hb⟩ := not_or.mp hn
      simp only [cmpFlags, compared, compare_decode ha hb, if_neg hn]
      rcases lt_trichotomy (orderKey a) (orderKey b) with h | h | h
      · rw [compare_lt_iff_lt.mpr h, if_neg h.ne, if_pos h]
      · rw [compare_eq_iff_eq.mpr h, if_pos h]
      · rw [compare_gt_iff_gt.mpr h, if_neg h.ne', if_neg h.not_gt]

/-! Branches (R54, R102). -/

theorem condHolds_iff_taken (f : CondCode) (c : Cond) : condHolds f c = true ↔ taken f c := by
  cases c <;> simp [condHolds, taken]

theorem ma_iff_allActive (x : Team) : x.ma = true ↔ allActive x := by
  simp only [Team.ma, Team.all, allActive, Team.act, List.all_eq_true, List.mem_range, Bool.and_eq_true, decide_eq_true_eq,
    Nat.lt_min]
  exact ⟨fun h l hl hm => ⟨hl, h l ⟨hl, hm⟩⟩, fun h l hl => (h l hl.1 hl.2).2⟩

theorem maskHolds_iff_takenMask (x : Team) (c : MCond) : maskHolds x c = true ↔ takenMask x c := by
  cases c with
  | mz => exact List.isEmpty_iff
  | nmz => simp [maskHolds, takenMask, Team.mz]
  | ma => exact ma_iff_allActive x
  | nma => rw [takenMask, ← ma_iff_allActive]; simp [maskHolds]

/-- A branch's target is counted in words from the header, modulo 2^52 (R28). -/
theorem branchTo_eq_headerAt (x : Team) (off : BitVec 21) : x.branchTo off = headerAt x off := by
  have hshift : off.signExtend 52 <<< 2 = BitVec.ofInt 52 4 * off.signExtend 52 := by
    rw [BitVec.shiftLeft_eq_mul_twoPow, BitVec.mul_comm]; rfl
  rw [headerAt, BitVec.ofInt_add, BitVec.ofInt_mul, BitVec.ofInt_natCast, BitVec.ofNat_toNat, BitVec.setWidth_eq,
    Team.branchTo, hshift]
  rfl

/-- A transfer to a word that is no header traps (R47). -/
theorem issue_goto_no_header {i : Instr} {s s' : State} {t : Nat} {x : Team} {body : Body} {off : BitVec 52}
    (h : Issues i s t x) (b : body t (x.issued i) (s.putTeam t (x.issued i)) = .goto off s')
    (g : s'.clauseFault x.launch off = none) (hd : isHeader (s'.codeWord x.launch off) = false) :
    issue i s body = .next ((s.putTeam t (x.issued i)).takeTrap t { Report.illegal 9#4 with word := x.word }) := by
  rw [issue_eq h, b]
  have g' : s'.clauseFault (x.issued i).launch off = none := g
  have hd' : isHeader (s'.codeWord (x.issued i).launch off) = false := hd
  simp only [State.settle, State.retireTo, g', hd', Bool.not_false, Bool.and_true, if_true]
  rfl

/-- What a branch is: its body, with its condition and its target. -/
theorem branching_exec {x : Team} {i : Instr} {c : Prop} {off : BitVec 21} (h : branching x i = some (c, off)) (s : State) :
    ∃ p : Team → Bool, exec i s = issue i s (branch p off) ∧ (p (x.issued i) = true ↔ c) := by
  unfold branching at h
  split at h
  · cases h
    exact ⟨_, rfl, condHolds_iff_taken _ _⟩
  · cases h
    exact ⟨_, rfl, maskHolds_iff_takenMask _ _⟩
  · cases h

theorem branch_taken {p : Team → Bool} {x : Team} (h : p x = true) (off : BitVec 21) (t : Nat) (s : State) :
    branch p off t x s = .goto (headerAt x off) s := by
  rw [branch, if_pos h, branchTo_eq_headerAt]

theorem branch_not_taken {p : Team → Bool} {x : Team} (h : ¬ p x = true) (off : BitVec 21) (t : Nat) (s : State) :
    branch p off t x s = .next s := by
  rw [branch, if_neg h]

/-! Stage rings (R92, R109). -/

section
variable {s : State} {t : Nat} {x : Team} {i : Instr} {q : Nat} {p : Place} {r : Ring} {sl : RingSlot}

/-- The ring that an instruction names, seen behind the checks. -/
theorem ring?_issued (hp : s.place? x.cluster x.core = some p) (hr : p.rings[q]? = some r) :
    (s.putTeam t (x.issued i)).ring? (x.issued i) q = some (p, r) := by
  have hp' : (s.putTeam t (x.issued i)).place? (x.issued i).cluster (x.issued i).core = some p := hp
  rw [State.ring?, hp', Option.bind_some, hr, Option.map_some]

/-- An index of a ring moves on by one, from the last slot to the first. -/
theorem next_slot {k : Nat} (h : r.slots[k]? = some sl) :
    (k + 1) % r.slots.length = if k + 1 = r.slots.length then 0 else k + 1 := by
  obtain ⟨hk, -⟩ := List.getElem?_eq_some_iff.mp h
  split_ifs with e
  · rw [e, Nat.mod_self]
  · exact Nat.mod_eq_of_lt (by omega)

theorem slot_getD {k : Nat} (h : r.slots[k]? = some sl) : r.slots.getD k {} = sl := by
  rw [List.getD_eq_getElem?_getD, h, Option.getD_some]

@[simp] theorem clauseFault_putPlace (k : Nat) (p : Place) (l : Nat) (off : BitVec 52) :
    (s.putPlace k p).clauseFault l off = s.clauseFault l off := by
  unfold State.putPlace
  split <;> rfl

/-- What a cluster owns on a core is no part of what a fetch sees. -/
theorem goesOn_putPlace (h : s.goesOn x) (k : Nat) (p : Place) : (s.putPlace k p).goesOn x := fun hl => by
  rw [clauseFault_putPlace, h hl]

/-- Setting C behind a result that leaves the flags. -/
theorem setC_of_ctx {x y : Team} (h : y.ctx = x.ctx) (c : Bool) :
    y.setC c = { y with ctx := { x.ctx with cc := { x.ctx.cc with c := c } } } := by
  rw [Team.setC, h]

/-- A result leaves mask, flags, float mode and window base (R34). -/
theorem wrote_ctx {x y : Team} {a : Nat → Bool} {d : Field} {n : Nat} {v : Nat → Nat → Word} (h : x.Wrote y a d n v) :
    y.ctx = x.ctx := (congrArg Team.ctx h.rest).trans rfl

theorem stgtake_dst_ok {d q : Field} (h : Issues (.stgtake d q) s t x) : Opnd.dstOk d = true :=
  operand_ok (legal_of_issues h) (o := Opnd.dst d) (List.mem_cons_self ..)

theorem exec_stgpost_empty {a q : Field} (h : Runs (.stgpost a q) s t x) (hp : s.place? x.cluster x.core = some p)
    (hr : p.rings[q.toNat]? = some r) (hs : r.slots[r.post]? = some sl) (hf : sl.full = false) :
    exec (.stgpost a q) s = .next (((s.putTeam t (x.issued (.stgpost a q))).putPlace x.cluster { p with
      rings := p.rings.set q.toNat { r with
        slots := r.slots.set r.post { full := true, phase := !sl.phase, payload := x.rdFirst 0 a },
        post := if r.post + 1 = r.slots.length then 0 else r.post + 1 } }).retired t x (.stgpost a q)) := by
  refine issue_next h.1 ?_ (goesOn_putPlace (s := s.putTeam t _) h.2 _ _)
  simp only [ring?_issued hp hr, slot_getD hs, hf, next_slot hs, Bool.false_eq_true, if_false]
  rfl

theorem exec_stgpost_full {a q : Field} (h : Issues (.stgpost a q) s t x) (hp : s.place? x.cluster x.core = some p)
    (hr : p.rings[q.toNat]? = some r) (hs : r.slots[r.post]? = some sl) (hf : sl.full = true) :
    exec (.stgpost a q) s = .next ((s.putTeam t (x.issued (.stgpost a q))).park t (.ring q.toNat true)) := by
  refine issue_wait h ?_
  simp only [ring?_issued hp hr, slot_getD hs, hf, if_true]

theorem exec_stgtake_full {d q : Field} {y : Team} (h : Runs (.stgtake d q) s t x) (hp : s.place? x.cluster x.core = some p)
    (hr : p.rings[q.toNat]? = some r) (hs : r.slots[r.take]? = some sl) (hf : sl.full = true)
    (hy : y = ((x.issued (.stgtake d q)).uniform d sl.payload).setC sl.phase) :
    exec (.stgtake d q) s = .next ((((s.putTeam t (x.issued (.stgtake d q))).putPlace x.cluster { p with
      rings := p.rings.set q.toNat { r with
        slots := r.slots.set r.take { sl with full := false },
        take := if r.take + 1 = r.slots.length then 0 else r.take + 1 } }).putTeam t y).retired t x (.stgtake d q)) := by
  subst hy
  refine issue_next h.1 ?_ (goesOn_putPlace (s := s.putTeam t _) h.2 _ _)
  simp only [ring?_issued hp hr, slot_getD hs, hf, next_slot hs, Bool.not_true, Bool.false_eq_true, if_false]
  rfl

theorem exec_stgtake_empty {d q : Field} (h : Issues (.stgtake d q) s t x) (hp : s.place? x.cluster x.core = some p)
    (hr : p.rings[q.toNat]? = some r) (hs : r.slots[r.take]? = some sl) (hf : sl.full = false) :
    exec (.stgtake d q) s = .next ((s.putTeam t (x.issued (.stgtake d q))).park t (.ring q.toNat false)) := by
  refine issue_wait h ?_
  simp only [ring?_issued hp hr, slot_getD hs, hf, Bool.not_false, if_true]

end

end Sys2Proof.Control

namespace Sys2Proof.Proofs

open Sys2Proof.Machine Sys2Proof.Claims Sys2Proof.Control

/-- Settles O7: CMPU's flags are those of R104's table, and the frame is that of an instruction on its own team. -/
theorem compare : Obligations.Compare := by
  intro c a b s t x h
  refine (issue_team h.1 h.2).trans ?_
  simp only [Team.first, cmpFlags_eq_compared, active_issued]
  cases x.active <;> rfl

/-- Settles O9: a branch's body goes to its target or on, as its condition holds or not. -/
theorem branches : Obligations.Branches := by
  intro i c off s t x hb h
  obtain ⟨p, he, hc⟩ := branching_exec hb s
  refine ⟨fun hn hg => ?_, fun ht ⟨hf, hd⟩ => ?_, fun ht hf hd => ?_⟩
  · exact he.trans (issue_next h (branch_not_taken (hn ∘ hc.mp) _ _ _) hg)
  · exact he.trans (issue_goto h (branch_taken (hc.mpr ht) _ _ _) hf hd)
  · exact he.trans (issue_goto_no_header h (branch_taken (hc.mpr ht) _ _ _) hf hd)

/-- Settles O12: a ring's slot decides between the effect and the wait, and STGTAKE's result is an ordinary one in the active lanes. -/
theorem stageRings : Obligations.StageRings := by
  refine ⟨fun a q s t x p r sl h hp hr hs => ⟨exec_stgpost_empty h hp hr hs, exec_stgpost_full h.1 hp hr hs⟩,
    fun d q s t x p r sl h hp hr hs => ⟨fun hf => ?_, exec_stgtake_empty h.1 hp hr hs⟩⟩
  have hw := result_wrote (x := x.issued (.stgtake d q)) (fun _ => sl.payload) (stgtake_dst_ok h.1)
  exact ⟨_, hw, exec_stgtake_full h hp hr hs hf (setC_of_ctx (wrote_ctx hw) _).symm⟩

end Sys2Proof.Proofs
end

section
/-!
SUPPORT. The family of integer instructions: words from integers and bit by bit, the shapes of instructions, the arithmetic class
(R121 to R126).
-/

namespace Sys2Proof.Integer

open Sys2Proof.Machine Sys2Proof.Claims

/-! Words from integers, and words bit by bit. -/

theorem mod32_natCast (n : Nat) : mod32 n = BitVec.ofNat 32 n := BitVec.ofInt_natCast 32 n

theorem mod32_toNat (a : Word) : mod32 a.toNat = a := by rw [mod32_natCast, BitVec.ofNat_toNat, BitVec.setWidth_eq]

theorem mod32_toInt (a : Word) : mod32 a.toInt = a := BitVec.ofInt_toInt

theorem mod32_add (m n : Int) : mod32 (m + n) = mod32 m + mod32 n := BitVec.ofInt_add m n

theorem mod32_mul (m n : Int) : mod32 (m * n) = mod32 m * mod32 n := BitVec.ofInt_mul m n

theorem mod32_neg (n : Int) : mod32 (-n) = -mod32 n := BitVec.ofInt_neg

theorem mod32_sub (m n : Int) : mod32 (m - n) = mod32 m - mod32 n := by
  rw [Int.sub_eq_add_neg, mod32_add, mod32_neg, BitVec.sub_eq_add_neg]

theorem toNat_mod32 (n : Int) : ((mod32 n).toNat : Int) = n % 2 ^ 32 := by
  rw [mod32, BitVec.toNat_ofInt]; omega

theorem eq_bitsOf {w : Word} {f : Nat → Bool} (h : ∀ k, k < 32 → w.getLsbD k = f k) : w = bitsOf f := by
  apply BitVec.eq_of_getLsbD_eq
  intro k hk
  rw [bitsOf, BitVec.getLsbD_ofFnLE, dif_pos hk, h k hk]

/-! From a form's word to what executing it does: one lemma for each shape of instruction (R116 to R118). -/

section
variable {i : Instr} {s : State} {t : Nat} {x : Team} {d a b d' : Field} {n : Nat} {v : Nat → Nat → Word}

/-- The first operand of an instruction that passes its checks is legal. -/
theorem head_ok {o : Opnd} {rest : List Opnd} (r : Runs i s t x) (ho : i.operands = o :: rest) : o.ok = true :=
  operand_ok (legal_of_issues r.1) (ho ▸ List.mem_cons_self ..)

/-- A register that may name a pair may be written. -/
theorem dstOk_of_pairOk (h : Opnd.pairOk d = true) : Opnd.dstOk d = true := by
  simp only [Opnd.pairOk, Opnd.dstOk, Bool.and_eq_true, Bool.or_eq_true, decide_eq_true_eq] at h ⊢
  omega

theorem one_results {f g : Word → Word} (h : one x d a f = some (d', n, v)) (r : Runs i s t x) (hg : ∀ a, g a = f a)
    (he : exec i s = lane1 i d a g s) (ho : i.operands = [.dst d, .src a]) : Results i s t x d' n v := by
  cases h
  exact team_results r (head_ok r ho) he rfl (fun _ _ _ => hg _) (by decide)

theorem two_results {f g : Word → Word → Word} (h : two x d a b f = some (d', n, v)) (r : Runs i s t x)
    (hg : ∀ a b, g a b = f a b) (he : exec i s = lane2 i d a b g s) (ho : i.operands = [.dst d, .src a, .src b]) :
    Results i s t x d' n v := by
  cases h
  exact team_results r (head_ok r ho) he rfl (fun _ _ _ => hg _ _) (by decide)

theorem three_results {f g : Word → Word → Word → Word} (h : three x d a b f = some (d', n, v)) (r : Runs i s t x)
    (hg : ∀ c a b, g c a b = f c a b) (he : exec i s = lane3 i d a b g s) (ho : i.operands = [.acc d, .src a, .src b]) :
    Results i s t x d' n v := by
  cases h
  exact team_results r (head_ok r ho) he rfl (fun _ _ _ => hg _ _ _) (by decide)

theorem twice_results {f : Nat → Word → Word → Word} {g : Word → Word → Word × Word}
    (h : twice x d a b f = some (d', n, v)) (r : Runs i s t x) (hg : ∀ a b, g a b = (f 0 a b, f 1 a b))
    (he : exec i s = lanePair i d a b g s) (ho : i.operands = [.pairDst d, .src a, .src b]) : Results i s t x d' n v := by
  cases h
  refine team_results r (dstOk_of_pairOk (head_ok r ho)) he rfl (fun o l ho => ?_) (by decide)
  have hg' := hg (x.rd 0 a 0 l) (x.rd (litCount [a]) b 0 l)
  obtain rfl | rfl : o = 0 ∨ o = 1 := by omega
  · exact congrArg Prod.fst hg'
  · exact congrArg Prod.snd hg'

end

/-! Sums, differences and products (R121 to R124). -/

theorem add_eq_mod32 (a b : Word) : a + b = mod32 (a.toNat + b.toNat) := by
  rw [mod32_add, mod32_toNat, mod32_toNat]

theorem sub_eq_mod32 (a b : Word) : a - b = mod32 (a.toNat - b.toNat) := by
  rw [mod32_sub, mod32_toNat, mod32_toNat]

/-- Bit 0 of a word, as a number. -/
theorem carry_toNat (c : Word) : (c.getLsbD 0).toNat = c.toNat % 2 := by rw [BitVec.getLsbD, Nat.toNat_testBit]; simp

theorem addcWord_eq (c a b : Word) :
    addcWord c a b = if 2 ^ 32 ≤ a.toNat + b.toNat + (c.getLsbD 0).toNat then 1#32 else 0#32 := by
  rw [carry_toNat, addcWord, Word.ofBool]
  simp only [decide_eq_true_eq]

theorem subcWord_eq (c a b : Word) :
    subcWord c a b = if (a.toNat : Int) - b.toNat - (c.getLsbD 0).toNat < 0 then 1#32 else 0#32 := by
  rw [carry_toNat, subcWord, Word.ofBool]
  simp only [decide_eq_true_eq]
  congr 1
  apply propext
  omega

theorem loWord_ofInt (p : Int) : loWord (BitVec.ofInt 64 p) = mod32 p := by
  apply BitVec.eq_of_toNat_eq
  zify
  rw [toNat_mod32, loWord, BitVec.extractLsb'_toNat, BitVec.toNat_ofInt]
  omega

theorem hiWord_ofInt (p : Int) : hiWord (BitVec.ofInt 64 p) = mod32 (p / 2 ^ 32) := by
  apply BitVec.eq_of_toNat_eq
  zify
  rw [toNat_mod32, hiWord, BitVec.extractLsb'_toNat, BitVec.toNat_ofInt, Nat.shiftRight_eq_div_pow]
  omega

theorem prodN_eq (a b : Word) : prodN a b = BitVec.ofInt 64 (prod .n32 a b) := by
  rw [prodN, prod, ← Int.natCast_mul, BitVec.ofInt_natCast]

/-- Modulo 2^32 the two readings have the same product. -/
theorem mod32_prod (a b : Word) : mod32 (prod .n32 a b) = mod32 (prod .i32 a b) := by
  simp only [prod, mod32_mul, mod32_toNat, mod32_toInt]

theorem addsWord_i32 (a b : Word) : addsWord .i32 a b = sat (-2 ^ 31) (2 ^ 31 - 1) (a.toInt + b.toInt) := rfl

theorem addsWord_n32 (a b : Word) : addsWord .n32 a b = sat 0 (2 ^ 32 - 1) (a.toNat + b.toNat) := rfl

theorem subsWord_i32 (a b : Word) : subsWord .i32 a b = sat (-2 ^ 31) (2 ^ 31 - 1) (a.toInt - b.toInt) := rfl

theorem subsWord_n32 (a b : Word) : subsWord .n32 a b = sat 0 (2 ^ 32 - 1) ((a.toNat : Int) - b.toNat) := rfl

theorem mulWord_eq (a b : Word) : loWord (prodN a b) = mod32 (prod .i32 a b) := by rw [prodN_eq, loWord_ofInt, mod32_prod]

theorem mulhI_eq (a b : Word) : hiWord (prodI a b) = mod32 (prod .i32 a b / 2 ^ 32) := hiWord_ofInt _

theorem mulhN_eq (a b : Word) : hiWord (prodN a b) = mod32 (prod .n32 a b / 2 ^ 32) := by rw [prodN_eq, hiWord_ofInt]

theorem mulwI_eq (a b : Word) : (loWord (prodI a b), hiWord (prodI a b)) =
    (mod32 (prod .i32 a b), mod32 (prod .i32 a b / 2 ^ 32)) :=
  Prod.ext (loWord_ofInt _) (hiWord_ofInt _)

theorem mulwN_eq (a b : Word) : (loWord (prodN a b), hiWord (prodN a b)) =
    (mod32 (prod .n32 a b), mod32 (prod .n32 a b / 2 ^ 32)) := by
  rw [prodN_eq]
  exact Prod.ext (loWord_ofInt _) (hiWord_ofInt _)

theorem madWord_eq (c a b : Word) : loWord (prodN a b) + c = mod32 (prod .n32 a b + c.toNat) := by
  rw [prodN_eq, loWord_ofInt, mod32_add, mod32_toNat]

theorem madhI_eq (c a b : Word) : hiWord (prodI a b) + c = mod32 (prod .i32 a b / 2 ^ 32 + c.toNat) := by
  rw [mulhI_eq, mod32_add, mod32_toNat]

theorem madhN_eq (c a b : Word) : hiWord (prodN a b) + c = mod32 (prod .n32 a b / 2 ^ 32 + c.toNat) := by
  rw [mulhN_eq, mod32_add, mod32_toNat]

/-! Division step by step (R125, R126). -/

theorem divStep_eq_restore (a rm : Nat) {q : Nat} (hq : q < 2 ^ 32) : divStep a q rm = restore a (q, rm) := by
  have hb : q / 2 ^ 31 % 2 = q / 2 ^ 31 := by omega
  simp only [divStep, restore, hb]

theorem restore_fst_lt (a : Nat) (p : Nat × Nat) : (restore a p).1 < 2 ^ 32 := by
  simp only [restore]
  split_ifs <;> dsimp only <;> omega

theorem divStep4_eq_restore4 (a q rm : Word) :
    divStep4 a q rm = (mod32 (restore4 a q rm).1, mod32 (restore4 a q rm).2) := by
  simp only [divStep4, restore4, Function.iterate_succ, Function.iterate_zero, Function.comp, id,
    divStep_eq_restore _ _ q.isLt, divStep_eq_restore _ _ (restore_fst_lt _ _), mod32_natCast]

/-- A number of two digits is below its base. -/
theorem mul_add_lt_mul {P K c d : Nat} (hc : c < P) (hd : d < K) : c * K + d < P * K := calc
  c * K + d < (c + 1) * K := by rw [Nat.add_mul]; omega
  _ ≤ P * K := Nat.mul_le_mul_right K hc

/-- One step shifts the quotient word up and brings its top bit down into the remainder. The word holds the rest of the dividend (its top
bit b, below it c) above the quotient bits d that are already found. -/
theorem restore_shift {P K a b c d r : Nat} (hPK : P * K = 2 ^ 31) (hb : b < 2) (hc : c < P) (hd : d < K) (hr : r < 2 ^ 32) :
    restore a ((b * P + c) * K + d, r) =
      if a ≤ 2 * r + b then (c * (2 * K) + (2 * d + 1), 2 * r + b - a) else (c * (2 * K) + 2 * d, 2 * r + b) := by
  have hlow : c * K + d < 2 ^ 31 := hPK ▸ mul_add_lt_mul hc hd
  have hq : (b * P + c) * K + d = b * 2 ^ 31 + (c * K + d) := by rw [← hPK]; ring
  have htop : (b * 2 ^ 31 + (c * K + d)) / 2 ^ 31 = b := by omega
  have hrest : 2 * (b * 2 ^ 31 + (c * K + d)) % 2 ^ 32 = c * (2 * K) + 2 * d := by
    rw [show c * (2 * K) = 2 * (c * K) by ring]
    omega
  have hrem : (2 * r + b) % 2 ^ 33 = 2 * r + b := Nat.mod_eq_of_lt (by omega)
  simp only [restore, hq, htop, hrest, hrem, Nat.add_assoc]

/-- The quotient bits found when the k high bits of the dividend, m, have been brought down: all ones when the divisor is 0 (R125). -/
def partialQuotient (a m k : Nat) : Nat := if a = 0 then 2 ^ k - 1 else m / a

/-- Quotient word and remainder of dividend n behind k steps. -/
def division (a n k : Nat) : Nat × Nat :=
  (n % 2 ^ (32 - k) * 2 ^ k + partialQuotient a (n / 2 ^ (32 - k)) k, n / 2 ^ (32 - k) % a)

theorem partialQuotient_lt {a m k : Nat} (h : m < 2 ^ k) : partialQuotient a m k < 2 ^ k := by
  unfold partialQuotient
  split_ifs
  · omega
  · exact (Nat.div_le_self m a).trans_lt h

/-- A dividend with one more bit, over a: the remainder's double and the bit are divided. -/
theorem two_mul_add_eq (a m b : Nat) : 2 * m + b = a * (2 * (m / a)) + (2 * (m % a) + b) := by
  have h := Nat.div_add_mod m a
  rw [Nat.mul_left_comm]
  omega

theorem partialQuotient_succ {a b : Nat} (m k : Nat) (hb : b < 2) :
    partialQuotient a (2 * m + b) (k + 1) =
      if a ≤ 2 * (m % a) + b then 2 * partialQuotient a m k + 1 else 2 * partialQuotient a m k := by
  rcases Nat.eq_zero_or_pos a with rfl | ha
  · have hp : 0 < 2 ^ k := by positivity
    simp only [partialQuotient, if_true, Nat.zero_le, pow_succ]
    omega
  · have hr := Nat.mod_lt m ha
    simp only [partialQuotient, if_neg ha.ne']
    rw [two_mul_add_eq a m b, Nat.mul_add_div ha]
    split_ifs with h
    · rw [show (2 * (m % a) + b) / a = 1 from Nat.div_eq_of_lt_le (by omega) (by omega)]
    · rw [show (2 * (m % a) + b) / a = 0 from Nat.div_eq_of_lt (by omega), Nat.add_zero]

theorem remainder_succ {a b : Nat} (m : Nat) (hb : b < 2) :
    (2 * m + b) % a = if a ≤ 2 * (m % a) + b then 2 * (m % a) + b - a else 2 * (m % a) + b := by
  rcases Nat.eq_zero_or_pos a with rfl | ha
  · simp only [Nat.mod_zero, Nat.zero_le, if_true, Nat.sub_zero]
  · have hr := Nat.mod_lt m ha
    rw [two_mul_add_eq a m b, Nat.mul_add_mod]
    split_ifs with h
    · rw [Nat.mod_eq_sub_mod h, Nat.mod_eq_of_lt (by omega)]
    · exact Nat.mod_eq_of_lt (by omega)

/-- One more step of restoring division. -/
theorem restore_division {a n k : Nat} (hn : n < 2 ^ 32) (hk : k < 32) :
    restore a (division a n k) = division a n (k + 1) := by
  obtain ⟨j, hj, hj'⟩ : ∃ j, 32 - k = j + 1 ∧ 32 - (k + 1) = j := ⟨31 - k, by omega, by omega⟩
  have hPK : 2 ^ j * 2 ^ k = 2 ^ 31 := by rw [← pow_add]; congr 1; omega
  have hP : 0 < 2 ^ j := by positivity
  have hm : n / 2 ^ (j + 1) < 2 ^ k := by
    rw [Nat.div_lt_iff_lt_mul (by positivity), ← pow_add, show k + (j + 1) = 32 by omega]
    exact hn
  have hrem : n / 2 ^ (j + 1) % a < 2 ^ 32 :=
    (Nat.mod_le _ _).trans_lt (hm.trans_le (Nat.pow_le_pow_right (by omega) (by omega)))
  have hbring : n / 2 ^ j = 2 * (n / 2 ^ (j + 1)) + n / 2 ^ j % 2 := by
    rw [pow_succ, ← Nat.div_div_eq_div_mul]; omega
  have hrest : n % 2 ^ (j + 1) = n / 2 ^ j % 2 * 2 ^ j + n % 2 ^ j := by
    rw [pow_succ, Nat.mod_mul]; ring
  have hb : n / 2 ^ j % 2 < 2 := Nat.mod_lt _ (by omega)
  have hquo := partialQuotient_succ (a := a) (n / 2 ^ (j + 1)) k hb
  have hrm := remainder_succ (a := a) (n / 2 ^ (j + 1)) hb
  rw [← hbring] at hquo hrm
  rw [division, division, hj, hj', hrest, restore_shift hPK hb (Nat.mod_lt n hP) (partialQuotient_lt hm) hrem, hquo, hrm,
    pow_succ 2 k, Nat.mul_comm (2 ^ k) 2]
  split_ifs <;> rfl

theorem restore_iterate_division {a n : Nat} (hn : n < 2 ^ 32) {k m : Nat} (h : k + m ≤ 32) :
    (restore a)^[m] (division a n k) = division a n (k + m) := by
  induction m with
  | zero => rfl
  | succ m ih => rw [Function.iterate_succ_apply', ih (by omega), restore_division hn (by omega), Nat.add_assoc]

theorem division_lt (a : Nat) {n k : Nat} (hn : n < 2 ^ 32) (hk : k ≤ 32) :
    (division a n k).1 < 2 ^ 32 ∧ (division a n k).2 < 2 ^ 32 := by
  have hPK : 2 ^ (32 - k) * 2 ^ k = 2 ^ 32 := by rw [← pow_add, Nat.sub_add_cancel hk]
  have hm : n / 2 ^ (32 - k) < 2 ^ k := by rwa [Nat.div_lt_iff_lt_mul (by positivity), Nat.mul_comm, hPK]
  exact ⟨hPK ▸ mul_add_lt_mul (Nat.mod_lt n (by positivity)) (partialQuotient_lt hm),
    ((Nat.mod_le _ _).trans (Nat.div_le_self _ _)).trans_lt hn⟩

theorem division_zero (a : Nat) {n : Nat} (hn : n < 2 ^ 32) : division a n 0 = (n, 0) := by
  have hm : n / 2 ^ (32 - 0) = 0 := Nat.div_eq_of_lt hn
  have hq : partialQuotient a 0 0 = 0 := by simp [partialQuotient]
  rw [division, hm, hq, Nat.mod_eq_of_lt hn, Nat.zero_mod]
  simp

/-- Behind all 32 steps nothing of the dividend is left. -/
theorem division_all (a n : Nat) : division a n 32 = (partialQuotient a n 32, n % a) := by
  simp [division, Nat.mod_one]

/-- The words that hold quotient and remainder behind k steps. -/
def divisionWords (a n : Word) (k : Nat) : Word × Word :=
  (BitVec.ofNat 32 (division a.toNat n.toNat k).1, BitVec.ofNat 32 (division a.toNat n.toNat k).2)

/-- DIVSTEP.N32 goes four steps on. -/
theorem divStep4_divisionWords (a n : Word) {k : Nat} (h : k + 4 ≤ 32) :
    divStep4 a (divisionWords a n k).1 (divisionWords a n k).2 = divisionWords a n (k + 4) := by
  obtain ⟨hq, hr⟩ := division_lt a.toNat n.isLt (by omega : k ≤ 32)
  have hin : ((divisionWords a n k).1.toNat, (divisionWords a n k).2.toNat) = division a.toNat n.toNat k :=
    Prod.ext (Nat.mod_eq_of_lt hq) (Nat.mod_eq_of_lt hr)
  rw [divStep4_eq_restore4, restore4, hin, restore_iterate_division n.isLt h, mod32_natCast, mod32_natCast]
  rfl

theorem divStep4_iterate (a n : Word) {m : Nat} (h : 4 * m ≤ 32) :
    (fun p : Word × Word => divStep4 a p.1 p.2)^[m] (n, 0#32) = divisionWords a n (4 * m) := by
  induction m with
  | zero => rw [divisionWords, Nat.mul_zero, division_zero a.toNat n.isLt, BitVec.ofNat_toNat, BitVec.setWidth_eq]; rfl
  | succ m ih => rw [Function.iterate_succ_apply', ih (by omega), divStep4_divisionWords a n (by omega), Nat.mul_succ]

theorem divisionWords_all (a n : Word) : divisionWords a n 32 =
    if a = 0#32 then (0xFFFFFFFF#32, n) else (mod32 (n.toNat / a.toNat), mod32 (n.toNat % a.toNat)) := by
  rw [divisionWords, division_all]
  split_ifs with ha
  · subst ha
    simp [partialQuotient]
  · have hn : a.toNat ≠ 0 := fun h => ha (BitVec.eq_of_toNat_eq h)
    rw [partialQuotient, if_neg hn]
    rw [← Int.natCast_ediv, ← Int.natCast_emod, mod32_natCast, mod32_natCast]

theorem divisionByEightSteps : DivisionByEightSteps := fun n a =>
  (divStep4_iterate a n (m := 8) (by decide)).trans (divisionWords_all a n)

theorem neg_eq_mod32 (a : Word) : 0#32 - a = mod32 (-(a.toNat : Int)) := by
  rw [mod32_neg, mod32_toNat, BitVec.zero_sub]

section
variable {d a b : Field} {s : State} {t : Nat} {x : Team}

theorem divstepN_results (r : Runs (.divstepN32 d a) s t x) : Results (.divstepN32 d a) s t x d 2 fun o l =>
    let p := restore4 (x.rd 0 a 0 l) (x.rd 0 d 0 l) (x.rd 0 d 1 l)
    mod32 (if o = 0 then p.1 else p.2) := by
  refine team_results r (dstOk_of_pairOk (head_ok (o := .pairAcc d) r rfl)) rfl rfl (fun o l _ => ?_) (by decide)
  simp only [divStep4_eq_restore4]
  split_ifs <;> rfl

/-- The sign that DIVSTEP.I32 puts on one word. -/
theorem negated_eq_mod32 (neg : Bool) (q : Word) : (if neg then 0#32 - q else q) = if neg then mod32 (-(q.toNat : Int)) else q := by
  rw [neg_eq_mod32]

theorem divstepI_results (r : Runs (.divstepI32 d a b) s t x) : Results (.divstepI32 d a b) s t x d 2 fun o l =>
    let neg := if o = 0 then (x.rd 0 a 0 l).msb ^^ (x.rd (litCount [a]) b 0 l).msb else (x.rd (litCount [a]) b 0 l).msb
    if neg then mod32 (-((x.rd 0 d o l).toNat : Int)) else x.rd 0 d o l := by
  refine team_results r (dstOk_of_pairOk (head_ok (o := .pairAcc d) r rfl)) rfl rfl (fun o l ho => ?_) (by decide)
  obtain rfl | rfl : o = 0 ∨ o = 1 := by omega
  · exact negated_eq_mod32 _ _
  · exact negated_eq_mod32 _ _

end

/-! The class: one case for each form, by the shape of the form and its word. -/

theorem integerArithmeticPart : IntegerArithmeticPart := by
  intro i s t x d n v h r
  unfold arithmetic at h
  split at h
  -- R121
  · exact two_results h r add_eq_mod32 rfl rfl
  · exact two_results h r sub_eq_mod32 rfl rfl
  · exact two_results h r addsWord_i32 rfl rfl
  · exact two_results h r addsWord_n32 rfl rfl
  · exact two_results h r subsWord_i32 rfl rfl
  · exact two_results h r subsWord_n32 rfl rfl
  -- R122
  · exact three_results h r addcWord_eq rfl rfl
  · exact three_results h r subcWord_eq rfl rfl
  -- R123
  · exact two_results h r mulWord_eq rfl rfl
  · exact two_results h r mulhI_eq rfl rfl
  · exact two_results h r mulhN_eq rfl rfl
  · exact twice_results h r mulwI_eq rfl rfl
  · exact twice_results h r mulwN_eq rfl rfl
  -- R124
  · exact three_results h r madWord_eq rfl rfl
  · exact three_results h r madhI_eq rfl rfl
  · exact three_results h r madhN_eq rfl rfl
  -- R125, R126
  · cases h
    exact divstepN_results r
  · cases h
    exact divstepI_results r
  · cases h

end Sys2Proof.Integer
end

section
/-!
SUPPORT. The integer logic class (R127 to R135), and the lane exchanges (R136, R138).
-/

namespace Sys2Proof.Integer

open Sys2Proof.Machine Sys2Proof.Claims

/-! Bitwise words, shifts and rotations (R127, R128). -/

theorem and_eq_bitsOf (a b : Word) : a &&& b = bitsOf fun k => a.getLsbD k && b.getLsbD k :=
  eq_bitsOf fun _ _ => BitVec.getLsbD_and

theorem or_eq_bitsOf (a b : Word) : a ||| b = bitsOf fun k => a.getLsbD k || b.getLsbD k :=
  eq_bitsOf fun _ _ => BitVec.getLsbD_or

theorem xor_eq_bitsOf (a b : Word) : a ^^^ b = bitsOf fun k => a.getLsbD k ^^ b.getLsbD k :=
  eq_bitsOf fun _ _ => BitVec.getLsbD_xor

theorem getLsbD_not_of_lt (a : Word) {k : Nat} (hk : k < 32) : (~~~a).getLsbD k = !a.getLsbD k := by
  rw [BitVec.getLsbD_not, decide_eq_true hk, Bool.true_and]

theorem not_eq_bitsOf (a : Word) : ~~~a = bitsOf fun k => !a.getLsbD k :=
  eq_bitsOf fun _ hk => getLsbD_not_of_lt a hk

theorem andn_eq_bitsOf (a b : Word) : a &&& ~~~b = bitsOf fun k => a.getLsbD k && !b.getLsbD k :=
  eq_bitsOf fun _ hk => by rw [BitVec.getLsbD_and, getLsbD_not_of_lt b hk]

theorem orn_eq_bitsOf (a b : Word) : a ||| ~~~b = bitsOf fun k => a.getLsbD k || !b.getLsbD k :=
  eq_bitsOf fun _ hk => by rw [BitVec.getLsbD_or, getLsbD_not_of_lt b hk]

theorem xnor_eq_bitsOf (a b : Word) : ~~~(a ^^^ b) = bitsOf fun k => !(a.getLsbD k ^^ b.getLsbD k) :=
  eq_bitsOf fun _ hk => by rw [getLsbD_not_of_lt _ hk, BitVec.getLsbD_xor]

theorem shiftLeft_eq_mod32 (a : Word) (n : Nat) : a <<< n = mod32 (a.toNat * 2 ^ n) := by
  have h : (a.toNat : Int) * 2 ^ n = (a.toNat * 2 ^ n : Nat) := by push_cast; rfl
  rw [h, mod32_natCast, ← Nat.shiftLeft_eq]
  rfl

theorem ushiftRight_eq_mod32 (a : Word) (n : Nat) : a >>> n = mod32 (a.toNat / 2 ^ n) := by
  have h : (a.toNat : Int) / 2 ^ n = (a >>> n).toNat := by
    rw [BitVec.toNat_ushiftRight, Nat.shiftRight_eq_div_pow]; exact_mod_cast rfl
  rw [h, mod32_toNat]

theorem shlWord_eq (a b : Word) : shlWord a b = if b.toNat < 32 then mod32 (a.toNat * 2 ^ b.toNat) else 0#32 := by
  split_ifs with h
  · exact shiftLeft_eq_mod32 a b.toNat
  · exact BitVec.shiftLeft_eq_zero (by omega)

theorem shrNWord_eq (a b : Word) : shrNWord a b = if b.toNat < 32 then mod32 (a.toNat / 2 ^ b.toNat) else 0#32 := by
  split_ifs with h
  · exact ushiftRight_eq_mod32 a b.toNat
  · exact BitVec.ushiftRight_eq_zero (by omega)

theorem bitsOf_const (c : Bool) : bitsOf (fun _ => c) = if c then 0xFFFFFFFF#32 else 0#32 := by
  cases c
  · exact (eq_bitsOf (w := 0#32) fun _ _ => BitVec.getLsbD_zero).symm
  · exact (eq_bitsOf (w := BitVec.allOnes 32) fun _ hk => by rw [BitVec.getLsbD_allOnes, decide_eq_true hk]).symm

theorem shrIWord_eq (a b : Word) : shrIWord a b =
    if b.toNat < 32 then mod32 (a.toInt / 2 ^ b.toNat) else if a.msb then 0xFFFFFFFF#32 else 0#32 := by
  by_cases h : b.toNat < 32
  · rw [if_pos h, shrIWord, BitVec.sshiftRight_eq, Int.shiftRight_eq_div_pow]
    exact_mod_cast rfl
  · have hbit : ∀ k, k < 32 → (shrIWord a b).getLsbD k = a.msb := fun k hk => by
      rw [shrIWord, BitVec.getLsbD_sshiftRight, if_neg (by omega), decide_eq_false (by omega), Bool.not_false, Bool.true_and]
    rw [if_neg h, eq_bitsOf hbit, bitsOf_const]

theorem rotlWord_eq (a b : Word) : rotlWord a b = bitsOf fun k => a.getLsbD ((k + 32 - b.toNat % 32) % 32) := by
  refine eq_bitsOf fun k hk => ?_
  rw [rotlWord, BitVec.getLsbD_rotateLeft, Nat.mod_mod]
  by_cases h : k < b.toNat % 32
  · rw [decide_eq_true h, cond_true]; congr 1; omega
  · rw [decide_eq_false h, cond_false, decide_eq_true hk, Bool.true_and]; congr 1; omega

theorem rotrWord_eq (a b : Word) : rotrWord a b = bitsOf fun k => a.getLsbD ((k + b.toNat) % 32) := by
  refine eq_bitsOf fun k hk => ?_
  rw [rotrWord, BitVec.getLsbD_rotateRight, Nat.mod_mod]
  by_cases h : k < 32 - b.toNat % 32
  · rw [decide_eq_true h, cond_true]; congr 1; omega
  · rw [decide_eq_false h, cond_false, decide_eq_true hk, Bool.true_and]; congr 1; omega

/-! Lesser, greater, magnitude, relations and choice (R129 to R131). -/

theorem minI_eq (a b : Word) : minI a b = mod32 (min a.toInt b.toInt) := by
  rw [minI, min_def, apply_ite mod32, mod32_toInt, mod32_toInt]

theorem maxI_eq (a b : Word) : maxI a b = mod32 (max a.toInt b.toInt) := by
  rw [maxI, max_def, apply_ite mod32, mod32_toInt, mod32_toInt]

theorem minN_eq (a b : Word) : minN a b = mod32 (min a.toNat b.toNat) := by
  rw [minN, min_def, apply_ite mod32, mod32_toNat, mod32_toNat]
  simp only [Int.ofNat_le]

theorem maxN_eq (a b : Word) : maxN a b = mod32 (max a.toNat b.toNat) := by
  rw [maxN, max_def, apply_ite mod32, mod32_toNat, mod32_toNat]
  simp only [Int.ofNat_le]

theorem absWord_eq (a : Word) : absWord a = mod32 |a.toInt| := by
  rw [absWord, BitVec.msb_eq_toInt]
  by_cases h : a.toInt < 0
  · rw [decide_eq_true h, if_pos rfl, abs_of_neg h, mod32_neg, mod32_toInt, BitVec.zero_sub]
  · rw [decide_eq_false h, if_neg Bool.false_ne_true, abs_of_nonneg (not_lt.mp h), mod32_toInt]

theorem setcHolds_eq (c : SetCond) (a b : Word) : setcHolds c a b = relation c a b := by
  cases c <;> simp only [setcHolds, relation, bne, beq_eq_decide, ne_eq, decide_not, gt_iff_lt, ge_iff_le]

theorem setcWord_eq (c : SetCond) (a b : Word) : Word.ofBool (setcHolds c a b) = truth (relation c a b) :=
  congrArg truth (setcHolds_eq c a b)

theorem selWord_eq (c a b : Word) : (if c = 0#32 then b else a) = if c ≠ 0#32 then a else b := (ite_not _ _ _).symm

/-! Counts of bits, and bits in reverse (R132). -/

theorem popcWord_eq (a : Word) : popcWord a = mod32 ((List.range 32).filter fun k => a.getLsbD k).length :=
  (mod32_natCast _).symm

/-- The first place where p holds is as far in as there are places with no p up to them. -/
theorem find?_range_getD {p q : Nat → Bool} (hq : ∀ k, q k = true ↔ ∀ i, i ≤ k → p i = false) (n : Nat) :
    ((List.range n).find? p).getD n = ((List.range n).filter q).length := by
  induction n with
  | zero => rfl
  | succ n ih =>
    rw [List.range_succ, List.find?_append, List.filter_append, List.length_append, ← ih]
    cases hf : (List.range n).find? p with
    | none =>
      have hn : ∀ i, i < n → p i = false := fun i hi => by
        simpa using List.find?_eq_none.mp hf i (List.mem_range.mpr hi)
      cases hp : p n with
      | false =>
        have hqn : q n = true := (hq n).mpr fun i hi => (Nat.lt_or_eq_of_le hi).elim (hn i) (· ▸ hp)
        simp [hp, hqn]
      | true =>
        have hqn : q n = false := by
          rw [Bool.eq_false_iff, ne_eq, hq]
          exact fun h => by simpa [hp] using h n le_rfl
        simp [hp, hqn]
    | some m =>
      have hm := List.mem_range.mp (List.mem_of_find?_eq_some hf)
      have hqn : q n = false := by
        rw [Bool.eq_false_iff, ne_eq, hq]
        exact fun h => by simpa [List.find?_some hf] using h m hm.le
      simp [hqn]

theorem mod_two_pow_succ_eq_zero_iff (n k : Nat) : n % 2 ^ (k + 1) = 0 ↔ ∀ i, i ≤ k → n.testBit i = false := by
  constructor
  · intro h i hi
    have hbit := Nat.testBit_mod_two_pow n (k + 1) i
    rw [h, Nat.zero_testBit, decide_eq_true (by omega), Bool.true_and] at hbit
    exact hbit.symm
  · intro h
    refine Nat.eq_of_testBit_eq fun i => ?_
    rw [Nat.testBit_mod_two_pow, Nat.zero_testBit]
    by_cases hi : i < k + 1
    · rw [h i (by omega), Bool.and_false]
    · rw [decide_eq_false hi, Bool.false_and]

theorem lt_two_pow_iff (n k : Nat) : n < 2 ^ k ↔ ∀ i, k ≤ i → n.testBit i = false :=
  ⟨fun h _ hi => Nat.testBit_lt_two_pow (h.trans_le (Nat.pow_le_pow_right (by omega) hi)), Nat.lt_pow_two_of_testBit n⟩

theorem ctzWord_eq (a : Word) :
    ctzWord a = mod32 ((List.range 32).filter fun k => a.toNat % 2 ^ (k + 1) = 0).length := by
  rw [ctzWord, mod32_natCast, find?_range_getD (q := fun k => decide (a.toNat % 2 ^ (k + 1) = 0))]
  exact fun k => decide_eq_true_iff.trans (mod_two_pow_succ_eq_zero_iff _ _)

/-- Counting places from the other end. -/
theorem length_filter_range_sub (p : Nat → Bool) (n : Nat) :
    ((List.range (n + 1)).filter fun k => p (n - k)).length = ((List.range (n + 1)).filter p).length := by
  have h : (List.range (n + 1)).reverse = (List.range (n + 1)).map (n - ·) := by
    rw [List.range_eq_range', List.reverse_range', ← List.range_eq_range']
    simp
  rw [← List.length_reverse (as := (List.range (n + 1)).filter p), ← List.filter_reverse, h, List.filter_map, List.length_map]
  rfl

theorem clzWord_eq (a : Word) : clzWord a = mod32 ((List.range 32).filter fun k => a.toNat < 2 ^ k).length := by
  rw [clzWord, mod32_natCast, find?_range_getD (q := fun k => decide (a.toNat < 2 ^ (31 - k)))]
  · rw [length_filter_range_sub (fun k => decide (a.toNat < 2 ^ k)) 31]
  · intro k
    rw [decide_eq_true_iff, lt_two_pow_iff]
    constructor
    · exact fun h i hi => h (31 - i) (by omega)
    · intro h i hi
      by_cases hi' : i < 32
      · have hbit := h (31 - i) (by omega)
        rwa [show 31 - (31 - i) = i by omega] at hbit
      · exact BitVec.getLsbD_of_ge a i (by omega)

theorem brevWord_eq (a : Word) : brevWord a = bitsOf fun k => a.getLsbD (31 - k) :=
  eq_bitsOf fun k hk => by rw [brevWord, BitVec.getLsbD_reverse, BitVec.getMsbD, decide_eq_true hk, Bool.true_and]

/-! Fields, bytes and addresses (R132 to R135). -/

theorem bfxNWord_eq (a b : Word) : bfxNWord a b = ((a.setWidth 64).extractLsb' (posOf b) (widthOf b)).setWidth 32 := by
  refine BitVec.eq_of_toNat_eq ?_
  rw [bfxNWord, BitVec.toNat_ofNat, BitVec.toNat_setWidth, BitVec.extractLsb'_toNat, Nat.shiftRight_eq_div_pow, BitVec.toNat_setWidth,
    Nat.mod_eq_of_lt (a.isLt.trans (by decide))]
  rfl

/-- A field that lies below A * B is the same in an integer and in its residue. -/
theorem emod_mul_ediv_emod {A B C : Int} (hA : A ≠ 0) (hC : C ∣ B) (z : Int) : z % (A * B) / A % C = z / A % C := by
  have h : z % (A * B) = z + A * -(B * (z / (A * B))) := by rw [Int.emod_def]; ring
  obtain ⟨D, rfl⟩ := hC
  rw [h, Int.add_mul_ediv_left _ _ hA, ← sub_eq_add_neg, mul_assoc, Int.sub_mul_emod_self_left]

/-- Of a sign-extended word, a field that ends within 64 bits is that field of the word's integer. -/
theorem extract_signExtend_toNat (a : Word) {p w : Nat} (h : p + w ≤ 64) :
    (((a.signExtend 64).extractLsb' p w).toNat : Int) = a.toInt / 2 ^ p % 2 ^ w := by
  have hpw : (2 : Int) ^ 64 = 2 ^ p * 2 ^ (64 - p) := by rw [← pow_add]; congr 1; omega
  have hz : ((a.signExtend 64).toNat : Int) = a.toInt % 2 ^ 64 := by
    rw [BitVec.signExtend, BitVec.toNat_ofInt]; omega
  rw [BitVec.extractLsb'_toNat, Nat.shiftRight_eq_div_pow]
  push_cast
  rw [hz, hpw, emod_mul_ediv_emod (by positivity) (pow_dvd_pow 2 (by omega))]

/-- Sign extension of a field from its highest bit; a field of no bits gives 0. -/
theorem signExtend_field {w : Nat} (y : BitVec w) : y.signExtend 32 =
    if w = 0 then 0#32
    else if y.toNat / 2 ^ (w - 1) = 1 then BitVec.ofInt 32 ((y.toNat : Int) - (2 ^ w : Nat)) else BitVec.ofNat 32 y.toNat := by
  rcases w with _ | w
  · rw [BitVec.of_length_zero (x := y)]
    rfl
  · have hy := y.isLt
    rw [if_neg (Nat.succ_ne_zero w), BitVec.signExtend, BitVec.toInt_eq_toNat_cond, Nat.add_sub_cancel]
    rw [pow_succ] at hy ⊢
    have hp : 0 < 2 ^ w := by positivity
    by_cases h : 2 * y.toNat < 2 ^ w * 2
    · rw [if_pos h, if_neg (by rw [Nat.div_eq_of_lt (by omega)]; decide), BitVec.ofInt_natCast]
    · rw [if_neg h, if_pos (Nat.div_eq_of_lt_le (by omega) (by omega))]

theorem bfxIWord_eq (a b : Word) : bfxIWord a b = ((a.signExtend 64).extractLsb' (posOf b) (widthOf b)).signExtend 32 := by
  have hp : posOf b < 32 := BitVec.isLt _
  have hw : widthOf b ≤ 32 := Nat.min_le_left _ _
  have hf : (a.toInt / (2 ^ fieldPos b : Nat) % (2 ^ fieldWidth b : Nat)).toNat =
      ((a.signExtend 64).extractLsb' (posOf b) (widthOf b)).toNat := by
    rw [← Int.toNat_natCast ((a.signExtend 64).extractLsb' (posOf b) (widthOf b)).toNat, extract_signExtend_toNat a (by omega)]
    push_cast
    rfl
  rw [signExtend_field, ← hf]
  rfl

theorem fieldMask_getLsbD {p w k : Nat} (hk : k < 32) :
    (BitVec.ofNat 32 ((2 ^ w - 1) * 2 ^ p)).getLsbD k = decide (p ≤ k ∧ k < p + w) := by
  rw [BitVec.getLsbD_ofNat, decide_eq_true hk, Bool.true_and, Nat.testBit_mul_two_pow, Nat.testBit_two_pow_sub_one,
    ← Bool.decide_and, decide_eq_decide]
  omega

theorem bfiWord_eq (c a b : Word) : bfiWord c a b = bitsOf fun k =>
    if posOf b ≤ k ∧ k < posOf b + widthOf b then a.getLsbD (k - posOf b) else c.getLsbD k := by
  refine eq_bitsOf fun k hk => ?_
  have hm := fieldMask_getLsbD (p := posOf b) (w := widthOf b) hk
  have hb : bfiWord c a b = (c &&& ~~~(BitVec.ofNat 32 ((2 ^ widthOf b - 1) * 2 ^ posOf b))) |||
      ((a <<< posOf b) &&& BitVec.ofNat 32 ((2 ^ widthOf b - 1) * 2 ^ posOf b)) := rfl
  rw [hb, BitVec.getLsbD_or, BitVec.getLsbD_and, BitVec.getLsbD_and, getLsbD_not_of_lt _ hk, hm, BitVec.getLsbD_shiftLeft]
  split_ifs with h
  · simp [h, hk]
  · simp [h]

theorem prmByte_getLsbD (a b : Word) (n : Nat) {j : Nat} (hj : j < 8) : (prmByte a b n).getLsbD j = (b ++ a).getLsbD (8 * n + j) := by
  rw [prmByte, BitVec.getLsbD_extractLsb', decide_eq_true hj, Bool.true_and]

theorem prmByte_msb (a b : Word) (n : Nat) : (prmByte a b n).msb = (b ++ a).getLsbD (8 * n + 7) := by
  rw [BitVec.msb_eq_getLsbD_last, prmByte_getLsbD a b n (by omega)]

theorem prmPick_getLsbD (c a b : Word) {i j : Nat} (hj : j < 8) :
    (prmPick c a b i).getLsbD j = permuted c a b (8 * i + j) := by
  have hn : (c.extractLsb' (4 * i) 4).toNat = c.toNat / 2 ^ (4 * i) % 16 := by
    rw [BitVec.extractLsb'_toNat, Nat.shiftRight_eq_div_pow]
  have hi : (8 * i + j) / 8 = i := by omega
  have hj' : (8 * i + j) % 8 = j := by omega
  simp only [prmPick, permuted, hn, hi, hj']
  split_ifs with h hs
  · exact prmByte_getLsbD a b _ hj
  · rw [← prmByte_msb, hs]
    exact (BitVec.getLsbD_allOnes (v := 8)).trans (decide_eq_true hj)
  · rw [← prmByte_msb, Bool.eq_false_iff.mpr hs, BitVec.getLsbD_zero]

theorem prmWord_eq (c a b : Word) : prmWord c a b = bitsOf (permuted c a b) := by
  refine eq_bitsOf fun k hk => ?_
  simp only [prmWord, BitVec.getLsbD_append]
  split_ifs with h0 h1 h2
  · rw [prmPick_getLsbD c a b h0, Nat.mul_zero, Nat.zero_add]
  · rw [prmPick_getLsbD c a b h1]; congr 1; omega
  · rw [prmPick_getLsbD c a b h2]; congr 1; omega
  · rw [prmPick_getLsbD c a b (by omega)]; congr 1; omega

theorem leaWord_eq (sc : Fin 5) (a b : Word) : a + (b <<< sc.val) = mod32 (a.toNat + b.toNat * 2 ^ sc.val) := by
  rw [mod32_add, mod32_toNat, shiftLeft_eq_mod32]

theorem movhiWord_eq (c : Word) (imm : BitVec 14) :
    movhiWord c imm = bitsOf fun k => if k < 18 then c.getLsbD k else imm.getLsbD (k - 18) := by
  refine eq_bitsOf fun k _ => ?_
  rw [movhiWord, BitVec.getLsbD_append]
  split_ifs with h
  · rw [BitVec.getLsbD_extractLsb', decide_eq_true h, Bool.true_and, Nat.zero_add]
  · rfl

/-! The class: one case for each form, by the shape of the form and its word. -/

theorem integerLogic : IntegerLogic := by
  intro i s t x d n v h r
  unfold logic at h
  split at h
  -- R127
  · exact two_results h r and_eq_bitsOf rfl rfl
  · exact two_results h r or_eq_bitsOf rfl rfl
  · exact two_results h r xor_eq_bitsOf rfl rfl
  · exact two_results h r andn_eq_bitsOf rfl rfl
  · exact two_results h r orn_eq_bitsOf rfl rfl
  · exact two_results h r xnor_eq_bitsOf rfl rfl
  · exact one_results h r not_eq_bitsOf rfl rfl
  -- R128
  · exact two_results h r shlWord_eq rfl rfl
  · exact two_results h r shrNWord_eq rfl rfl
  · exact two_results h r shrIWord_eq rfl rfl
  · exact two_results h r rotlWord_eq rfl rfl
  · exact two_results h r rotrWord_eq rfl rfl
  -- R129
  · exact two_results h r minI_eq rfl rfl
  · exact two_results h r maxI_eq rfl rfl
  · exact two_results h r minN_eq rfl rfl
  · exact two_results h r maxN_eq rfl rfl
  · exact one_results h r absWord_eq rfl rfl
  -- R130, R131
  · exact two_results h r (setcWord_eq _) rfl rfl
  · exact three_results h r selWord_eq rfl rfl
  -- R132
  · exact one_results h r popcWord_eq rfl rfl
  · exact one_results h r clzWord_eq rfl rfl
  · exact one_results h r ctzWord_eq rfl rfl
  · exact one_results h r brevWord_eq rfl rfl
  · exact two_results h r bfxNWord_eq rfl rfl
  · exact two_results h r bfxIWord_eq rfl rfl
  · exact three_results h r bfiWord_eq rfl rfl
  -- R133, R134
  · exact three_results h r prmWord_eq rfl rfl
  · exact two_results h r (leaWord_eq _) rfl rfl
  -- R135
  · exact one_results h r (fun _ => rfl) rfl rfl
  · cases h
    exact team_results r (head_ok (o := .dst _) r rfl) rfl rfl (fun _ _ _ => rfl) (by decide)
  · cases h
    exact team_results r (head_ok (o := .acc _) r rfl) rfl rfl (fun _ _ _ => movhiWord_eq _ _) (by decide)
  · cases h

/-! Words exchanged and combined among lanes (R136, R138). -/

/-- The source lane of SHFL: for bcast, the lowest active lane chooses; with no active lane none is read. -/
theorem shflSrc_eq_source (x : Team) (f : ShflForm) (a b : Field) (l : Nat) : shflSrc f l (x.selector f a b l) = source x f a b l := by
  cases f with
  | bcast =>
    simp only [shflSrc, Team.selector, if_true, Team.rdFirst, source, Team.first]
    cases x.active.head? <;> rfl
  | idx | xor | up | down =>
    simp only [shflSrc, source, Team.selector, reduceCtorEq, if_false, Nat.mul_comm (l / 32) 32]

theorem redWord_eq (o : RedOp) : redWord o = redOp o := by
  funext a b
  cases o with
  | addI32 => exact add_eq_mod32 a b
  | minI32 => exact minI_eq a b
  | maxI32 => exact maxI_eq a b
  | minN32 => exact minN_eq a b
  | maxN32 => exact maxN_eq a b
  | and => rfl
  | or => rfl
  | xor => rfl

theorem scanWord_eq (o : ScanOp) : scanWord o = (scanOp o).1 := by
  funext a b
  cases o with
  | addIncl => exact add_eq_mod32 a b
  | addExcl => exact add_eq_mod32 a b
  | maxI32Incl => exact maxI_eq a b
  | minI32Incl => exact minI_eq a b
  | orIncl => rfl

theorem combine_eq_join (f : Word → Word → Word) : ∀ w, combine f w = join f w
  | [] => rfl
  | _ :: _ => rfl

/-- The lanes that a SCAN combines in lane l. -/
theorem scanned_eq (o : ScanOp) (m l : Nat) : (if o = .addExcl then decide (m < l) else decide (m ≤ l)) =
    (decide (m < l) || ((scanOp o).2 && decide (m = l))) := by
  have hle : decide (m ≤ l) = (decide (m < l) || decide (m = l)) := by
    rw [← Bool.decide_or, decide_eq_decide, Nat.le_iff_lt_or_eq]
  cases o with
  | addExcl => exact (Bool.or_false _).symm
  | addIncl | maxI32Incl | minI32Incl | orIncl => exact hle

theorem laneExchange : LaneExchange := by
  intro i s t x d n v h r
  unfold exchange at h
  split at h
  · cases h
    refine team_results r (head_ok (o := .dst _) r rfl) rfl rfl (fun _ l _ => ?_) (by decide)
    exact congrArg (across x _) (shflSrc_eq_source x _ _ _ l)
  · cases h
    refine team_results r (head_ok (o := .dst _) r rfl) rfl rfl (fun _ _ _ => ?_) (by decide)
    rw [combine_eq_join, redWord_eq]
    rfl
  · cases h
    refine team_results r (head_ok (o := .dst _) r rfl) rfl rfl (fun _ _ _ => ?_) (by decide)
    simp only [combine_eq_join, scanWord_eq, scanned_eq]
    rfl
  · cases h

end Sys2Proof.Integer
end

section
/-!
SUPPORT. Votes (R137), the float mode (R156), and the obligations of the family.
-/

namespace Sys2Proof.Integer

open Sys2Proof.Machine Sys2Proof.Claims Sys2Proof.Control

/-- A sum of distinct powers of two has a bit where a power is among them. -/
theorem sum_two_pow_lt_and_testBit (p : Nat → Bool) (n : Nat) :
    ((List.range n).filter p).foldl (fun m i => m + 2 ^ i) 0 < 2 ^ n ∧
      ∀ k, (((List.range n).filter p).foldl (fun m i => m + 2 ^ i) 0).testBit k = (decide (k < n) && p k) := by
  induction n with
  | zero => exact ⟨Nat.one_pos, fun k => by simp⟩
  | succ n ih =>
    obtain ⟨hlt, hbit⟩ := ih
    rw [List.range_succ, List.filter_append, List.foldl_append]
    generalize ((List.range n).filter p).foldl (fun m i => m + 2 ^ i) 0 = sum at hlt hbit ⊢
    cases hp : p n with
    | false =>
      simp only [List.filter_cons, hp, List.filter_nil, List.foldl_nil, Bool.false_eq_true, if_false]
      refine ⟨hlt.trans (Nat.pow_lt_pow_right (by omega) n.lt_succ_self), fun k => ?_⟩
      rw [hbit]
      rcases lt_trichotomy k n with h | rfl | h
      · rw [decide_eq_true h, decide_eq_true (by omega)]
      · rw [hp, Bool.and_false, Bool.and_false]
      · rw [decide_eq_false (by omega), decide_eq_false (by omega)]
    | true =>
      simp only [List.filter_cons, hp, List.filter_nil, List.foldl_cons, List.foldl_nil, if_true]
      refine ⟨by rw [pow_succ]; omega, fun k => ?_⟩
      rw [show sum + 2 ^ n = 2 ^ n * 1 + sum by ring, Nat.testBit_two_pow_mul_add 1 hlt]
      rcases lt_trichotomy k n with h | rfl | h
      · rw [if_pos h, hbit, decide_eq_true h, decide_eq_true (by omega)]
      · simp [hp]
      · rw [if_neg (by omega), decide_eq_false (by omega), Bool.false_and, Nat.testBit_lt_two_pow]
        exact Nat.one_lt_two_pow (by omega)

theorem ofNat_sum_two_pow (p : Nat → Bool) :
    BitVec.ofNat 32 (((List.range 32).filter p).foldl (fun m i => m + 2 ^ i) 0) = bitsOf p :=
  eq_bitsOf fun k hk => by
    rw [BitVec.getLsbD_ofNat, decide_eq_true hk, Bool.true_and, (sum_two_pow_lt_and_testBit p 32).2, decide_eq_true hk, Bool.true_and]

/-- Words all equal to the first are all equal. -/
theorem all_beq_head (f : Nat → Word) (l : Nat) (ls : List Nat) :
    ((l :: ls).all fun m => f m == f l) = (l :: ls).all fun m => (l :: ls).all fun k => f m == f k := by
  rw [Bool.eq_iff_iff]
  simp only [List.all_eq_true, beq_iff_eq]
  exact ⟨fun h m hm k hk => (h m hm).trans (h k hk).symm, fun h m hm => h m hm l (List.mem_cons_self ..)⟩

theorem uniform_eq (x : Team) (a : Field) : (x.active.all fun m => x.rd 0 a 0 m == x.rdFirst 0 a) =
    x.active.all fun m => x.active.all fun k => x.rd 0 a 0 m == x.rd 0 a 0 k := by
  rw [Team.rdFirst, Team.first]
  cases x.active with
  | nil => rfl
  | cons l ls => exact all_beq_head (x.rd 0 a 0) l ls

theorem voteWord_eq_ballot (x : Team) (f : VoteForm) (a : Field) (l : Nat) : x.voteWord f a l = ballot x f a l := by
  cases f with
  | any => rfl
  | all => rfl
  | uni => exact congrArg truth (uniform_eq x a)
  | ballot => rw [Team.voteWord, ofNat_sum_two_pow, Nat.mul_comm, ballot]

/-- Setting Z behind a result that leaves the flags. -/
theorem setZ_of_ctx {x y : Team} (h : y.ctx = x.ctx) (z : Bool) :
    y.setZ z = { y with ctx := { x.ctx with cc := { x.ctx.cc with z := z } } } := by
  rw [Team.setZ, h]

theorem vote : Vote := by
  intro f d a s t x r
  have hw := result_wrote (x := x.issued (.vote f d a)) (ballot x f a) (head_ok (o := .dst _) r rfl)
  refine ⟨_, hw, ?_⟩
  refine (issue_team r.1 ?_).trans ?_
  · exact r.2
  have hb : (x.issued (.vote f d a)).voteWord f a = ballot x f a := funext fun l => voteWord_eq_ballot x f a l
  simp only [hb, Team.first, active_issued, setZ_of_ctx (wrote_ctx hw)]
  cases x.active <;> rfl

theorem fmodeWord_eq (m : Machine.FloatMode) : m.word = bitsOf fun k =>
    if k = 14 then m.flush else if 15 ≤ k ∧ k < 17 then m.round.getLsbD (k - 15) else false := by
  refine eq_bitsOf fun k _ => ?_
  simp only [FloatMode.word, BitVec.getLsbD_append]
  obtain h | rfl | ⟨h, h'⟩ | h : k < 14 ∨ k = 14 ∨ (15 ≤ k ∧ k < 17) ∨ 17 ≤ k := by omega
  · rw [if_pos h, if_neg (by omega), if_neg (by omega), BitVec.getLsbD_zero]
  · rw [if_neg (by omega), if_pos (by omega), if_pos rfl, BitVec.getLsbD_ofBool]
    exact Bool.true_and _
  · rw [if_neg (by omega), if_neg (by omega), if_pos (by omega), if_neg (by omega), if_pos ⟨h, h'⟩]
    rfl
  · rw [if_neg (by omega), if_neg (by omega), if_neg (by omega), if_neg (by omega), if_neg (by omega), BitVec.getLsbD_zero]

@[simp] theorem ctx_issued (x : Team) (i : Instr) : (x.issued i).ctx = x.ctx := rfl

theorem floatMode : Claims.FloatMode := by
  intro d a s t x r
  have hw := result_wrote (x := x.issued (.fmode d a)) (fun _ => x.ctx.fmode.word) (head_ok (o := .dst _) r rfl)
  rw [← fmodeWord_eq x.ctx.fmode]
  refine ⟨_, hw, ?_⟩
  refine (issue_team r.1 ?_).trans ?_
  · exact r.2
  simp only [Team.first, Team.uniform, active_issued, ctx_issued, wrote_ctx hw]
  cases x.active <;> rfl

end Sys2Proof.Integer

namespace Sys2Proof.Proofs

open Sys2Proof.Integer

/-- Settles O1: every form is an ordinary result of its rule's word, and eight DIVSTEP.N32 are 32 steps of restoring division. -/
theorem integerArithmetic : Obligations.IntegerArithmetic := ⟨integerArithmeticPart, divisionByEightSteps⟩

/-- Settles O2: every form is an ordinary result of its rule's word. -/
theorem logicAndLaneExchange : Obligations.LogicAndLaneExchange := ⟨integerLogic, laneExchange⟩

/-- Settles O6: an ordinary result, and then the one flag or the mode, from the lowest active lane. -/
theorem votesAndFloatMode : Obligations.VotesAndFloatMode := ⟨vote, floatMode⟩

end Sys2Proof.Proofs
end
